-- ==== Sys2Proof/Word.lean ====
section
/-!
DEFINITION. The words the part's records and frames are made of.
-/

namespace Sys2Proof

/-- One byte of a frame, a block of the drop protocol or the spool DRAM. -/
abbrev Byte := BitVec 8

/-- A 16-bit field of a frame: a job tag, an index, an account number as carried. -/
abbrev Half := BitVec 16

/-- A value of the 32-bit millisecond timestamp (section 0.7.4); it wraps. -/
abbrev Time := BitVec 32

end Sys2Proof
end

