-- ==== Sys2Proof/Config.lean ====
section
/-!
DEFINITION. What the part fixes (capacities, marks, limits, times, with the rule that gives each), and the FREE VALUES:
constants without a body, one for each thing the spec leaves open, so that nothing in Lean can tell what they are.
-/

namespace Sys2Proof.Config

/-- Bytes of one spool block (R7). -/
def blockBytes : Nat := 4096

/-- Spool blocks (R7). -/
def spoolBlocks : Nat := 32768

/-- Sheet descriptors (R6). -/
def sheetDescriptors : Nat := 16384

/-- Largest sheet image, in bytes (R11). -/
def maxSheetBytes : Nat := 16777216

/-- The low watermark: below it the SPM sends PAUSE (R16). -/
def lowMark : Nat := 2048

/-- The high watermark: at or above it the SPM sends RESUME (R16). -/
def highMark : Nat := 4096

/-- Largest payload of a job-link frame (R165). -/
def maxPayload : Nat := 1024

/-- Frames the transmit list may hold (R167). -/
def txLimit : Nat := 256

/-- Frames at which an ALERT frame is no longer taken (R167). -/
def txAlertLimit : Nat := 192

/-- Most entries of one TABLE-WRITE or TABLE-READ (R169). -/
def maxTableCount : Nat := 32

/-- Bytes of a READ-REPLY left for entries (R170). -/
def readReplyRoom : Nat := 1018

/-- Entries of the Alert Queue (R152). -/
def alertEntries : Nat := 64

/-- The recovery limit, in ms (R77). -/
def recoveryLimit : Nat := 50

/-- The fault rest, in ms (R78). -/
def faultRest : Nat := 5000

/-- Contentions of one exchange that fault the port (R77). -/
def contentionLimit : Nat := 3

/-- Image bytes of one DATA segment (R86). -/
def segmentBytes : Nat := 240

/-- Longest payload of a master block or reply (R85). -/
def maxBlockPayload : Nat := 250

/-- Consecutive 1 samples that make a character time of idle (R68, R69). -/
def idleSamples : Nat := 176

/-- Largest value of a 16-bit counter that saturates. -/
def max16 : Nat := 65535

/-- Largest value of a 32-bit counter or total that saturates. -/
def max32 : Nat := 4294967295

/-- Largest and smallest balance (R117). -/
def maxBalance : Int := 2147483647

/-- The smallest balance (R117). -/
def minBalance : Int := -2147483648

/-- The value at which a lifetime meter rolls over (R132). -/
def meterModulus : Nat := 1000000000

/-- Part revision carried by HELLO (R173). -/
def partRevision : Nat := 1

/-- Bits a second of each rate code (R66); the codes 6 and 7 are never stored (R70). -/
def lineRate : Nat → Nat
  | 0 => 38400
  | 1 => 57600
  | 2 => 115200
  | 3 => 230400
  | 4 => 460800
  | _ => 921600

/-- FREE VALUE. A byte the spec does not state; its argument is a count of the uses, so that two uses are two values.
Assumption log 3. -/
opaque freeByte : Nat → Byte

/-- FREE VALUE. The order in which the events that fall due at one tick are taken: for each of them the place at which it
is put among those behind it. Its argument is a count of the uses. Assumption log 2. -/
opaque tickOrder : Nat → List Nat

end Sys2Proof.Config
end

