-- ==== Sys2Proof/Syntax.lean ====
section
/-!
DEFINITION. The commands the part takes, one constructor for each row of spec/opcode_table.json, and what they carry.
The table gives its rows no operands: what a constructor carries is what the rule of its row names (assumption log 25).
-/

namespace Sys2Proof

/-- What a job needs of a printer (R1, R31): the requirements of the job record. A mask has one flag a class, bit n for
class n. -/
structure Needs where
  colour    : Bool
  duplex    : Bool
  sizeMask  : BitVec 4
  mediaMask : BitVec 4
  deriving DecidableEq, Repr

/-- The payload of a JOB-OPEN (R31, R177), as carried. -/
structure OpenRequest where
  tag      : Half
  queueTag : Byte
  account  : Option Half
  copies   : Byte
  needs    : Needs
  priority : Option Byte
  deriving DecidableEq, Repr

/-- The payload of a SHEET (R9, R177), as carried. -/
structure SheetDecl where
  sides     : Byte
  sizeClass : Byte
  media     : Byte
  colour1   : Bool
  colour2   : Bool
  deriving DecidableEq, Repr

/-- A frame that passed the tests of R165, before its kind and stream are looked at. -/
structure InFrame where
  kind    : Byte
  stream  : BitVec 4
  payload : List Byte
  deriving DecidableEq, Repr

/-- The three kinds of management request (R168). -/
inductive RequestKind where
  | tableWrite
  | tableRead
  | command
  deriving DecidableEq, Repr

/-- One ROUTE entry as written (R26, R28). -/
structure RouteEntry where
  valid          : Bool
  pool           : Byte
  tariffClass    : Byte
  fromJob        : Bool
  fixedAccount   : Half
  priority       : Byte
  startThreshold : Byte
  holdOnArrival  : Bool
  colour         : Bool
  duplex         : Bool
  deriving DecidableEq, Repr

/-- One POOL entry as written (R44, R171); the pointer written is ignored. -/
structure PoolEntry where
  enabled : Bool
  reroute : Half
  pointer : Byte
  deriving DecidableEq, Repr

/-- One PORT entry as written (R70). -/
structure PortEntry where
  enabled : Bool
  rate    : Byte
  window  : Byte
  poll    : Half
  deriving DecidableEq, Repr

/-- One PRINTER entry as written (R88). -/
structure PrinterEntry where
  configured : Bool
  pool       : Byte
  colour     : Bool
  duplex     : Bool
  sizeMask   : BitVec 4
  mediaMask  : BitVec 4
  limit      : Byte
  deriving DecidableEq, Repr

/-- One tariff class (R106), as written and, once clamped, as held: the eight rates in the order size class 0 mono, size
class 0 colour, size class 1 mono and so on, the duplex rebate, the four media surcharges, the tier percent. -/
structure TariffClass where
  rates      : Vector Half 8
  rebate     : Byte
  surcharges : Vector Half 4
  tier       : Byte
  deriving DecidableEq, Repr

/-- One ACCOUNT entry as written (R117, R171); reserved and bound are ignored. A threshold of all ones is disabled. -/
structure AccountEntry where
  valid         : Bool
  blocked       : Bool
  unlimited     : Bool
  balance       : BitVec 32
  overdraft     : BitVec 32
  reserved      : BitVec 32
  threshold     : BitVec 32
  periodSheets  : BitVec 32
  periodMono    : BitVec 32
  periodColour  : BitVec 32
  periodCharge  : BitVec 32
  bound         : Byte
  deriving DecidableEq, Repr

/-- The DEVICE-CONFIG entry as written (R174). -/
structure DeviceConfigEntry where
  timeout : Byte
  action  : Byte
  beacon  : Byte
  deriving DecidableEq, Repr

/-- What the receiver sampled of one character after its start bit (R67): bit k of `s8`, `s9` and `s10` is the value of
samples 8, 9 and 10 of the character's bit k + 1. Bits 0 to 7 are the data bits, bit 8 the mark, bit 9 the stop bit. -/
structure CharSamples where
  s8  : BitVec 10
  s9  : BitVec 10
  s10 : BitVec 10
  deriving DecidableEq, Repr

/-- What the receiver sampled of a start bit (R67): how many consecutive 1 samples stood before it, and its samples 3, 5
and 7. -/
structure StartSamples where
  ones : Nat
  s3   : Bool
  s5   : Bool
  s7   : Bool
  deriving DecidableEq, Repr

/-- The commands: one constructor for each row of spec/opcode_table.json. `token` is the front end's token of a
management request (section 10.2); `first` is the first index of a table request. -/
inductive Instr where
  | powerOn
  | resetLine
  | restartReset
  | linkError (bytes : List Byte)
  | strayFrame (frame : InFrame)
  | jobOpen (stream : BitVec 4) (request : OpenRequest)
  | sheet (stream : BitVec 4) (decl : SheetDecl)
  | data (stream : BitVec 4) (payload : List Byte)
  | jobClose (stream : BitVec 4)
  | jobAbort (stream : BitVec 4)
  | tableRead (token : Byte) (table : Byte) (first : Half) (count : Byte)
  | tableWrite (token : Byte) (table : Byte) (first : Half) (count : Byte) (entries : List Byte)
  | routeWrite (token : Byte) (first : Half) (entries : List RouteEntry)
  | poolWrite (token : Byte) (first : Half) (entries : List PoolEntry)
  | portWrite (token : Byte) (first : Half) (entries : List PortEntry)
  | printerWrite (token : Byte) (first : Half) (entries : List PrinterEntry)
  | tariffWrite (token : Byte) (bank : Fin 2) (first : Half) (entries : List TariffClass)
  | accountWrite (token : Byte) (first : Half) (entries : List AccountEntry)
  | alertSetupWrite (token : Byte) (first : Half) (entries : List Half)
  | deviceConfigWrite (token : Byte) (first : Half) (entries : List DeviceConfigEntry)
  | malformed (kind : RequestKind) (payload : List Byte)
  | cancelJob (token : Byte) (tag : Half)
  | holdJob (token : Byte) (tag : Half)
  | releaseJob (token : Byte) (tag : Half)
  | adjust (token : Byte) (account : Half) (amount : BitVec 32)
  | closePeriod (token : Byte) (account : Half)
  | closePeriodAll (token : Byte)
  | swapTariff (token : Byte)
  | ackAlert (token : Byte) (kind : Byte) (index : Half) (cls : Byte)
  | printerServiceOut (token : Byte) (printer : Byte)
  | printerServiceIn (token : Byte) (printer : Byte)
  | portRestart (token : Byte) (port : Byte)
  | beaconOverride (token : Byte) (beacon : Byte) (pattern : Byte) (seconds : Half)
  | restart (token : Byte)
  | frameSent
  | silenceTimerExpiry
  | pollDue (printer : Fin 32)
  | echoMismatch (port : Fin 8) (samples : CharSamples)
  | echoTimeout (port : Fin 8)
  | blockTransmitted (port : Fin 8) (samples : CharSamples)
  | responseWindowExpiry (port : Fin 8)
  | replyReceived (port : Fin 8) (samples : CharSamples)
  | framingFault (port : Fin 8) (samples : CharSamples)
  | breakReceived (port : Fin 8) (samples : CharSamples)
  | lineIdle (port : Fin 8)
  | recoveryLimitExpiry (port : Fin 8)
  | faultRestExpiry (port : Fin 8)
  | stallTimerExpiry (printer : Fin 32)
  | fallingChange (slot : Fin 32)
  | risingChange (slot : Fin 32)
  | beaconOverrideExpiry (beacon : Fin 8)
  | startConfirmed (port : Fin 8) (samples : StartSamples)
  | characterReceived (port : Fin 8) (samples : CharSamples)
  | senseSample (levels : BitVec 32)
  deriving DecidableEq, Repr

end Sys2Proof
end

