-- ==== Sys2Proof/Machine/Operands.lean ====
section
/-!
DEFINITION. The bytes of frames, blocks and table entries: byte order, the two checks, and the reading of what a request
carries (R165, R168, R169, R171, R177 to R179).
-/

namespace Sys2Proof.Machine

/-! ### Byte order and checks -/

/-- The k low bytes of n, most significant byte first (R171, R177). -/
def beBytes : Nat → Nat → List Byte
  | 0, _ => []
  | k + 1, n => BitVec.ofNat 8 (n / 256 ^ k) :: beBytes k n

/-- The number whose bytes, most significant first, are given. -/
def beNat (bytes : List Byte) : Nat := bytes.foldl (fun n b => n * 256 + b.toNat) 0

/-- Shift `n` bits through the CRC-16 register (R177). -/
def crc16Shift : Nat → BitVec 16 → BitVec 16
  | 0, r => r
  | n + 1, r => crc16Shift n (if r.msb then (r <<< 1) ^^^ 0x1021#16 else r <<< 1)

/-- The CRC-16 of a run of bytes (R177): polynomial 1021 hex, register from FFFF hex, most significant bit first. -/
def crc16 (bytes : List Byte) : BitVec 16 :=
  bytes.foldl (fun r b => crc16Shift 8 (r ^^^ BitVec.shiftLeft (b.zeroExtend 16) 8)) 0xFFFF#16

/-- Shift `n` bits through the CRC-8 register (R179). -/
def crc8Shift : Nat → Byte → Byte
  | 0, r => r
  | n + 1, r => crc8Shift n (if r.msb then (r <<< 1) ^^^ 0x07#8 else r <<< 1)

/-- The CRC-8 of a run of bytes (R179): polynomial 07 hex, register from 0, most significant bit first. -/
def crc8 (bytes : List Byte) : Byte := bytes.foldl (fun r b => crc8Shift 8 (r ^^^ b)) 0#8

/-- Byte i of a payload; 0 past its end, where no caller looks. -/
def byteAt (bytes : List Byte) (i : Nat) : Byte := bytes.getD i 0#8

/-- The two-byte field at i, most significant byte first. -/
def halfAt (bytes : List Byte) (i : Nat) : Half := BitVec.ofNat 16 (beNat ((bytes.drop i).take 2))

/-- The four-byte field at i, most significant byte first. -/
def wordAt (bytes : List Byte) (i : Nat) : BitVec 32 := BitVec.ofNat 32 (beNat ((bytes.drop i).take 4))

/-- A byte of flags, the first in bit 0 (R177). -/
def flagByte : List Bool → Byte
  | [] => 0#8
  | b :: bs => (flagByte bs <<< 1) ||| (if b then 1#8 else 0#8)

/-! ### Frames -/

/-- The bytes of a frame of the job link (R165, R177). -/
def frameBytes (kind stream : Byte) (payload : List Byte) : List Byte :=
  let body := kind :: stream :: beBytes 2 payload.length ++ payload
  body ++ beBytes 2 (crc16 body).toNat

/-- R165: a received run of bytes that the JLI discards: its number of bytes is not 6 plus the length, the length is above
1024, the stream is above 15, or the check differs. -/
def frameFault (bytes : List Byte) : Bool :=
  let len := (halfAt bytes 2).toNat
  (bytes.length != 6 + len) || decide (len > Config.maxPayload) || decide ((byteAt bytes 1).toNat > 15)
    || (halfAt bytes (4 + len) != crc16 (bytes.take (4 + len)))

/-- The kind, stream and payload of a run of bytes that passed R165. -/
def readFrame (bytes : List Byte) : InFrame where
  kind := byteAt bytes 0
  stream := (byteAt bytes 1).truncate 4
  payload := (bytes.drop 4).take (halfAt bytes 2).toNat

/-- R166: the payload length a job frame's kind requires; `none` for a kind of no job frame. DATA takes any length. -/
def jobFrameLengthOk (kind : Byte) (n : Nat) : Option Bool :=
  match kind.toNat with
  | 0x01 => some (n == 10)
  | 0x02 => some (n == 4)
  | 0x03 => some true
  | 0x04 => some (n == 0)
  | 0x05 => some (n == 0)
  | _ => none

/-- The kind of management request a kind code names (R177). -/
def requestKind (kind : Byte) : Option RequestKind :=
  match kind.toNat with
  | 0x10 => some .tableWrite
  | 0x11 => some .tableRead
  | 0x12 => some .command
  | _ => none

/-- R166: a valid frame that is a stray frame: a job frame on stream 0 or of the wrong length, a management frame on a job
stream, an outbound kind or a kind code that is not listed. -/
def strayInFrame (f : InFrame) : Bool :=
  match jobFrameLengthOk f.kind f.payload.length with
  | some ok => f.stream == 0#4 || !ok
  | none => (requestKind f.kind).isNone || f.stream != 0#4

/-! ### The form of management requests -/

/-- Bytes of arguments of each command code (R178); `none` for a code that is not one of the eleven. -/
def commandArgLength : Nat → Option Nat
  | 1 => some 2
  | 2 => some 2
  | 3 => some 2
  | 4 => some 6
  | 5 => some 3
  | 6 => some 0
  | 7 => some 4
  | 8 => some 2
  | 9 => some 1
  | 10 => some 4
  | 11 => some 0
  | _ => none

/-- R168: the forms that are refused MALFORMED before any table or command is looked at. -/
def formFault (kind : RequestKind) (payload : List Byte) : Bool :=
  match kind with
  | .tableWrite => decide (payload.length < 5)
  | .tableRead => payload.length != 5
  | .command => decide (payload.length < 2) || (commandArgLength (byteAt payload 1).toNat != some (payload.length - 2))

/-- The tables of R171: how many entries each has, and the bytes of a write entry (`none` for a table that cannot be
written). -/
def tableShape (id : Byte) : Option (Nat × Option Nat) :=
  match id.toNat with
  | 1 => some (256, some 7)
  | 2 => some (16, some 4)
  | 3 => some (8, some 5)
  | 4 => some (32, some 4)
  | 5 => some (16, some 26)
  | 6 => some (16, some 26)
  | 7 => some (512, some 34)
  | 8 => some (74, some 2)
  | 9 => some (1, some 3)
  | 16 => some (128, none)
  | 17 => some (64, none)
  | 18 => some (32, none)
  | 19 => some (8, none)
  | 20 => some (1, none)
  | _ => none

/-! ### Write entries (R171)

The places of flags that R171 does not spell out are assumption log 15. -/

/-- A ROUTE entry from its 7 bytes. -/
def readRouteEntry (b : List Byte) : RouteEntry where
  valid := (byteAt b 0).getLsbD 0
  pool := byteAt b 1
  tariffClass := byteAt b 2
  fromJob := (byteAt b 0).getLsbD 1
  fixedAccount := halfAt b 3
  priority := byteAt b 5
  startThreshold := byteAt b 6
  holdOnArrival := (byteAt b 0).getLsbD 2
  colour := (byteAt b 0).getLsbD 3
  duplex := (byteAt b 0).getLsbD 4

/-- A POOL entry from its 4 bytes. -/
def readPoolEntry (b : List Byte) : PoolEntry where
  enabled := (byteAt b 0).getLsbD 0
  reroute := halfAt b 1
  pointer := byteAt b 3

/-- A PORT entry from its 5 bytes. -/
def readPortEntry (b : List Byte) : PortEntry where
  enabled := (byteAt b 0).getLsbD 0
  rate := byteAt b 1
  window := byteAt b 2
  poll := halfAt b 3

/-- A PRINTER entry from its 4 bytes: flags, pool, the two masks, window limit. -/
def readPrinterEntry (b : List Byte) : PrinterEntry where
  configured := (byteAt b 0).getLsbD 0
  pool := byteAt b 1
  colour := (byteAt b 0).getLsbD 1
  duplex := (byteAt b 0).getLsbD 2
  sizeMask := (byteAt b 2).truncate 4
  mediaMask := (byteAt b 2 >>> 4).truncate 4
  limit := byteAt b 3

/-- A tariff class from its 26 bytes, in the field order of R107. -/
def readTariffClass (b : List Byte) : TariffClass where
  rates := Vector.ofFn fun i => halfAt b (2 * i.val)
  rebate := byteAt b 16
  surcharges := Vector.ofFn fun i => halfAt b (17 + 2 * i.val)
  tier := byteAt b 25

/-- An ACCOUNT entry from its 34 bytes. -/
def readAccountEntry (b : List Byte) : AccountEntry where
  valid := (byteAt b 0).getLsbD 0
  blocked := (byteAt b 0).getLsbD 1
  unlimited := (byteAt b 0).getLsbD 2
  balance := wordAt b 1
  overdraft := wordAt b 5
  reserved := wordAt b 9
  threshold := wordAt b 13
  periodSheets := wordAt b 17
  periodMono := wordAt b 21
  periodColour := wordAt b 25
  periodCharge := wordAt b 29
  bound := byteAt b 33

/-- A DEVICE-CONFIG entry from its 3 bytes. -/
def readDeviceConfigEntry (b : List Byte) : DeviceConfigEntry where
  timeout := byteAt b 0
  action := byteAt b 1
  beacon := byteAt b 2

/-- The first `n` runs of `size` bytes of a payload, each read as one entry. -/
def readEntries {α : Type} (read : List Byte → α) (size : Nat) : Nat → List Byte → List α
  | 0, _ => []
  | n + 1, bytes => read (bytes.take size) :: readEntries read size n (bytes.drop size)

/-- The payload of a JOB-OPEN (R177). -/
def readOpenRequest (b : List Byte) : OpenRequest where
  tag := halfAt b 0
  queueTag := byteAt b 2
  account := if (byteAt b 3).getLsbD 0 then some (halfAt b 4) else none
  copies := byteAt b 6
  needs :=
    { colour := (byteAt b 3).getLsbD 2
      duplex := (byteAt b 3).getLsbD 3
      sizeMask := (byteAt b 7).truncate 4
      mediaMask := (byteAt b 8).truncate 4 }
  priority := if (byteAt b 3).getLsbD 1 then some (byteAt b 9) else none

/-- The payload of a SHEET (R177). -/
def readSheetDecl (b : List Byte) : SheetDecl where
  sides := byteAt b 0
  sizeClass := byteAt b 1
  media := byteAt b 2
  colour1 := (byteAt b 3).getLsbD 0
  colour2 := (byteAt b 3).getLsbD 1

/-! ### The receiver's samples -/

/-- R67: each later bit of a character is the majority of its samples 8, 9 and 10. -/
def majorityBits (c : CharSamples) : BitVec 10 := (c.s8 &&& c.s9) ||| (c.s8 &&& c.s10) ||| (c.s9 &&& c.s10)

/-- R67: some bit's three samples disagree. -/
def samplesDisagree (c : CharSamples) : Bool := (c.s8 != c.s9) || (c.s9 != c.s10)

/-- R67: a start is recognised after at least three consecutive 1 samples, and confirmed when at least two of samples 3, 5
and 7 are 0. -/
def startIsConfirmed (c : StartSamples) : Bool :=
  decide (3 ≤ c.ones) && ((!c.s3 && !c.s5) || (!c.s3 && !c.s7) || (!c.s5 && !c.s7))

/-- R67: the three confirmation samples of the start bit disagree. -/
def startDisagrees (c : StartSamples) : Bool := (c.s3 != c.s5) || (c.s5 != c.s7)

/-- What the receiver reports at the end of a character. -/
inductive CharReport where
  | character (data : Byte) (mark : Bool)
  | framing
  | brk
  deriving DecidableEq, Repr

/-- R67, R68: a stop bit of 1 hands the character on; a stop bit of 0 is a break when the 8 data bits and the mark bit all
read 0, and otherwise a framing fault. -/
def charReport (c : CharSamples) : CharReport :=
  if (majorityBits c).getLsbD 9 then .character ((majorityBits c).truncate 8) ((majorityBits c).getLsbD 8)
  else if majorityBits c == 0#10 then .brk
  else .framing

end Sys2Proof.Machine
end

