-- ==== Sys2Proof/Machine/State.lean ====
section
/-!
DEFINITION. The state of the part, block by block, as plain data, and the state right after power-on.
-/

namespace Sys2Proof.Machine

/-! ### Jobs (R1) -/

/-- The phases of a live job (R1, R2); a FREE slot holds no record. -/
inductive Phase where
  | spooling
  | queued
  | held
  | printing
  | cancelling
  deriving DecidableEq, Repr

/-- Why a printing job releases no more (R53). -/
inductive DrainReason where
  | hold
  | budget
  | service
  deriving DecidableEq, Repr

/-- The set of hold reasons of a job (section 3.5). -/
structure Holds where
  operator : Bool
  arrival  : Bool
  budget   : Bool
  deriving DecidableEq, Repr

/-- How a job ends (section 1.10), in the order that codes it. -/
inductive JobOutcome where
  | completed
  | cancelled
  | damaged
  | error
  | refused
  deriving DecidableEq, Repr

/-- The causes of section 1.10, in the order that codes them (R171). -/
inductive Cause where
  | none
  | operator
  | aborted
  | streamReopened
  | noBlock
  | sheetTooLarge
  | noDescriptor
  | sheetExceeds
  | badSheet
  | duplicateTag
  | noRoute
  | accountMissing
  | accountInvalid
  | notPermitted
  | noCapablePrinter
  | noJobSlot
  deriving DecidableEq, Repr

/-- The ink of a printed side. -/
inductive Ink where
  | mono
  | colour
  deriving DecidableEq, Repr

/-- A sheet descriptor in use (section 1.4.1). -/
structure SheetDesc where
  sides     : Nat
  sizeClass : Fin 4
  media     : Fin 4
  ink1      : Ink
  ink2      : Option Ink
  byteLen   : Nat
  complete  : Bool
  blocks    : List (Fin 32768)
  deriving DecidableEq, Repr

/-- The record of a live job (R1). `stream` i stands for job stream i + 1. -/
structure Job where
  phase          : Phase
  tag            : Half
  stream         : Option (Fin 15)
  isOpen         : Bool
  route          : Byte
  pool           : Fin 16
  account        : Fin 512
  tariffClass    : Fin 16
  bank           : Fin 2
  priority       : Fin 4
  arrival        : BitVec 32
  needs          : Needs
  copies         : Nat
  sheets         : Nat
  sheetList      : List Nat
  releasePos     : Nat
  confirmPos     : Nat
  holds          : Holds
  drain          : Option DrainReason
  stalled        : Bool
  printer        : Option (Fin 32)
  lastPrinter    : Option (Fin 32)
  chargeTotal    : Nat
  sheetsLost     : Nat
  startThreshold : Nat
  ending         : Option (JobOutcome × Cause)
  deriving DecidableEq, Repr

/-- What a job stream is doing (section 1.3). -/
inductive StreamState where
  | idle
  | opened (slot : Fin 128)
  | discard
  deriving DecidableEq, Repr

/-- The Spool Manager's state. `descs` lists the sheet descriptors in use by rising number; an unlisted number is free
(R6). `freeList` has the block to be taken next at its head (R7). `dram` lists the bytes of the spool DRAM that differ
from `dramDefault`, by rising address. -/
structure Spm where
  jobs     : Vector (Option Job) 128
  streams  : Vector StreamState 15
  descs    : List (Nat × SheetDesc)
  freeList : List (Fin 32768)
  paused   : Bool
  dram     : List Host.Cell
  deriving DecidableEq, Repr

/-! ### Routes, pools and dispatch records -/

/-- A route (R26). -/
structure Route where
  valid          : Bool
  pool           : Fin 16
  tariffClass    : Fin 16
  fromJob        : Bool
  fixedAccount   : Fin 512
  priority       : Fin 4
  startThreshold : Nat
  holdOnArrival  : Bool
  colour         : Bool
  duplex         : Bool
  deriving DecidableEq, Repr

/-- The Route Classifier's state: the Route Table (R26) and the admission sequence counter (R40). -/
structure Rcl where
  routes  : Vector Route 256
  arrival : BitVec 32
  deriving DecidableEq, Repr

/-- A pool (R42): the reroute timeout is in seconds. -/
structure Pool where
  enabled : Bool
  reroute : Nat
  pointer : Fin 32
  queue   : List (Fin 128)
  deriving DecidableEq, Repr

/-- A window entry (R61): `sent` is SENT, its absence SENDING. -/
structure WindowEntry where
  feed     : Byte
  job      : Fin 128
  copy     : Nat
  sheet    : Nat
  estimate : Nat
  sent     : Bool
  deriving DecidableEq, Repr

/-- A printer's dispatch record (R61, R55) with its stall timer (R136). `feeds` is the result of can feed that the Printer
Agent last handed to the DSC (R134). -/
structure Dispatch where
  assigned : Option (Fin 128)
  window   : List WindowEntry
  leaving  : Bool
  stall    : Option Time
  feeds    : Bool
  deriving DecidableEq, Repr

/-- The Dispatch Scheduler's state. -/
structure Dsc where
  pools    : Vector Pool 16
  printers : Vector Dispatch 32
  deriving DecidableEq, Repr

/-! ### Drop lines -/

/-- A PORT record (R70). -/
structure PortConfig where
  enabled : Bool
  rate    : Nat
  window  : Nat
  poll    : Nat
  deriving DecidableEq, Repr

/-- The line states (R73), in the order that codes them. -/
inductive LineState where
  | disabled
  | idle
  | transmitting
  | awaiting
  | receiving
  | recovering
  | faulted
  deriving DecidableEq, Repr

/-- The receiver's modes (section 4.2). -/
inductive RxMode where
  | searching
  | inCharacter
  | resync
  deriving DecidableEq, Repr

/-- A receiver: its mode, the line idle flag, the count of consecutive 1 samples as it stood at the receiver's last report,
and whether the start bit of the character under way was noisy. -/
structure Receiver where
  mode       : RxMode
  idleFlag   : Bool
  ones       : Nat
  startNoisy : Bool
  deriving DecidableEq, Repr

/-- A character on the wire (R66): its data bits and its mark bit. -/
structure LineChar where
  data : Byte
  mark : Bool
  deriving DecidableEq, Repr

/-- What an exchange carries (R86): a poll, a START or DATA of the sheet with the given feed number (with what the Printer
Agent needs when the exchange ends), a DROP-SHEETS, or the DLC's own LINE-RESET. -/
inductive BlockKind where
  | poll
  | start (feed : Byte) (noData : Bool)
  | data (feed : Byte) (segment : Nat) (last : Bool)
  | dropSheets
  | lineReset
  deriving DecidableEq, Repr

/-- The exchange in flight (R73, R74, R77). For a LINE-RESET the drop plays no part. -/
structure Exchange where
  kind        : BlockKind
  drop        : Fin 4
  chars       : List LineChar
  echoed      : Nat
  contentions : Nat
  deriving DecidableEq, Repr

/-- A DROP-SHEETS in the control queue (R83): `waitDue` when it was queued again after a failed exchange and waits for its
drop's poll due time (R103). -/
structure ControlBlock where
  drop    : Fin 4
  waitDue : Bool
  deriving DecidableEq, Repr

/-- One port: its PORT record, the rate and window in use on the wire (R71), its PORT-STATUS fields (R72), its receiver,
the exchange in flight and the characters of the reply, and its timers. `discarding` is set from the DLC's own break until
the receiver next reports idle (R77). -/
structure Port where
  config         : PortConfig
  rateInUse      : Nat
  windowInUse    : Nat
  line           : LineState
  rx             : Receiver
  noise          : Nat
  framing        : Nat
  contention     : Nat
  protocolErrors : Nat
  attention      : BitVec 4
  control        : List ControlBlock
  lastDrop       : Fin 4
  restartPending : Bool
  exchange       : Option Exchange
  reply          : List Byte
  discarding     : Bool
  windowExpiry   : Option Time
  recoverExpiry  : Option Time
  restExpiry     : Option Time
  deriving DecidableEq, Repr

/-! ### Printers -/

/-- The conditions of a STATUS (R87), in the order that codes them (R179). -/
inductive Condition where
  | ready
  | warming
  | jam
  | doorOpen
  | trayEmpty
  | tonerOut
  deriving DecidableEq, Repr

/-- The link states (R90), in the order that codes them. -/
inductive LinkState where
  | unknown
  | answering
  | lost
  deriving DecidableEq, Repr

/-- The block next to be sent for the oldest SENDING entry (R90, R94). -/
inductive SendStage where
  | start
  | data (segment : Nat)
  deriving DecidableEq, Repr

/-- The configuration part of a printer record (R88). -/
structure PrinterConfig where
  configured : Bool
  pool       : Option (Fin 16)
  colour     : Bool
  duplex     : Bool
  sizeMask   : BitVec 4
  mediaMask  : BitVec 4
  limit      : Nat
  deriving DecidableEq, Repr

/-- A printer record (R88, R90); the stall timer it shows is the DSC's. `inService` is the service field. -/
structure Printer where
  config    : PrinterConfig
  inService : Bool
  link      : LinkState
  missed    : Nat
  condition : Option Condition
  room      : Nat
  nextFeed  : Byte
  needsDrop : Bool
  dropFrom  : Option Byte
  pollDue   : Time
  unmatched : Nat
  stage     : Option SendStage
  naks      : Nat
  deriving DecidableEq, Repr

/-! ### Charging, accounts and meters -/

/-- The Charge Engine's state (R107 to R109). -/
structure Chg where
  banks   : Vector (Vector TariffClass 16) 2
  current : Fin 2
  bound   : Vector Nat 2
  deriving DecidableEq, Repr

/-- An account (R117). `blocked` is the state BLOCKED; a threshold of `none` is disabled. -/
structure Account where
  valid        : Bool
  blocked      : Bool
  unlimited    : Bool
  balance      : Int
  overdraft    : Nat
  reserved     : Nat
  threshold    : Option Nat
  periodSheets : Nat
  periodMono   : Nat
  periodColour : Nat
  periodCharge : Nat
  bound        : Nat
  deriving DecidableEq, Repr

/-- One lifetime meter with its rollover count (R132). -/
structure Meter where
  value : Nat
  rolls : Nat
  deriving DecidableEq, Repr

/-- The meters of one printer slot (R132). -/
structure Meters where
  sheets : Meter
  mono   : Meter
  colour : Meter
  deriving DecidableEq, Repr

/-- The Account Meter's state. -/
structure Acm where
  accounts : Vector Account 512
  meters   : Vector Meters 32
  deriving DecidableEq, Repr

/-! ### Alerts, beacons and sense inputs -/

/-- The alert classes (R151), in code order. -/
inductive AlertClass where
  | jam
  | printerLost
  | portFault
  | senseJam
  | doorOpen
  | trayEmpty
  | tonerOut
  | unattended
  | stallRerouted
  | budgetHold
  | jobDamaged
  | spoolLow
  deriving DecidableEq, Repr

/-- The source kinds (R171), in the order that codes them. -/
inductive SourceKind where
  | printer
  | port
  | account
  | jobTag
  | device
  deriving DecidableEq, Repr

/-- The key of an alert (R151). -/
structure AlertKey where
  kind  : SourceKind
  index : Nat
  cls   : AlertClass
  deriving DecidableEq, Repr

/-- An entry of the Alert Queue (R152); its severity is its class's. -/
structure AlertEntry where
  key       : AlertKey
  active    : Bool
  acked     : Bool
  sent      : Bool
  firstTime : Time
  lastTime  : Time
  count     : Nat
  deriving DecidableEq, Repr

/-- The patterns of a beacon (R159), in the order that codes them (R178). -/
inductive Pattern where
  | off
  | steady
  | slow
  | fast
  deriving DecidableEq, Repr

/-- A running beacon override (R160). -/
structure Override where
  pattern : Pattern
  expiry  : Time
  deriving DecidableEq, Repr

/-- The sense modes (R162), in the order that codes them. -/
inductive SenseMode where
  | off
  | edge
  | level
  deriving DecidableEq, Repr

/-- A sense input (R161, R162): the filtered level, the run count, the capture stamp, the mode and the condition. `sampled`,
the model's own, is the timestamp of the tick at which the filter last took its sample (assumption log 28). -/
structure Sense where
  high    : Bool
  run     : Nat
  stamp   : Time
  mode    : SenseMode
  active  : Bool
  sampled : Time
  deriving DecidableEq, Repr

/-- The Alert Relay's state. Bit c of the mask is the class of code c + 1. The office entry of the beacon map is also the
office beacon of DEVICE-CONFIG (R158, R174): it is held here alone. -/
structure Arl where
  queue         : List AlertEntry
  dropped       : Nat
  mask          : BitVec 12
  printerBeacon : Vector (Option (Fin 8)) 32
  portBeacon    : Vector (Option (Fin 8)) 8
  officeBeacon  : Option (Fin 8)
  overrides     : Vector (Option Override) 8
  sense         : Vector Sense 32
  deriving DecidableEq, Repr

/-! ### The job link and management -/

/-- The kinds of reset (section 0.7.7), in the order that codes them. -/
inductive ResetCause where
  | powerOn
  | resetLine
  | restart
  deriving DecidableEq, Repr

/-- The result codes (section 10.4), in the order that codes them. -/
inductive Result where
  | ok
  | malformed
  | badTable
  | badIndex
  | interlock
  | bankCurrent
  | bankBound
  | unknownJob
  | badState
  deriving DecidableEq, Repr

/-- The fields of a JOB-REPORT (R24). An account or printer of `none` is absent. -/
structure JobReport where
  tag         : Half
  outcome     : JobOutcome
  cause       : Cause
  account     : Option Nat
  sheets      : Nat
  copies      : Nat
  delivered   : Nat
  sheetsLost  : Nat
  chargeTotal : Nat
  lastPrinter : Option (Fin 32)
  deriving DecidableEq, Repr

/-- The frames the part sends (R177, R178). READ-REPLY and COMMAND-REPLY carry their entries and data as bytes; an ALERT
carries the direction (`raised`) and the fields of R156, its severity being its class's. -/
inductive OutFrame where
  | hello (cause : ResetCause)
  | pause (free : Nat)
  | resume (free : Nat)
  | readReply (token : Byte) (result : Result) (table : Byte) (first : Half) (count : Nat) (entries : List Byte)
  | commandReply (token : Byte) (code : Byte) (result : Result) (data : List Byte)
  | alert (raised : Bool) (key : AlertKey) (active : Bool) (count : Nat) (firstTime lastTime : Time)
  | jobReport (report : JobReport)
  deriving DecidableEq, Repr

/-- The Job Link Interface's state. `restart` is `some n` from a RESTART on: n frames of the transmit list, the reply last
among them, are still to be sent before the reset (R172). -/
structure Jli where
  tx          : List OutFrame
  linkErrors  : Nat
  strayFrames : Nat
  restart     : Option Nat
  deriving DecidableEq, Repr

/-- The Management Unit's state (R173, R174, R176): `holdAction` is the unattended action HOLD, the timeout in seconds. -/
structure Mgu where
  timeout    : Nat
  holdAction : Bool
  timer      : Option Time
  attended   : Bool
  cause      : ResetCause
  deriving DecidableEq, Repr

/-! ### The whole state -/

/-- The state of the part. `pending` is the queue of commands that wait, the front first; `choices` counts the uses of the
free values; `senseLines` are the levels that stand on the sense inputs, bit n for slot n. -/
structure State where
  jli        : Jli
  mgu        : Mgu
  rcl        : Rcl
  spm        : Spm
  dsc        : Dsc
  dlc        : Vector Port 8
  pra        : Vector Printer 32
  chg        : Chg
  acm        : Acm
  arl        : Arl
  now        : Time
  senseLines : BitVec 32
  choices    : Nat
  pending    : List Instr
  deriving DecidableEq, Repr

/-- Why the part would stop with a fault: the spec gives the part no behaviour that stops it, so there is no reason. -/
inductive Fault where
  deriving DecidableEq, Repr

/-- Why a command has no next state. -/
inductive Refusal where
  /-- Raised by an arm of `exec` whose command has no meaning yet; safe, since nothing is then claimed of it. No arm of this
  model raises it. -/
  | notModelled (mnemonic : String)
  deriving DecidableEq, Repr

/-! ### Power-on values -/

/-- What a byte of spool DRAM that nothing has written reads as. DESIGN CHOICE, unsafe: the spec gives no contents
(assumption log 4). -/
def dramDefault : Byte := 0#8

/-- R27: a route after power-on. -/
def Route.initial : Route where
  valid := false
  pool := 0
  tariffClass := 0
  fromJob := false
  fixedAccount := 0
  priority := 0
  startThreshold := 0
  holdOnArrival := false
  colour := false
  duplex := false

/-- R43: a pool after power-on. -/
def Pool.initial : Pool where
  enabled := false
  reroute := 0
  pointer := 0
  queue := []

/-- R61, R136: a dispatch record after any reset; no printer can feed (R134). -/
def Dispatch.initial : Dispatch where
  assigned := none
  window := []
  leaving := false
  stall := none
  feeds := false

/-- R69: the receiver as it starts after a reset and when a port leaves DISABLED. -/
def Receiver.initial : Receiver where
  mode := .resync
  idleFlag := false
  ones := 0
  startNoisy := false

/-- R70: a PORT record after power-on. -/
def PortConfig.initial : PortConfig where
  enabled := false
  rate := 2
  window := 3
  poll := 100

/-- R72, R73: a port that is not enabled, after any reset. -/
def Port.initial (config : PortConfig) : Port where
  config := config
  rateInUse := config.rate
  windowInUse := config.window
  line := .disabled
  rx := Receiver.initial
  noise := 0
  framing := 0
  contention := 0
  protocolErrors := 0
  attention := 0#4
  control := []
  lastDrop := 3
  restartPending := false
  exchange := none
  reply := []
  discarding := false
  windowExpiry := none
  recoverExpiry := none
  restExpiry := none

/-- R88: a printer's configuration after power-on. -/
def PrinterConfig.initial : PrinterConfig where
  configured := false
  pool := none
  colour := false
  duplex := false
  sizeMask := 0#4
  mediaMask := 0#4
  limit := 1

/-- R90: a printer record after any reset, with its configuration. The poll due time is DESIGN CHOICE 0 until the port's
line reset sets it (assumption log 6). -/
def Printer.initial (config : PrinterConfig) : Printer where
  config := config
  inService := true
  link := .unknown
  missed := 0
  condition := none
  room := 0
  nextFeed := 0#8
  needsDrop := false
  dropFrom := none
  pollDue := 0#32
  unmatched := 0
  stage := none
  naks := 0

/-- R107: a tariff class after power-on. -/
def TariffClass.initial : TariffClass where
  rates := Vector.replicate 8 0#16
  rebate := 0#8
  surcharges := Vector.replicate 4 0#16
  tier := 0#8

/-- R118: an account after power-on. -/
def Account.initial : Account where
  valid := false
  blocked := false
  unlimited := false
  balance := 0
  overdraft := 0
  reserved := 0
  threshold := none
  periodSheets := 0
  periodMono := 0
  periodColour := 0
  periodCharge := 0
  bound := 0

/-- R133: a meter after power-on. -/
def Meter.initial : Meter where
  value := 0
  rolls := 0

/-- R133: the meters of a slot after power-on. -/
def Meters.initial : Meters where
  sheets := Meter.initial
  mono := Meter.initial
  colour := Meter.initial

/-- R161, R162: a sense input after any reset, in the mode it is in. The first sample is the first tick's, so none is due at
the timestamp 0 of the reset (assumption log 28). -/
def Sense.initial (mode : SenseMode) : Sense where
  high := true
  run := 0
  stamp := 0#32
  mode := mode
  active := false
  sampled := 0#32

/-- R25: the spool after any reset, over the DRAM contents there are. -/
def Spm.initial (dram : List Host.Cell) : Spm where
  jobs := Vector.replicate 128 none
  streams := Vector.replicate 15 .idle
  descs := []
  freeList := (List.range 32768).map (Fin.ofNat 32768)
  paused := false
  dram := dram

/-- The machine right after power-on: every table at its power-on value (R27, R43, R70, R88, R107, R118, R133, R156, R158,
R163, R174), no job, no alert, the timestamp 0 (section 0.7.4), and HELLO handed to the emptied transmit list (R173). -/
def State.reset : State where
  jli :=
    { tx := [.hello .powerOn]
      linkErrors := 0
      strayFrames := 0
      restart := none }
  mgu :=
    { timeout := 0
      holdAction := false
      timer := none
      attended := true
      cause := .powerOn }
  rcl :=
    { routes := Vector.replicate 256 Route.initial
      arrival := 0#32 }
  spm := Spm.initial []
  dsc :=
    { pools := Vector.replicate 16 Pool.initial
      printers := Vector.replicate 32 Dispatch.initial }
  dlc := Vector.replicate 8 (Port.initial PortConfig.initial)
  pra := Vector.replicate 32 (Printer.initial PrinterConfig.initial)
  chg :=
    { banks := Vector.replicate 2 (Vector.replicate 16 TariffClass.initial)
      current := 0
      bound := Vector.replicate 2 0 }
  acm :=
    { accounts := Vector.replicate 512 Account.initial
      meters := Vector.replicate 32 Meters.initial }
  arl :=
    { queue := []
      dropped := 0
      mask := 0xFFF#12
      printerBeacon := Vector.replicate 32 none
      portBeacon := Vector.replicate 8 none
      officeBeacon := none
      overrides := Vector.replicate 8 none
      sense := Vector.replicate 32 (Sense.initial .off) }
  now := 0#32
  senseLines := 0xFFFFFFFF#32
  choices := 0
  pending := []

end Sys2Proof.Machine
end

