-- ==== Sys2Proof/Machine/Ops.lean ====
section
/-!
DEFINITION. The named operations the meanings are built from: saturation and time, printers on their lines, the spool DRAM,
and one update for each piece of state.
-/

namespace Sys2Proof.Machine

/-! ### Numbers, time and places -/

/-- Entry i of a table replaced. -/
def put {α : Type} {n : Nat} (table : Vector α n) (i : Fin n) (x : α) : Vector α n := table.set i.val x i.isLt

/-- Add to a counter that saturates at `limit` (section 0.7.5). -/
def satAdd (limit a b : Nat) : Nat := min limit (a + b)

/-- A balance saturates at the ends of its range (R117, R124, R128). -/
def clampBalance (z : Int) : Int := max Config.minBalance (min Config.maxBalance z)

/-- The comparison of a due time or an expiry with the timestamp, modulo 2^32 (R91, R136). -/
def reached (now due : Time) : Bool := decide ((now - due).toNat < 2147483648)

/-- The timestamp `ms` milliseconds on, wrapping (R136). -/
def after (now : Time) (ms : Nat) : Time := now + BitVec.ofNat 32 ms

/-- A timer that is running and whose expiry is reached. -/
def expired (now : Time) (timer : Option Time) : Bool :=
  match timer with
  | some expiry => reached now expiry
  | none => false

/-- Printer p sits on port p div 4 (chapter 5). -/
def portOf (p : Fin 32) : Fin 8 := ⟨p.val / 4, by omega⟩

/-- Printer p sits at drop p mod 4 (chapter 5). -/
def dropOf (p : Fin 32) : Fin 4 := ⟨p.val % 4, by omega⟩

/-- The printer at a drop of a port (R70). -/
def printerAt (q : Fin 8) (d : Fin 4) : Fin 32 := ⟨4 * q.val + d.val, by omega⟩

/-- A list's length, counted by an accumulator so that long lists can be measured (its law: countUp l n = n + l.length). -/
def countUp {α : Type} : List α → Nat → Nat
  | [], n => n
  | _ :: l, 0 => countUp l 1
  | _ :: l, n + 1 => countUp l (n + 2)

/-- The first element with the property replaced, the others kept in place. -/
def replaceFirst {α : Type} (f : α → Bool) (g : α → α) : List α → List α
  | [] => []
  | x :: l => if f x then g x :: l else x :: replaceFirst f g l

/-! ### Spool DRAM

A list of (address, byte) pairs by rising address, without the bytes that read as the default. -/

/-- The bytes of the spool DRAM (R7). -/
def Memory.size : Nat := 134217728

/-- The canonical form from an address on. -/
def Memory.wfFrom : Nat → List Host.Cell → Bool
  | _, [] => true
  | low, (a, b) :: rest =>
    decide (low ≤ a) && decide (a < Memory.size) && (b != dramDefault) && Memory.wfFrom (a + 1) rest

/-- The canonical form: addresses of the DRAM strictly rising, and no entry that an unlisted address reads as. -/
def Memory.wf (m : List Host.Cell) : Bool := Memory.wfFrom 0 m

/-- The byte at an address. -/
def Memory.read : List Host.Cell → Nat → Byte
  | [], _ => dramDefault
  | (a, b) :: rest, x => if x = a then b else if x < a then dramDefault else Memory.read rest x

/-- Write one byte, keeping the canonical form. -/
def Memory.write : List Host.Cell → Nat → Byte → List Host.Cell
  | [], x, v => if v = dramDefault then [] else [(x, v)]
  | (a, b) :: rest, x, v =>
    if x < a then (if v = dramDefault then (a, b) :: rest else (x, v) :: (a, b) :: rest)
    else if x = a then (if v = dramDefault then rest else (x, v) :: rest)
    else (a, b) :: Memory.write rest x v

/-- The address of byte `pos` of the image held in a block list, in data order (section 1.4.1); none past the blocks. -/
def imageAddress (blocks : List (Fin 32768)) (pos : Nat) : Option Nat :=
  match blocks[pos / Config.blockBytes]? with
  | some b => some (b.val * Config.blockBytes + pos % Config.blockBytes)
  | none => none

/-- Write a run of bytes into an image from byte `pos` on (R11). -/
def writeImage (blocks : List (Fin 32768)) : Nat → List Byte → List Host.Cell → List Host.Cell
  | _, [], m => m
  | pos, v :: rest, m =>
    match imageAddress blocks pos with
    | some a => writeImage blocks (pos + 1) rest (Memory.write m a v)
    | none => m

/-- Byte `pos` of an image. -/
def readImageByte (m : List Host.Cell) (blocks : List (Fin 32768)) (pos : Nat) : Byte :=
  match imageAddress blocks pos with
  | some a => Memory.read m a
  | none => dramDefault

/-- `n` bytes of an image from byte `pos` on. -/
def readImage (m : List Host.Cell) (blocks : List (Fin 32768)) (pos n : Nat) : List Byte :=
  (List.range n).map fun i => readImageByte m blocks (pos + i)

namespace State

/-! ### Reading -/

/-- The job in a slot; none when it is FREE. -/
def job (s : State) (j : Fin 128) : Option Job := s.spm.jobs.get j

/-- The dispatch record of a printer (R61). -/
def disp (s : State) (p : Fin 32) : Dispatch := s.dsc.printers.get p

/-- A pool (R42). -/
def pool (s : State) (k : Fin 16) : Pool := s.dsc.pools.get k

/-- A printer record (R88, R90). -/
def printer (s : State) (p : Fin 32) : Printer := s.pra.get p

/-- A port. -/
def port (s : State) (q : Fin 8) : Port := s.dlc.get q

/-- An account (R117). -/
def account (s : State) (a : Fin 512) : Account := s.acm.accounts.get a

/-- A route (R26). -/
def route (s : State) (r : Fin 256) : Route := s.rcl.routes.get r

/-- A job stream's state; `i` stands for stream i + 1. -/
def stream (s : State) (i : Fin 15) : StreamState := s.spm.streams.get i

/-- A sense input (R161). -/
def sense (s : State) (p : Fin 32) : Sense := s.arl.sense.get p

/-- The free-block count (R7). -/
def freeBlocks (s : State) : Nat := countUp s.spm.freeList 0

/-- The free-descriptor count (R6). -/
def freeDescriptors (s : State) : Nat := Config.sheetDescriptors - s.spm.descs.length

/-! ### Writing -/

/-- Fill or free a job slot. -/
def setJob (s : State) (j : Fin 128) (o : Option Job) : State :=
  { s with spm := { s.spm with jobs := put s.spm.jobs j o } }

/-- Change the job in a slot; a FREE slot is left FREE. -/
def modJob (s : State) (j : Fin 128) (f : Job → Job) : State :=
  match s.job j with
  | some x => s.setJob j (some (f x))
  | none => s

/-- Set a job stream's state. -/
def setStream (s : State) (i : Fin 15) (x : StreamState) : State :=
  { s with spm := { s.spm with streams := put s.spm.streams i x } }

/-- Set the descriptors in use. -/
def setDescs (s : State) (l : List (Nat × SheetDesc)) : State := { s with spm := { s.spm with descs := l } }

/-- Set the free list. -/
def setFreeList (s : State) (l : List (Fin 32768)) : State := { s with spm := { s.spm with freeList := l } }

/-- Set paused. -/
def setPaused (s : State) (b : Bool) : State := { s with spm := { s.spm with paused := b } }

/-- Write a run of bytes into the image held in a block list. -/
def writeDram (s : State) (blocks : List (Fin 32768)) (pos : Nat) (bytes : List Byte) : State :=
  { s with spm := { s.spm with dram := writeImage blocks pos bytes s.spm.dram } }

/-- Set a pool. -/
def setPool (s : State) (k : Fin 16) (x : Pool) : State := { s with dsc := { s.dsc with pools := put s.dsc.pools k x } }

/-- Set a pool's queue. -/
def setQueue (s : State) (k : Fin 16) (l : List (Fin 128)) : State :=
  { s with dsc := { s.dsc with pools := put s.dsc.pools k { s.dsc.pools.get k with queue := l } } }

/-- Set a dispatch record. -/
def setDisp (s : State) (p : Fin 32) (x : Dispatch) : State :=
  { s with dsc := { s.dsc with printers := put s.dsc.printers p x } }

/-- Set a port. -/
def setPort (s : State) (q : Fin 8) (x : Port) : State := { s with dlc := put s.dlc q x }

/-- Set a printer record. -/
def setPrinter (s : State) (p : Fin 32) (x : Printer) : State := { s with pra := put s.pra p x }

/-- Set a route. -/
def setRoute (s : State) (r : Fin 256) (x : Route) : State := { s with rcl := { s.rcl with routes := put s.rcl.routes r x } }

/-- Set the admission sequence counter (R40). -/
def setArrival (s : State) (n : BitVec 32) : State := { s with rcl := { s.rcl with arrival := n } }

/-- Set an account. -/
def setAccount (s : State) (a : Fin 512) (x : Account) : State :=
  { s with acm := { s.acm with accounts := put s.acm.accounts a x } }

/-- Set a slot's meters. -/
def setMeters (s : State) (p : Fin 32) (x : Meters) : State := { s with acm := { s.acm with meters := put s.acm.meters p x } }

/-- Set a tariff class of a bank. -/
def setTariff (s : State) (b : Fin 2) (k : Fin 16) (x : TariffClass) : State :=
  { s with chg := { s.chg with banks := put s.chg.banks b (put (s.chg.banks.get b) k x) } }

/-- Set the current-bank indicator. -/
def setCurrentBank (s : State) (b : Fin 2) : State := { s with chg := { s.chg with current := b } }

/-- Set a bank's bound count. -/
def setBankBound (s : State) (b : Fin 2) (n : Nat) : State := { s with chg := { s.chg with bound := put s.chg.bound b n } }

/-- Set the alert queue. -/
def setAlerts (s : State) (l : List AlertEntry) : State := { s with arl := { s.arl with queue := l } }

/-- The alerts-dropped count rises by 1 (R152). -/
def countDropped (s : State) : State := { s with arl := { s.arl with dropped := satAdd Config.max16 s.arl.dropped 1 } }

/-- Set the relay mask. -/
def setMask (s : State) (m : BitVec 12) : State := { s with arl := { s.arl with mask := m } }

/-- Route a printer's alerts to a beacon or to none (R158). -/
def setPrinterBeacon (s : State) (p : Fin 32) (b : Option (Fin 8)) : State :=
  { s with arl := { s.arl with printerBeacon := put s.arl.printerBeacon p b } }

/-- Route a port's alerts to a beacon or to none (R158). -/
def setPortBeacon (s : State) (q : Fin 8) (b : Option (Fin 8)) : State :=
  { s with arl := { s.arl with portBeacon := put s.arl.portBeacon q b } }

/-- Set the office entry (R158, R174). -/
def setOfficeBeacon (s : State) (b : Option (Fin 8)) : State := { s with arl := { s.arl with officeBeacon := b } }

/-- Set or end a beacon override. -/
def setOverride (s : State) (b : Fin 8) (o : Option Override) : State :=
  { s with arl := { s.arl with overrides := put s.arl.overrides b o } }

/-- Set a sense input. -/
def setSense (s : State) (p : Fin 32) (x : Sense) : State := { s with arl := { s.arl with sense := put s.arl.sense p x } }

/-- Set the Management Unit's state. -/
def setMgu (s : State) (m : Mgu) : State := { s with mgu := m }

/-- Set the transmit list. -/
def setTx (s : State) (l : List OutFrame) : State := { s with jli := { s.jli with tx := l } }

/-- Set the RESTART wait. -/
def setRestart (s : State) (r : Option Nat) : State := { s with jli := { s.jli with restart := r } }

/-- The link-error count rises by 1 (R165). -/
def countLinkError (s : State) : State :=
  { s with jli := { s.jli with linkErrors := satAdd Config.max16 s.jli.linkErrors 1 } }

/-- The stray-frame count rises by 1 (R166). -/
def countStray (s : State) : State := { s with jli := { s.jli with strayFrames := satAdd Config.max16 s.jli.strayFrames 1 } }

/-- Set the timestamp. -/
def setNow (s : State) (t : Time) : State := { s with now := t }

/-- Set the levels on the sense inputs. -/
def setSenseLines (s : State) (l : BitVec 32) : State := { s with senseLines := l }

/-- One more use of the free values. -/
def countChoice (s : State) : State := { s with choices := s.choices + 1 }

/-- Set the queue of waiting commands. -/
def setPending (s : State) (l : List Instr) : State := { s with pending := l }

/-- Do an operation for each element of a list, in order. -/
def each {α : Type} (s : State) (l : List α) (f : State → α → State) : State := l.foldl f s

end State

/-! ### The transmit list (R167) -/

/-- A frame is handed to the JLI: at 256 waiting frames it is discarded and the link-error count rises. ALERT frames go
through `State.handAlert`. -/
def State.hand (s : State) (f : OutFrame) : State :=
  if s.jli.tx.length < Config.txLimit then s.setTx (s.jli.tx ++ [f]) else s.countLinkError

/-- An ALERT frame would be taken now: fewer than 192 frames wait. -/
def State.alertTaken (s : State) : Bool := decide (s.jli.tx.length < Config.txAlertLimit)

/-- An ALERT frame is handed to the JLI: at 192 waiting frames it is discarded and the alerts-dropped count rises. -/
def State.handAlert (s : State) (raised : Bool) (e : AlertEntry) : State :=
  if s.alertTaken then s.setTx (s.jli.tx ++ [.alert raised e.key e.active e.count e.firstTime e.lastTime])
  else s.countDropped

end Sys2Proof.Machine
end

