-- ==== Sys2Proof/Machine/Flags.lean ====
section
/-!
DEFINITION. The facts derived from the state: the unattended hold, can feed, availability, capability, the gate, the next
position, line offers, and the patterns and lamps of the beacons.
-/

namespace Sys2Proof.Machine

/-- R47, R176: the unattended hold, UNATTENDED with the action HOLD. -/
def State.unattendedHold (s : State) : Bool := !s.mgu.attended && s.mgu.holdAction

/-- R134: a line state in which a printer of the port may feed. -/
def lineFeeds : LineState → Bool
  | .disabled => false
  | .faulted => false
  | _ => true

/-- R134: the printer can feed. -/
def State.canFeed (s : State) (p : Fin 32) : Bool :=
  let r := s.printer p
  r.config.configured && (r.condition == some .ready) && (r.link == .answering) && lineFeeds (s.port (portOf p)).line
    && !(s.sense p).active

/-- R47: the printer is available. -/
def State.available (s : State) (p : Fin 32) : Bool :=
  let r := s.printer p
  r.config.configured && r.config.pool.isSome && r.inService && (r.link == .answering) && (r.condition == some .ready)
    && !(s.sense p).active && (s.disp p).assigned.isNone && !r.needsDrop && !s.unattendedHold

/-- R35, R47: the configured capabilities meet every need. -/
def meets (need : Needs) (c : PrinterConfig) : Bool :=
  (!need.colour || c.colour) && (!need.duplex || c.duplex) && (need.sizeMask &&& c.sizeMask == need.sizeMask)
    && (need.mediaMask &&& c.mediaMask == need.mediaMask)

/-- R47: the printer is a member of the pool and meets the needs. -/
def canServe (k : Fin 16) (need : Needs) (c : PrinterConfig) : Bool :=
  c.configured && (c.pool == some k) && meets need c

/-- R122: the gate passes for an estimate. -/
def gatePasses (a : Account) (e : Nat) : Bool :=
  !a.blocked && (a.unlimited || decide (a.balance - (a.reserved : Int) - (e : Int) ≥ -(a.overdraft : Int)))

/-- R56: the next position of a printing job, (copy, sheet). -/
def nextPosition (j : Job) : Option (Nat × Nat) :=
  if j.isOpen then
    if j.releasePos + 1 ≤ j.sheets then some (1, j.releasePos + 1) else none
  else
    if j.releasePos < j.copies * j.sheets then some (j.releasePos / j.sheets + 1, j.releasePos % j.sheets + 1) else none

/-- The ordinal of a position of a job of S sheets (section 0.6.1). -/
def ordinal (sheets copy sheet : Nat) : Nat := (copy - 1) * sheets + sheet

/-- The set of holds is empty. -/
def noHolds (h : Holds) : Bool := !h.operator && !h.arrival && !h.budget

/-- The empty set of holds. -/
def emptyHolds : Holds where
  operator := false
  arrival := false
  budget := false

/-- R60: the job is held, or drains, for BUDGET. -/
def inBudget (a : Fin 512) (j : Job) : Bool :=
  (j.account == a) && ((j.phase == .held && j.holds.budget) || (j.phase == .printing && j.drain == some .budget))

/-- The oldest SENDING entry of a window (R94). -/
def oldestSending (w : List WindowEntry) : Option WindowEntry := w.find? fun e => !e.sent

/-- R91: the printer's poll is offered. That its port is enabled is tested on the stored record, also while a written clear of
enabled waits for the end of the exchange: the model's choice (assumption log 42). -/
def State.pollOffered (s : State) (p : Fin 32) : Bool :=
  (s.printer p).config.configured && (s.port (portOf p)).config.enabled && reached s.now (s.printer p).pollDue

/-- R94: the send stage needs no room, or there is room for a segment. -/
def roomForStage (stage : Option SendStage) (room : Nat) : Bool :=
  match stage with
  | some .start => true
  | some (.data _) => decide (1 ≤ room)
  | none => false

/-- R94: a data exchange is offered for the printer. -/
def State.dataOffered (s : State) (p : Fin 32) : Bool :=
  let r := s.printer p
  r.config.configured && (oldestSending (s.disp p).window).isSome && (r.link == .answering) && s.canFeed p && !r.needsDrop
    && roomForStage r.stage r.room

/-! ### Beacons (R158, R159) -/

/-- R151: the severity of a class. -/
def severity : AlertClass → Nat
  | .jam => 3
  | .printerLost => 3
  | .portFault => 3
  | .senseJam => 3
  | .doorOpen => 2
  | .trayEmpty => 2
  | .tonerOut => 2
  | .unattended => 2
  | .stallRerouted => 1
  | .budgetHold => 1
  | .jobDamaged => 1
  | .spoolLow => 1

/-- R158: the beacon an alert is routed to. -/
def Arl.beaconOf (a : Arl) (k : AlertKey) : Option (Fin 8) :=
  match k.kind with
  | .printer => if h : k.index < 32 then a.printerBeacon.get ⟨k.index, h⟩ else none
  | .port => if h : k.index < 8 then a.portBeacon.get ⟨k.index, h⟩ else none
  | .account => a.officeBeacon
  | .jobTag => a.officeBeacon
  | .device => a.officeBeacon

/-- R159: the pattern the routed entries call for. -/
def Arl.calledPattern (a : Arl) (b : Fin 8) : Pattern :=
  let routed := a.queue.filter fun e => a.beaconOf e.key == some b
  if routed.any fun e => severity e.key.cls == 3 && !e.acked then .fast
  else if routed.any fun e => severity e.key.cls == 2 && !e.acked then .slow
  else if routed.isEmpty then .off
  else .steady

/-- R159, R160: the pattern a beacon shows, an override first. -/
def Arl.pattern (a : Arl) (b : Fin 8) : Pattern :=
  match a.overrides.get b with
  | some o => o.pattern
  | none => a.calledPattern b

/-- R159: the lamp of a pattern at a timestamp. -/
def lampOn (now : Time) : Pattern → Bool
  | .off => false
  | .steady => true
  | .slow => decide (now.toNat % 1000 < 500)
  | .fast => decide (now.toNat % 250 < 125)

/-- The lamp output of a beacon. -/
def State.lamp (s : State) (b : Fin 8) : Bool := lampOn s.now (s.arl.pattern b)

end Sys2Proof.Machine
end

