-- ==== Sys2Proof/Machine/Charging.lean ====
section
/-!
DEFINITION. The arithmetic of the Charge Engine (R106 to R116) and what the Account Meter does with it (R117 to R132).
-/

namespace Sys2Proof.Machine

/-- The rate of a size class and an ink (R106): the rates stand size class by size class, mono before colour (R107). -/
def rateOf (c : TariffClass) (z : Fin 4) (k : Ink) : Nat :=
  match k with
  | .mono => (c.rates.get ⟨2 * z.val, by omega⟩).toNat
  | .colour => (c.rates.get ⟨2 * z.val + 1, by omega⟩).toNat

/-- The media surcharge (R106). -/
def surchargeOf (c : TariffClass) (m : Fin 4) : Nat := (c.surcharges.get m).toNat

/-- The dearer of the two rates of a size class (R112). -/
def dearerRate (c : TariffClass) (z : Fin 4) : Nat := max (rateOf c z .mono) (rateOf c z .colour)

/-- R115: a percentage of an amount, rounded half up. -/
def percentOf (amount percent : Nat) : Nat := (amount * percent + 50) / 100

/-- What is left of a side's rate after the duplex rebate (R112, R113). -/
def rebated (c : TariffClass) (rate : Nat) : Nat := percentOf rate (100 - c.rebate.toNat)

/-- R112: the estimate of a sheet of d declared sides, size class z and medium m. -/
def estimate (c : TariffClass) (d : Nat) (z m : Fin 4) : Nat :=
  if d = 1 then dearerRate c z + surchargeOf c m
  else dearerRate c z + rebated c (dearerRate c z) + surchargeOf c m

/-- R113: the side total of the sides printed, given by their inks. -/
def sideTotal (c : TariffClass) (z : Fin 4) : List Ink → Nat
  | [] => 0
  | [k] => rateOf c z k
  | k1 :: k2 :: _ =>
    max (rateOf c z k1) (rateOf c z k2) + rebated c (min (rateOf c z k1) (rateOf c z k2))

/-- R114: the tier applies: the threshold is enabled and the period sheet count is at least it. -/
def tierApplies (a : Account) : Bool :=
  match a.threshold with
  | some t => decide (t ≤ a.periodSheets)
  | none => false

/-- R114: the charge of a delivered sheet. -/
def charge (c : TariffClass) (z m : Fin 4) (printed : List Ink) (tier : Bool) : Nat :=
  let subtotal := sideTotal c z printed + surchargeOf c m
  if tier then percentOf subtotal c.tier.toNat else subtotal

/-- R106: a class as stored, the rebate and the tier percent clamped to 100. -/
def clampClass (c : TariffClass) : TariffClass :=
  { c with
    rebate := if c.rebate.toNat > 100 then 100#8 else c.rebate
    tier := if c.tier.toNat > 100 then 100#8 else c.tier }

/-- R107: the class that prices a job. -/
def State.jobClass (s : State) (j : Job) : TariffClass := (s.chg.banks.get j.bank).get j.tariffClass

/-- The other tariff bank (R108). -/
def otherBank (b : Fin 2) : Fin 2 := if b = 0 then 1 else 0

/-! ### Bound counts (R39, R109, R121) -/

/-- A job is bound to its account and its bank. -/
def State.bindJob (s : State) (a : Fin 512) (b : Fin 2) : State :=
  (s.setAccount a { s.account a with bound := (s.account a).bound + 1 }).setBankBound b (s.chg.bound.get b + 1)

/-- A job's end lowers both bound counts (R22, step 4). -/
def State.unbindJob (s : State) (a : Fin 512) (b : Fin 2) : State :=
  (s.setAccount a { s.account a with bound := (s.account a).bound - 1 }).setBankBound b (s.chg.bound.get b - 1)

/-! ### Reservation, charge and meters -/

/-- R58, step 3: an estimate is added to the account's reserved amount. -/
def State.reserve (s : State) (a : Fin 512) (e : Nat) : State :=
  s.setAccount a { s.account a with reserved := (s.account a).reserved + e }

/-- R127: an estimate is taken out of the account's reserved amount. -/
def State.unreserve (s : State) (a : Fin 512) (e : Nat) : State :=
  s.setAccount a { s.account a with reserved := (s.account a).reserved - e }

/-- The number of sides printed in an ink. -/
def sidesIn (k : Ink) (printed : List Ink) : Nat := (printed.filter fun x => x == k).length

/-- R124, steps 1 and 3 to 5: an account as a delivery leaves it, for an estimate e and a charge c. -/
def chargeAccount (a : Account) (e c : Nat) (printed : List Ink) : Account :=
  { a with
    reserved := a.reserved - e
    balance := clampBalance (a.balance - (c : Int))
    periodSheets := satAdd Config.max32 a.periodSheets 1
    periodMono := satAdd Config.max32 a.periodMono (sidesIn .mono printed)
    periodColour := satAdd Config.max32 a.periodColour (sidesIn .colour printed)
    periodCharge := satAdd Config.max32 a.periodCharge c }

/-- R132: a meter rises by n and rolls over like an odometer. -/
def raiseMeter (m : Meter) (n : Nat) : Meter :=
  if m.value + n ≥ Config.meterModulus then
    { value := m.value + n - Config.meterModulus
      rolls := if m.rolls + 1 > 255 then 0 else m.rolls + 1 }
  else
    { value := m.value + n
      rolls := m.rolls }

/-- R132: a slot's meters after a delivery. -/
def raiseMeters (m : Meters) (printed : List Ink) : Meters where
  sheets := raiseMeter m.sheets 1
  mono := raiseMeter m.mono (sidesIn .mono printed)
  colour := raiseMeter m.colour (sidesIn .colour printed)

/-- R124: the Account Meter takes a delivery of a sheet of size class z and medium m by printer p for job j. -/
def State.takeCharge (s : State) (p : Fin 32) (j : Fin 128) (job : Job) (e : Nat) (z m : Fin 4) (printed : List Ink) : State :=
  let c := charge (s.jobClass job) z m printed (tierApplies (s.account job.account))
  let s1 := s.setAccount job.account (chargeAccount (s.account job.account) e c printed)
  let s2 := s1.modJob j fun x => { x with chargeTotal := satAdd Config.max32 x.chargeTotal c }
  s2.setMeters p (raiseMeters (s2.acm.meters.get p) printed)

/-- R129: an account with its four period counters set to 0. -/
def closePeriod (a : Account) : Account :=
  { a with
    periodSheets := 0
    periodMono := 0
    periodColour := 0
    periodCharge := 0 }

end Sys2Proof.Machine
end

