-- ==== Sys2Proof/Machine/Alerts.lean ====
section
/-!
DEFINITION. The Alert Relay's queue: raises, clears, acknowledgments, removal and the relay mask (R151 to R157).
-/

namespace Sys2Proof.Machine

/-- R151: the code of a class. -/
def classCode : AlertClass → Nat
  | .jam => 1
  | .printerLost => 2
  | .portFault => 3
  | .senseJam => 4
  | .doorOpen => 5
  | .trayEmpty => 6
  | .tonerOut => 7
  | .unattended => 8
  | .stallRerouted => 9
  | .budgetHold => 10
  | .jobDamaged => 11
  | .spoolLow => 12

/-- R151: the class of a code. -/
def classOfCode : Nat → Option AlertClass
  | 1 => some .jam
  | 2 => some .printerLost
  | 3 => some .portFault
  | 4 => some .senseJam
  | 5 => some .doorOpen
  | 6 => some .trayEmpty
  | 7 => some .tonerOut
  | 8 => some .unattended
  | 9 => some .stallRerouted
  | 10 => some .budgetHold
  | 11 => some .jobDamaged
  | 12 => some .spoolLow
  | _ => none

/-- R171: the code of a source kind. -/
def sourceCode : SourceKind → Nat
  | .printer => 0
  | .port => 1
  | .account => 2
  | .jobTag => 3
  | .device => 4

/-- R171: the source kind of a code. -/
def sourceOfCode : Nat → Option SourceKind
  | 0 => some .printer
  | 1 => some .port
  | 2 => some .account
  | 3 => some .jobTag
  | 4 => some .device
  | _ => none

/-- The key of a printer's alert. -/
def printerKey (p : Fin 32) (c : AlertClass) : AlertKey where
  kind := .printer
  index := p.val
  cls := c

/-- The key of a port's fault. -/
def portFaultKey (q : Fin 8) : AlertKey where
  kind := .port
  index := q.val
  cls := .portFault

/-- The key of an account's BUDGET_HOLD. -/
def budgetKey (a : Fin 512) : AlertKey where
  kind := .account
  index := a.val
  cls := .budgetHold

/-- The key of a job's JOB_DAMAGED. -/
def damagedKey (tag : Half) : AlertKey where
  kind := .jobTag
  index := tag.toNat
  cls := .jobDamaged

/-- The key of a device alert. -/
def deviceKey (c : AlertClass) : AlertKey where
  kind := .device
  index := 0
  cls := c

/-- R156: the class is enabled in the relay mask. -/
def enabledIn (mask : BitVec 12) (c : AlertClass) : Bool := mask.getLsbD (classCode c - 1)

/-- The entry is the one with the key. -/
def hasKey (k : AlertKey) (e : AlertEntry) : Bool := e.key == k

/-- The entry the queue holds for a key. -/
def State.alertFor (s : State) (k : AlertKey) : Option AlertEntry := s.arl.queue.find? (hasKey k)

/-- The lowest severity in a queue; `high` where there is none lower. -/
def lowestSeverity (high : Nat) (l : List AlertEntry) : Nat := l.foldl (fun n e => min n (severity e.key.cls)) high

/-- R157: the queue with its oldest entry of the lowest severity removed. -/
def evict (l : List AlertEntry) : List AlertEntry :=
  l.eraseP fun e => severity e.key.cls == lowestSeverity 3 l

/-- R153: the entry a raise creates. -/
def newAlert (k : AlertKey) (condition : Bool) (time : Time) : AlertEntry where
  key := k
  active := condition
  acked := false
  sent := false
  firstTime := time
  lastTime := time
  count := 1

/-- R153: an entry as one more raise leaves it. -/
def raiseAgain (condition : Bool) (time : Time) (e : AlertEntry) : AlertEntry :=
  { e with
    active := e.active || condition
    acked := false
    lastTime := time
    count := satAdd 255 e.count 1 }

/-- R153: announce a raise of the entry, if its class is enabled; the frame carries the entry as the raise leaves it. -/
def State.announce (s : State) (e : AlertEntry) : State :=
  if enabledIn s.arl.mask e.key.cls then s.handAlert true e else s

/-- R153, R167: the sent flag a raise leaves: set when its frame is sent. -/
def State.sentFlag (s : State) (e : AlertEntry) : Bool := enabledIn s.arl.mask e.key.cls && s.alertTaken

/-- R153, R157: a raise creates an entry at the newest end. -/
def State.createAlert (s : State) (e : AlertEntry) : State :=
  (s.setAlerts (s.arl.queue ++ [{ e with sent := s.sentFlag e }])).announce e

/-- R157: a raise that needs a new entry: a full queue makes room or the alert is dropped. -/
def State.addAlert (s : State) (e : AlertEntry) : State :=
  if s.arl.queue.length < Config.alertEntries then s.createAlert e
  else if lowestSeverity 3 s.arl.queue < severity e.key.cls then
    ((s.setAlerts (evict s.arl.queue)).countDropped).createAlert e
  else s.countDropped

/-- R153: a raise of a key, as a condition or as an event, at a time. -/
def State.raiseAt (s : State) (k : AlertKey) (condition : Bool) (time : Time) : State :=
  match s.alertFor k with
  | none => s.addAlert (newAlert k condition time)
  | some e =>
    if e.acked then
      let e' := raiseAgain condition time e
      (s.setAlerts (replaceFirst (hasKey k) (fun _ => { e' with sent := s.sentFlag e' }) s.arl.queue)).announce e'
    else s.setAlerts (replaceFirst (hasKey k) (raiseAgain condition time) s.arl.queue)

/-- A raise of a condition at the timestamp (R152). -/
def State.raise (s : State) (k : AlertKey) : State := s.raiseAt k true s.now

/-- A raise of an event at the timestamp (R152). -/
def State.raiseEvent (s : State) (k : AlertKey) : State := s.raiseAt k false s.now

/-- R154: a clear of a key. -/
def State.clear (s : State) (k : AlertKey) : State :=
  match s.alertFor k with
  | none => s
  | some e =>
    if e.active then
      let s1 := if enabledIn s.arl.mask k.cls then s.handAlert false { e with active := false } else s
      if e.acked then s1.setAlerts (s1.arl.queue.eraseP (hasKey k))
      else s1.setAlerts (replaceFirst (hasKey k) (fun x => { x with active := false }) s1.arl.queue)
    else s

/-- R155: an acknowledgment of the entry of a key. -/
def State.acknowledge (s : State) (k : AlertKey) (e : AlertEntry) : State :=
  if e.active then s.setAlerts (replaceFirst (hasKey k) (fun x => { x with acked := true }) s.arl.queue)
  else s.setAlerts (s.arl.queue.eraseP (hasKey k))

/-- R156: a class is enabled: one of its entries, not acked and not announced, is announced. -/
def State.announcePending (s : State) (e : AlertEntry) : State :=
  if e.acked || e.sent then s
  else (s.setAlerts (replaceFirst (hasKey e.key) (fun x => { x with sent := s.alertTaken }) s.arl.queue)).handAlert true e

/-- R156: a write of the relay mask; the entries of the classes it enables are announced in queue order. -/
def State.writeMask (s : State) (mask : BitVec 12) : State :=
  let newly := s.arl.queue.filter fun e => enabledIn mask e.key.cls && !enabledIn s.arl.mask e.key.cls
  (s.setMask mask).each newly State.announcePending

end Sys2Proof.Machine
end

