-- ==== Sys2Proof/Machine/Spool.lean ====
section
/-!
DEFINITION. The spool: sheet descriptors, the block free list and the watermarks (R6 to R8, R16).
-/

namespace Sys2Proof.Machine

/-! ### Descriptors in use, by rising number -/

/-- R6: the lowest-numbered free descriptor, from number n on. -/
def lowestFree : Nat → List (Nat × SheetDesc) → Nat
  | n, [] => n
  | n, (k, _) :: rest => if n < k then n else lowestFree (k + 1) rest

/-- The descriptor of a number, if it is in use. -/
def findDesc : List (Nat × SheetDesc) → Nat → Option SheetDesc
  | [], _ => none
  | (k, d) :: rest, n => if n = k then some d else findDesc rest n

/-- Take a descriptor, or fill one in use anew. -/
def putDesc : List (Nat × SheetDesc) → Nat → SheetDesc → List (Nat × SheetDesc)
  | [], n, d => [(n, d)]
  | (k, x) :: rest, n, d =>
    if n < k then (n, d) :: (k, x) :: rest
    else if n = k then (n, d) :: rest
    else (k, x) :: putDesc rest n d

/-- R6: the descriptors of a sheet list are made free. -/
def freeDescs (l : List (Nat × SheetDesc)) (sheets : List Nat) : List (Nat × SheetDesc) :=
  l.filter fun x => !sheets.contains x.1

/-- The descriptor of sheet s (1 to S) of a job. -/
def State.sheetDesc (s : State) (job : Job) (sheet : Nat) : Option SheetDesc :=
  match job.sheetList[sheet - 1]? with
  | some n => findDesc s.spm.descs n
  | none => none

/-- The last descriptor of a job's sheet list, with its number. -/
def State.lastSheet (s : State) (job : Job) : Option (Nat × SheetDesc) :=
  match job.sheetList.getLast? with
  | some n => (findDesc s.spm.descs n).map fun d => (n, d)
  | none => none

/-! ### Blocks -/

/-- R11: the blocks an image of n bytes takes. -/
def blocksFor (n : Nat) : Nat := (n + (Config.blockBytes - 1)) / Config.blockBytes

/-- R7: block numbers are appended to the tail of the free list. -/
def State.freeBlockList (s : State) (l : List (Fin 32768)) : State := s.setFreeList (s.spm.freeList ++ l)

/-- R8: the blocks of a sheet are freed; its descriptor stays, with an empty block list. -/
def State.freeSheetBlocks (s : State) (n : Nat) : State :=
  match findDesc s.spm.descs n with
  | some d => (s.freeBlockList d.blocks).setDescs (putDesc s.spm.descs n { d with blocks := [] })
  | none => s

/-- R22, steps 2 and 3: the blocks of every sheet are freed, sheet by sheet, and then the descriptors. -/
def State.freeSheets (s : State) (sheets : List Nat) : State :=
  let s1 := s.each sheets State.freeSheetBlocks
  s1.setDescs (freeDescs s1.spm.descs sheets)

/-- R11, step 3: a sheet takes a frame's payload, with the blocks it needs from the head of the free list. -/
def State.storeData (s : State) (n : Nat) (d : SheetDesc) (payload : List Byte) : State :=
  let need := blocksFor (d.byteLen + payload.length) - blocksFor d.byteLen
  let blocks := d.blocks ++ s.spm.freeList.take need
  let s1 := s.setFreeList (s.spm.freeList.drop need)
  let s2 := s1.setDescs (putDesc s1.spm.descs n { d with byteLen := d.byteLen + payload.length, blocks := blocks })
  s2.writeDram blocks d.byteLen payload

/-- R16: the watermarks are applied to the free-block count. -/
def State.applyWatermarks (s : State) : State :=
  let n := s.freeBlocks
  if !s.spm.paused && decide (n < Config.lowMark) then
    ((s.hand (.pause n)).setPaused true).raise (deviceKey .spoolLow)
  else if s.spm.paused && decide (Config.highMark ≤ n) then
    ((s.hand (.resume n)).setPaused false).clear (deviceKey .spoolLow)
  else s

end Sys2Proof.Machine
end

