-- ==== Sys2Proof/Machine/Pools.lean ====
section
/-!
DEFINITION. Pool queues, assignment, release, drains and the pool arbiter (R45 to R60).
-/

namespace Sys2Proof.Machine

/-! ### Pool queues (R45, R46) -/

/-- R45: the place before which no job stands that goes after the entering one. -/
def goesAfter (entering waiting : Job) : Bool :=
  decide (waiting.priority < entering.priority)
    || ((waiting.priority == entering.priority) && decide (waiting.arrival ≤ entering.arrival))

/-- R45: the slot of an entering job put at its place. -/
def insertJob (find : Fin 128 → Option Job) (j : Fin 128) (job : Job) : List (Fin 128) → List (Fin 128)
  | [] => [j]
  | x :: rest =>
    match find x with
    | some y => if goesAfter job y then x :: insertJob find j job rest else j :: x :: rest
    | none => x :: insertJob find j job rest

/-- R45: a job becomes QUEUED and enters its pool's queue at its place. The arbiter is run by the caller. -/
def State.enqueue (s : State) (j : Fin 128) : State :=
  match s.job j with
  | some job =>
    (s.setJob j (some { job with phase := .queued })).setQueue job.pool (insertJob s.job j job (s.pool job.pool).queue)
  | none => s

/-- R46: a job leaves its pool's queue. -/
def State.leaveQueue (s : State) (k : Fin 16) (j : Fin 128) : State :=
  s.setQueue k ((s.pool k).queue.filter fun x => x != j)

/-! ### Unassignment and the end of a drain (R50, R54) -/

/-- R50, steps 1 and 2, with the fields that unassignment makes absent: the job is taken off its printer, and a printer that
is leaving service goes OUT. -/
def State.detach (s : State) (j : Fin 128) (p : Fin 32) : State :=
  let d := s.disp p
  let s1 := s.setDisp p { d with assigned := none, stall := none, leaving := false }
  let s2 := s1.modJob j fun x => { x with printer := none, drain := none, stalled := false }
  if d.leaving then s2.setPrinter p { s2.printer p with inService := false } else s2

/-- R54, step 1: a job whose drain for BUDGET ends holds BUDGET. -/
def holdDrained (x : Job) : Job :=
  { x with holds := if x.drain = some .budget then { x.holds with budget := true } else x.holds }

/-- R54, R59: the drain of a failed gate ends on an empty window: the job is HELD. Its printer is offered by the caller. -/
def State.holdForBudget (s : State) (j : Fin 128) (p : Fin 32) : State :=
  ((s.modJob j holdDrained).detach j p).modJob j fun x => { x with phase := .held }

/-! ### Releases (R57 to R59) -/

/-- R59: the gate failed for the next position. -/
def State.gateFailed (s : State) (j : Fin 128) (p : Fin 32) (a : Fin 512) : State :=
  let s1 := (s.modJob j fun x => { x with drain := some .budget }).raise (budgetKey a)
  if (s1.disp p).window.isEmpty then s1.holdForBudget j p else s1

/-- R58, steps 3 to 5, and the send stage of an entry that becomes the oldest SENDING one (R94). -/
def State.release (s : State) (j : Fin 128) (p : Fin 32) (a : Fin 512) (pos : Nat × Nat) (e : Nat) : State :=
  let r := s.printer p
  let d := s.disp p
  let entry : WindowEntry :=
    { feed := r.nextFeed
      job := j
      copy := pos.1
      sheet := pos.2
      estimate := e
      sent := false }
  let first := (oldestSending d.window).isNone
  let s1 := (s.reserve a e).setDisp p { d with window := d.window ++ [entry] }
  let s2 := s1.setPrinter p
    { r with
      nextFeed := r.nextFeed + 1#8
      stage := if first then some .start else r.stage
      naks := if first then 0 else r.naks }
  s2.modJob j fun x => { x with releasePos := x.releasePos + 1 }

/-- R57: the conditions of a release but for the next position and the gate. -/
def State.mayRelease (s : State) (job : Job) (p : Fin 32) : Bool :=
  (job.phase == .printing) && job.drain.isNone && !job.stalled && !s.unattendedHold && s.canFeed p
    && decide ((s.disp p).window.length < (s.printer p).config.limit)

/-- The estimate of a job's next position, with the position (R58, step 1); none when there is no next position. -/
def State.nextEstimate (s : State) (job : Job) : Option ((Nat × Nat) × Nat) :=
  match nextPosition job with
  | some pos =>
    match s.sheetDesc job pos.2 with
    | some d => some (pos, estimate (s.jobClass job) d.sides d.sizeClass d.media)
    | none => none
  | none => none

/-- R57: releases are made until a condition fails; `fuel` bounds them by the window limit. -/
def State.releaseLoop : Nat → Fin 128 → State → State
  | 0, _, s => s
  | fuel + 1, j, s =>
    match s.job j with
    | none => s
    | some job =>
      match job.printer with
      | none => s
      | some p =>
        if s.mayRelease job p then
          match s.nextEstimate job with
          | none => s
          | some (pos, e) =>
            if gatePasses (s.account job.account) e then State.releaseLoop fuel j (s.release j p job.account pos e)
            else s.gateFailed j p job.account
        else s

/-- The tries that fill a printer's window, and the one that finds it full. -/
def State.releaseTries (s : State) (p : Fin 32) : Nat := (s.printer p).config.limit + 1

/-- R49: an assignment, and the releases tried straight after it. -/
def State.assign (s : State) (k : Fin 16) (p : Fin 32) (j : Fin 128) : State :=
  let s1 := (s.leaveQueue k j).modJob j fun x =>
    { x with phase := .printing, printer := some p, lastPrinter := some p, drain := none, stalled := false }
  let s2 := s1.setDisp p { s1.disp p with assigned := some j, window := [] }
  State.releaseLoop (s2.releaseTries p) j s2

/-! ### The arbiter (R48) -/

/-- R48, step 2: the first job of the queue that a printer can serve. -/
def State.firstServable (s : State) (k : Fin 16) (p : Fin 32) : Option (Fin 128) :=
  (s.pool k).queue.find? fun j =>
    match s.job j with
    | some job => canServe k job.needs (s.printer p).config
    | none => false

/-- R48, step 1: the printers in the order of the search, from the one above the pointer. -/
def roundFrom (pointer : Fin 32) : List (Fin 32) := (List.range 32).map fun i => Fin.ofNat 32 (pointer.val + 1 + i)

/-- R48, steps 1 and 2: the printer picked and the job it is given. -/
def State.pick (s : State) (k : Fin 16) : Option (Fin 32 × Fin 128) :=
  (roundFrom (s.pool k).pointer).findSome? fun p =>
    if s.available p && ((s.printer p).config.pool == some k) then (s.firstServable k p).map fun j => (p, j) else none

/-- R48: the repetitions of a run; `fuel` bounds them by the queue's length. -/
def State.arbiterLoop : Nat → Fin 16 → State → State
  | 0, _, s => s
  | fuel + 1, k, s =>
    match s.pick k with
    | none => s
    | some (p, j) => State.arbiterLoop fuel k ((s.setPool k { s.pool k with pointer := p }).assign k p j)

/-- R48: a pool's arbiter runs; a disabled pool's does not (R44). -/
def State.runArbiter (s : State) (k : Fin 16) : State :=
  if (s.pool k).enabled then State.arbiterLoop (s.pool k).queue.length k s else s

/-- R47: the arbiter of the printer's pool runs if the printer is available. -/
def State.offerPrinter (s : State) (p : Fin 32) : State :=
  if s.available p then
    match (s.printer p).config.pool with
    | some k => s.runArbiter k
    | none => s
  else s

/-- R45: a job enters its pool's queue and the arbiter runs. -/
def State.requeue (s : State) (j : Fin 128) : State :=
  match s.job j with
  | some job => (s.enqueue j).runArbiter job.pool
  | none => s

/-- R54: a drain ends: BUDGET is held, the job is unassigned and its printer offered (R50), and the job enters its pool's
queue or becomes HELD. -/
def State.endDrain (s : State) (j : Fin 128) (p : Fin 32) : State :=
  let s1 := ((s.modJob j holdDrained).detach j p).offerPrinter p
  match s1.job j with
  | some job => if noHolds job.holds then s1.requeue j else s1.setJob j (some { job with phase := .held })
  | none => s1

/-- R57: releases are tried for a job. A gate failure on an empty window takes the job off its printer, which may then be
given another. -/
def State.tryReleases (s : State) (j : Fin 128) : State :=
  match s.job j with
  | some job =>
    match job.printer with
    | some p =>
      let s1 := State.releaseLoop (s.releaseTries p) j s
      if (s1.disp p).assigned = some j then s1 else s1.offerPrinter p
    | none => s
  | none => s

/-! ### The budget condition and the gate's retry (R60) -/

/-- R60: BUDGET_HOLD is cleared when no job of the account is held or draining for BUDGET. -/
def State.budgetTest (s : State) (a : Fin 512) : State :=
  if s.spm.jobs.toList.any fun o => match o with | some job => inBudget a job | none => false then s
  else s.clear (budgetKey a)

/-- R60: the gate of a job that drains for BUDGET is retried; a pass removes the drain reason. Releases are tried by the
caller. -/
def State.retryGate (s : State) (j : Fin 128) : State :=
  match s.job j with
  | some job =>
    if job.phase = .printing ∧ job.drain = some .budget then
      match s.nextEstimate job with
      | some (_, e) =>
        if gatePasses (s.account job.account) e then
          (s.setJob j (some { job with drain := none })).budgetTest job.account
        else s
      | none => s
    else s
  | none => s

/-- R131, step 1: the gate of a job of the account that drains for BUDGET is retried, and releases are tried on a pass. -/
def State.retryForAccount (a : Fin 512) (s : State) (j : Fin 128) : State :=
  match s.job j with
  | some job =>
    if job.account = a ∧ job.phase = .printing ∧ job.drain = some .budget then
      let s1 := s.retryGate j
      match s1.job j with
      | some job1 => if job1.drain = none then s1.tryReleases j else s1
      | none => s1
    else s
  | none => s

/-- R131, step 2: BUDGET is cleared from a HELD job of the account. -/
def State.unholdBudget (a : Fin 512) (s : State) (j : Fin 128) : State :=
  match s.job j with
  | some job =>
    if job.account = a ∧ job.phase = .held ∧ job.holds.budget = true then
      s.setJob j (some { job with holds := { job.holds with budget := false } })
    else s
  | none => s

/-- R131, step 2: a HELD job whose holds set is empty enters its pool's queue. -/
def State.requeueUnheld (s : State) (j : Fin 128) : State :=
  match s.job j with
  | some job => if job.phase = .held ∧ noHolds job.holds = true then s.requeue j else s
  | none => s

/-- The HELD jobs of an account with BUDGET in their holds, in slot order. -/
def State.budgetHeld (s : State) (a : Fin 512) : List (Fin 128) :=
  (List.finRange 128).filter fun j =>
    match s.job j with
    | some job => (job.account == a) && (job.phase == .held) && job.holds.budget
    | none => false

/-- R60, R131: an account change. The jobs are taken in slot order; the holds are cleared and the condition tested before
the jobs are requeued (assumption log 20). -/
def State.accountChange (s : State) (a : Fin 512) : State :=
  let s1 := s.each (List.finRange 128) (State.retryForAccount a)
  let held := s1.budgetHeld a
  let s2 := (s1.each held (State.unholdBudget a)).budgetTest a
  (s2.each held State.requeueUnheld).budgetTest a

end Sys2Proof.Machine
end

