-- ==== Sys2Proof/Machine/Windows.lean ====
section
/-!
DEFINITION. Job ends, deliveries, losses, stalls and cancellation (R20 to R24, R62, R63, R103, R124, R134 to R150).
-/

namespace Sys2Proof.Machine

/-! ### The end of a job (R22 to R24) -/

/-- R24: the report of a job as its record stands. -/
def reportOf (job : Job) (outcome : JobOutcome) (cause : Cause) : JobReport where
  tag := job.tag
  outcome := outcome
  cause := cause
  account := some job.account.val
  sheets := job.sheets
  copies := job.copies
  delivered := job.confirmPos
  sheetsLost := job.sheetsLost
  chargeTotal := job.chargeTotal
  lastPrinter := job.lastPrinter

/-- R22, step 6: an ended job is unassigned, and its printer may start its pool's arbiter. -/
def State.unassignEnded (s : State) (j : Fin 128) (job : Job) : State :=
  match job.printer with
  | some p => (s.detach j p).offerPrinter p
  | none => s

/-- R22: a live job ends with an outcome and a cause. The budget condition is tested once the slot is FREE (R60, assumption
log 20). -/
def State.endJob (s : State) (j : Fin 128) (outcome : JobOutcome) (cause : Cause) : State :=
  match s.job j with
  | some job =>
    let s1 := s.hand (.jobReport (reportOf job outcome cause))
    let s2 := (s1.freeSheets job.sheetList).unbindJob job.account job.bank
    let s3 := (s2.leaveQueue job.pool j).unassignEnded j job
    ((s3.setJob j none).budgetTest job.account).applyWatermarks
  | none => s

/-- R23: a CANCELLING job ends with what its ending field holds. -/
def State.endCancelled (s : State) (j : Fin 128) : State :=
  match s.job j with
  | some job =>
    match job.ending with
    | some (outcome, cause) => s.endJob j outcome cause
    | none => s
  | none => s

/-! ### Window entries -/

/-- R62, R63: what the Dispatch Scheduler does with the job after a delivery or a loss in its printer's window. -/
def State.afterWindowChange (s : State) (j : Fin 128) (p : Fin 32) : State :=
  match s.job j with
  | some job =>
    match job.phase with
    | .printing =>
      let s1 := s.retryGate j
      match s1.job j with
      | some job1 =>
        if (s1.disp p).window.isEmpty && job1.drain.isSome then s1.endDrain j p else s1.tryReleases j
      | none => s1
    | .cancelling => if (s.disp p).window.isEmpty then s.endCancelled j else s
    | _ => s
  | none => s

/-- R94, R97: the send stage after the window has changed to `w`: where the oldest SENDING entry is another one, START for
it, or absent; where it is the same, as it was. The NAK count is 0 for a new oldest SENDING entry (R94); that it is 0 also
where none is left is the model's choice (assumption log 44). -/
def restage (before w : List WindowEntry) (r : Printer) : Printer :=
  if (oldestSending before).map WindowEntry.feed = (oldestSending w).map WindowEntry.feed then r
  else
    { r with
      stage := if (oldestSending w).isSome then some .start else none
      naks := 0 }

/-- A printer's window changes, and with it the send stage (R94, R97). -/
def State.setWindow (s : State) (p : Fin 32) (w : List WindowEntry) : State :=
  let d := s.disp p
  (s.setDisp p { d with window := w }).setPrinter p (restage d.window w (s.printer p))

/-- R20: the completion check holds. -/
def completes (job : Job) : Bool :=
  (job.phase == .printing) && !job.isOpen && (job.confirmPos == job.copies * job.sheets)

/-- R8, R20: the SPM frees the blocks of a sheet delivered in the job's final copy and applies the watermarks. -/
def State.freeDelivered (s : State) (job : Job) (e : WindowEntry) : State :=
  if e.copy = job.copies then
    match job.sheetList[e.sheet - 1]? with
    | some n => (s.freeSheetBlocks n).applyWatermarks
    | none => s
  else s

/-- R99: the sides printed, clamped to the sheet's declared sides. -/
def clampSides (d : SheetDesc) (printed : List Ink) : List Ink := printed.take d.sides

/-- R62: the oldest entry of a printer's window is delivered, with the inks of the sides printed. The Dispatch Scheduler
acts first, then the Account Meter, then the SPM. -/
def State.deliver (s : State) (p : Fin 32) (printed : List Ink) : State :=
  match (s.disp p).window with
  | [] => s
  | e :: rest =>
    match s.job e.job with
    | none => s
    | some job =>
      match s.sheetDesc job e.sheet with
      | none => s
      | some d =>
        let s1 := (s.setWindow p rest).modJob e.job fun x => { x with confirmPos := x.confirmPos + 1 }
        let s2 := s1.takeCharge p e.job job e.estimate d.sizeClass d.media (clampSides d printed)
        let s3 := s2.freeDelivered job e
        match s3.job e.job with
        | none => s3
        | some job1 =>
          if completes job1 then s3.endJob e.job .completed .none else s3.afterWindowChange e.job p

/-- R63, R127: the entries of a window from index k on are lost: the release position is rewound, the sheets lost count
rises, the estimates are released. What the Dispatch Scheduler does next is `afterWindowChange`. -/
def State.loseFrom (s : State) (p : Fin 32) (k : Nat) : State :=
  let w := (s.disp p).window
  match w[k]? with
  | none => s
  | some e =>
    let lost := w.drop k
    let s1 := s.setWindow p (w.take k)
    match s.job e.job with
    | none => s1
    | some job =>
      let s2 := s1.modJob e.job fun x =>
        { x with
          releasePos := ordinal job.sheets e.copy e.sheet - 1
          sheetsLost := satAdd Config.max16 x.sheetsLost lost.length }
      s2.each lost fun t x => t.unreserve job.account x.estimate

/-- A loss of the entries from index k on, and what follows it (R63). -/
def State.lose (s : State) (p : Fin 32) (k : Nat) : State :=
  match (s.disp p).window[k]? with
  | some e => (s.loseFrom p k).afterWindowChange e.job p
  | none => s

/-! ### Needs-drop and the control queue (R83, R103) -/

/-- R83: a block is queued: it takes the place of one that waits for the drop, or the tail. -/
def queueControl (b : ControlBlock) (l : List ControlBlock) : List ControlBlock :=
  if l.any fun x => x.drop == b.drop then replaceFirst (fun x => x.drop == b.drop) (fun _ => b) l else l ++ [b]

/-- A DROP-SHEETS is queued for a printer. A port that is DISABLED keeps its control queue empty (R73). -/
def State.queueDropSheets (s : State) (p : Fin 32) (waitDue : Bool) : State :=
  let q := s.port (portOf p)
  if q.line = .disabled then s
  else s.setPort (portOf p) { q with control := queueControl { drop := dropOf p, waitDue := waitDue } q.control }

/-- R103: of two feed numbers, the one released earlier by a printer whose next feed number is n. -/
def earlierFeed (n f g : Byte) : Byte := if (n - g).toNat < (n - f).toNat then f else g

/-- R103: needs-drop is set with a feed number, the earlier of it and one already held, and a DROP-SHEETS is queued. -/
def State.setNeedsDrop (s : State) (p : Fin 32) (f : Byte) : State :=
  let r := s.printer p
  let feed := match r.dropFrom with
    | some g => earlierFeed r.nextFeed g f
    | none => f
  (s.setPrinter p { r with needsDrop := true, dropFrom := some feed }).queueDropSheets p false

/-- The whole window is lost and the printer told to drop what it holds from the oldest entry on (R101, R138, R148). Needs-drop
is set before the Dispatch Scheduler acts on the loss (assumption log 18). -/
def State.loseAllAndDrop (s : State) (p : Fin 32) : State :=
  match (s.disp p).window with
  | [] => s
  | e :: _ => ((s.loseFrom p 0).setNeedsDrop p e.feed).afterWindowChange e.job p

/-! ### Can feed and cannot feed (R134, R136, R137) -/

/-- R136: the stall timer is started, if it is stopped and the reroute timeout of the job's pool is above 0. -/
def State.startStall (s : State) (p : Fin 32) (k : Fin 16) : State :=
  let d := s.disp p
  if d.stall.isNone && decide (0 < (s.pool k).reroute) then
    s.setDisp p { d with stall := some (after s.now ((s.pool k).reroute * 1000)) }
  else s

/-- R136: the Dispatch Scheduler takes "cannot feed". -/
def State.takeCannotFeed (s : State) (p : Fin 32) : State :=
  match (s.disp p).assigned with
  | none => s
  | some j =>
    match s.job j with
    | none => s
    | some job =>
      match job.phase with
      | .printing => (s.setJob j (some { job with stalled := true })).startStall p job.pool
      | .cancelling => s.startStall p job.pool
      | _ => s

/-- R137: the Dispatch Scheduler takes "can feed". -/
def State.takeCanFeed (s : State) (p : Fin 32) : State :=
  let s1 := s.setDisp p { s.disp p with stall := none }
  match (s1.disp p).assigned with
  | none => s1.offerPrinter p
  | some j =>
    match s1.job j with
    | none => s1
    | some job =>
      if job.phase = .printing then (s1.setJob j (some { job with stalled := false })).tryReleases j else s1

/-- R134: the Printer Agent evaluates can feed again, and hands the Dispatch Scheduler a changed result. -/
def State.refreshFeed (s : State) (p : Fin 32) : State :=
  let d := s.disp p
  if s.canFeed p = d.feeds then s
  else if d.feeds then (s.setDisp p { d with feeds := false }).takeCannotFeed p
  else (s.setDisp p { d with feeds := true }).takeCanFeed p

/-! ### Cancellation (R145 to R148) -/

/-- R148: a cancellation that finds the link LOST settles the window without the printer: the window is lost, needs-drop is
set, and the job ends. The gate's retry and the end of a drain that R63 gives a loss are left out here: the model's choice
(assumption log 43). -/
def State.cancelOnLost (s : State) (j : Fin 128) (p : Fin 32) (outcome : JobOutcome) (cause : Cause) : State :=
  match (s.disp p).window with
  | [] => s
  | e :: _ => ((s.loseFrom p 0).setNeedsDrop p e.feed).endJob j outcome cause

/-- R147: a PRINTING job enters CANCELLING. -/
def State.enterCancelling (s : State) (j : Fin 128) (p : Fin 32) (outcome : JobOutcome) (cause : Cause) : State :=
  match (s.disp p).window, s.job j with
  | e :: _, some job =>
    let s1 := s.setJob j
      (some { job with phase := .cancelling, ending := some (outcome, cause), drain := none, stalled := false })
    (s1.setNeedsDrop p e.feed).budgetTest job.account
  | _, _ => s

/-- R3: the binding of a job to its stream ends. -/
def State.unbindStream (s : State) (j : Fin 128) : State :=
  s.modJob j fun x => { x with isOpen := false, stream := none }

/-- R145: a PRINTING job is cancelled. -/
def State.cancelPrinting (s : State) (j : Fin 128) (p : Fin 32) (outcome : JobOutcome) (cause : Cause) : State :=
  if (s.disp p).window.isEmpty then s.endJob j outcome cause
  else if (s.printer p).link = .lost then s.cancelOnLost j p outcome cause
  else s.enterCancelling j p outcome cause

/-- R145: the cancellation path of a live job. The stream's own state is set by the caller. -/
def State.cancelJob (s : State) (j : Fin 128) (outcome : JobOutcome) (cause : Cause) : State :=
  let s1 := s.unbindStream j
  match s1.job j with
  | none => s1
  | some job =>
    match job.phase with
    | .cancelling => s1
    | .printing =>
      match job.printer with
      | some p => s1.cancelPrinting j p outcome cause
      | none => s1
    | _ => s1.endJob j outcome cause

/-- R148: the printer of a CANCELLING job has become LOST. -/
def State.settleLost (s : State) (p : Fin 32) : State :=
  match (s.disp p).assigned with
  | none => s
  | some j =>
    match s.job j with
    | none => s
    | some job =>
      match job.phase, job.ending with
      | .cancelling, some (outcome, cause) => s.cancelOnLost j p outcome cause
      | _, _ => s

/-- R92, R93: a link becomes LOST: PRINTER_LOST is raised, the printer cannot feed, and a CANCELLING job is settled. -/
def State.becomeLost (s : State) (p : Fin 32) : State :=
  let s1 := s.setPrinter p { s.printer p with link := .lost, missed := 3 }
  ((s1.raise (printerKey p .printerLost)).refreshFeed p).settleLost p

/-! ### The stall timer's expiry (R138) -/

/-- R138, step 2: the whole window is lost, a BUDGET drain's gate is retried on the loss (R60), and needs-drop is set unless
the link is LOST. The drain end that the loss brings (R63), and the end of a CANCELLING job (step 5), follow the alert of
step 3 (assumption log 19). -/
def State.loseToReroute (s : State) (p : Fin 32) : State :=
  match (s.disp p).window with
  | [] => s
  | e :: _ =>
    let s1 := (s.loseFrom p 0).retryGate e.job
    if (s.printer p).link = .lost then s1 else s1.setNeedsDrop p e.feed

/-- R138, steps 4 and 5, once the window is empty: a drain ends, a job with no drain reason is requeued, a CANCELLING job
ends. -/
def State.settleStalled (s : State) (p : Fin 32) (j : Fin 128) : State :=
  match s.job j with
  | none => s
  | some job =>
    match job.phase with
    | .printing =>
      if job.drain.isSome then s.endDrain j p else ((s.detach j p).offerPrinter p).requeue j
    | .cancelling => s.endCancelled j
    | _ => s

/-- R138: the expiry of a printer's stall timer. -/
def State.stallExpired (s : State) (p : Fin 32) : State :=
  let s1 := (s.setDisp p { s.disp p with stall := none }).loseToReroute p
  let s2 := s1.raiseEvent (printerKey p .stallRerouted)
  match (s2.disp p).assigned with
  | some j => s2.settleStalled p j
  | none => s2

end Sys2Proof.Machine
end

