-- ==== Sys2Proof/Machine/Printers.lean ====
section
/-!
DEFINITION. The Printer Agent: what it takes from an exchange's outcome and from a port's events (R87 to R104, R149).
-/

namespace Sys2Proof.Machine

/-- The outcome of an exchange (R75). -/
inductive ExchangeOutcome where
  | replyOk (kind : Byte) (payload : List Byte)
  | noReply
  | badReply
  deriving DecidableEq, Repr

/-- A delivery record of a STATUS (R87): the feed number and the inks of the sides printed. -/
structure DeliveryRecord where
  feed    : Byte
  printed : List Ink
  deriving DecidableEq, Repr

/-- A STATUS (R87). -/
structure Status where
  condition : Condition
  room      : Nat
  committed : Option Byte
  records   : List DeliveryRecord
  deriving DecidableEq, Repr

/-! ### Reading replies (R87, R179) -/

/-- R179: the condition of a code. -/
def conditionOfCode : Nat → Option Condition
  | 0 => some .ready
  | 1 => some .warming
  | 2 => some .jam
  | 3 => some .doorOpen
  | 4 => some .trayEmpty
  | 5 => some .tonerOut
  | _ => none

/-- The ink a flag names. -/
def inkOf (colour : Bool) : Ink := if colour then .colour else .mono

/-- The inks of n printed sides, from the ink flags of a record. -/
def printedInks (n : Nat) (flags : Byte) : List Ink :=
  [inkOf (flags.getLsbD 0), inkOf (flags.getLsbD 1)].take n

/-- R87: delivery records of 3 bytes each; none if a record gives more than 2 sides printed. -/
def readRecords : List Byte → Option (List DeliveryRecord)
  | feed :: sides :: flags :: rest =>
    if sides.toNat ≤ 2 then
      (readRecords rest).map fun l => { feed := feed, printed := printedInks sides.toNat flags } :: l
    else none
  | _ => some []

/-- R87, R179: a STATUS from its payload; none if it is rejected. -/
def readStatus (b : List Byte) : Option Status :=
  let k := (byteAt b 4).toNat
  if b.length = 5 + 3 * k ∧ k ≤ 8 then
    match conditionOfCode (byteAt b 0).toNat, readRecords (b.drop 5) with
    | some c, some l =>
      some
        { condition := c
          room := (byteAt b 1).toNat
          committed := if (byteAt b 2).getLsbD 0 then some (byteAt b 3) else none
          records := l }
    | _, _ => none
  else none

/-- The STATUS of an outcome; none for a failed exchange or a reply rejected by R87. -/
def statusOf : ExchangeOutcome → Option Status
  | .replyOk kind payload => if kind = 0x81#8 then readStatus payload else none
  | _ => none

/-- A reply to START or DATA (R87). -/
inductive Acceptance where
  | ack (room : Nat)
  | nak
  | failed
  deriving DecidableEq, Repr

/-- What an outcome says to a START or DATA; `failed` also for a reply rejected by R87. -/
def acceptanceOf : ExchangeOutcome → Acceptance
  | .replyOk kind payload =>
    if kind = 0x82#8 ∧ payload.length = 1 then .ack (byteAt payload 0).toNat
    else if kind = 0x83#8 ∧ payload.length = 0 then .nak
    else .failed
  | _ => .failed

/-! ### Link and missed polls (R92) -/

/-- R92: the missed-poll count rises; at 3 the link becomes LOST. -/
def State.exchangeFailed (s : State) (p : Fin 32) : State :=
  let r := s.printer p
  if r.missed + 1 < 3 then s.setPrinter p { r with missed := r.missed + 1 }
  else if r.link = .lost then s.setPrinter p { r with missed := 3 }
  else s.becomeLost p

/-- R92: a reply sets the link ANSWERING and clears PRINTER_LOST; the missed-poll count becomes `missed`. -/
def State.answered (s : State) (p : Fin 32) (missed : Nat) : State :=
  let s1 := s.setPrinter p { s.printer p with link := .answering, missed := missed }
  (s1.clear (printerKey p .printerLost)).refreshFeed p

/-- R91: the poll due time is set from the end of an exchange. -/
def State.setPollDue (s : State) (p : Fin 32) : State :=
  s.setPrinter p { s.printer p with pollDue := after s.now (s.port (portOf p)).config.poll }

/-- R101: the port's protocol-error count rises. -/
def State.countProtocolError (s : State) (p : Fin 32) : State :=
  let q := s.port (portOf p)
  s.setPort (portOf p) { q with protocolErrors := satAdd Config.max16 q.protocolErrors 1 }

/-! ### STATUS (R98 to R104) -/

/-- R98: the reference feed number. -/
def State.referenceFeed (s : State) (p : Fin 32) : Byte :=
  match (s.disp p).window with
  | e :: _ => e.feed
  | [] => (s.printer p).nextFeed

/-- R98 to R101: one delivery record. -/
def State.takeRecord (p : Fin 32) (s : State) (x : DeliveryRecord) : State :=
  let a := (s.referenceFeed p - x.feed).toNat
  if a = 0 ∧ (s.disp p).window ≠ [] then s.deliver p x.printed
  else if 1 ≤ a ∧ a ≤ 128 then
    s.setPrinter p { s.printer p with unmatched := satAdd Config.max16 (s.printer p).unmatched 1 }
  else (s.countProtocolError p).loseAllAndDrop p

/-- The printer's assigned job is CANCELLING (R104). -/
def State.cancellingOn (s : State) (p : Fin 32) : Bool :=
  match (s.disp p).assigned with
  | some j =>
    match s.job j with
    | some job => job.phase == .cancelling
    | none => false
  | none => false

/-- R104, R149: the committed field of a STATUS that answers DROP-SHEETS. -/
def State.takeCommitted (s : State) (p : Fin 32) (committed : Option Byte) : State :=
  if s.cancellingOn p then
    match (s.disp p).window with
    | [] => s
    | e :: rest =>
      match committed with
      | none => s.lose p 0
      | some f =>
        let b := (f - e.feed).toNat
        if b < rest.length + 1 then s.lose p (b + 1)
        else if 128 ≤ b then s.lose p 0
        else s.countProtocolError p
  else s

/-- R102: the alert of a condition. -/
def conditionAlert : Option Condition → Option AlertClass
  | some .jam => some .jam
  | some .doorOpen => some .doorOpen
  | some .trayEmpty => some .trayEmpty
  | some .tonerOut => some .tonerOut
  | _ => none

/-- Clear a printer's alert of a condition, if the condition has one. -/
def State.clearConditionAlert (s : State) (p : Fin 32) (c : Option Condition) : State :=
  match conditionAlert c with
  | some k => s.clear (printerKey p k)
  | none => s

/-- Raise a printer's alert of a condition, if the condition has one. -/
def State.raiseConditionAlert (s : State) (p : Fin 32) (c : Option Condition) : State :=
  match conditionAlert c with
  | some k => s.raise (printerKey p k)
  | none => s

/-- R102: the condition of a STATUS; the loss of a JAM first, then the old alert's clear and the new one's raise (assumption
log 17), then can feed. -/
def State.takeCondition (s : State) (p : Fin 32) (c : Condition) : State :=
  let old := (s.printer p).condition
  if old = some c then s
  else
    let s1 := s.setPrinter p { s.printer p with condition := some c }
    let s2 := if c = .jam then s1.lose p 0 else s1
    ((s2.clearConditionAlert p old).raiseConditionAlert p (some c)).refreshFeed p

/-- R98: a STATUS is taken, with its committed field when it answers DROP-SHEETS. -/
def State.takeStatus (s : State) (p : Fin 32) (st : Status) (answersDrop : Bool) : State :=
  let s1 := s.answered p 0
  let s2 := s1.setPrinter p { s1.printer p with room := st.room }
  let s3 := s2.each st.records (State.takeRecord p)
  let s4 := if answersDrop then s3.takeCommitted p st.committed else s3
  (s4.takeCondition p st.condition).setPollDue p

/-! ### ACK and NAK (R95 to R97) -/

/-- The entry of a START or DATA is still the oldest SENDING one (R97). -/
def State.stillSending (s : State) (p : Fin 32) (feed : Byte) : Bool :=
  (oldestSending (s.disp p).window).map WindowEntry.feed == some feed

/-- R95: the oldest SENDING entry becomes SENT. -/
def State.markSent (s : State) (p : Fin 32) : State :=
  s.setWindow p (replaceFirst (fun e => !e.sent) (fun e => { e with sent := true }) (s.disp p).window)

/-- R95: an acknowledged block moves its entry on: to the next stage, or to SENT. -/
def State.advance (s : State) (p : Fin 32) (next : Option Nat) : State :=
  match next with
  | some segment => s.setPrinter p { s.printer p with stage := some (.data segment) }
  | none => s.markSent p

/-- R95, R97: an ACK. `next` is the segment that follows the block, none when the block was the last. -/
def State.takeAck (s : State) (p : Fin 32) (feed : Byte) (next : Option Nat) (room : Nat) : State :=
  let s1 := s.answered p 0
  let s2 := s1.setPrinter p { s1.printer p with room := room }
  if s2.stillSending p feed then (s2.setPrinter p { s2.printer p with naks := 0 }).advance p next else s2

/-- R96, R97: a NAK; the fourth in a row is a failed exchange. -/
def State.takeNak (s : State) (p : Fin 32) (feed : Byte) : State :=
  let s1 := s.answered p (s.printer p).missed
  if s1.stillSending p feed then
    let n := (s1.printer p).naks + 1
    if n < 4 then s1.setPrinter p { s1.printer p with naks := n }
    else (s1.setPrinter p { s1.printer p with naks := 0 }).exchangeFailed p
  else s1

/-- The outcome of a START or DATA (R95 to R97). -/
def State.takeDataOutcome (s : State) (p : Fin 32) (feed : Byte) (next : Option Nat) (o : ExchangeOutcome) : State :=
  match acceptanceOf o with
  | .ack room => s.takeAck p feed next room
  | .nak => s.takeNak p feed
  | .failed => s.exchangeFailed p

/-- The outcome of a POLL (R91, R92, R98). -/
def State.takePollOutcome (s : State) (p : Fin 32) (o : ExchangeOutcome) : State :=
  match statusOf o with
  | some st => s.takeStatus p st false
  | none => (s.exchangeFailed p).setPollDue p

/-- R103: a failed DROP-SHEETS is queued again, to wait for the poll due time, while the flag is still set. -/
def State.retryDrop (s : State) (p : Fin 32) : State :=
  if (s.printer p).needsDrop then s.queueDropSheets p true else s

/-- The outcome of a DROP-SHEETS (R103). -/
def State.takeDropOutcome (s : State) (p : Fin 32) (o : ExchangeOutcome) : State :=
  match statusOf o with
  | some st =>
    ((s.setPrinter p { s.printer p with needsDrop := false, dropFrom := none }).takeStatus p st true).offerPrinter p
  | none => ((s.exchangeFailed p).retryDrop p).setPollDue p

/-- R92 to R104: the Printer Agent takes the outcome of an exchange it asked for. A printer that is not configured when the
exchange ends is left as it is. -/
def State.takeOutcome (s : State) (p : Fin 32) (kind : BlockKind) (o : ExchangeOutcome) : State :=
  if (s.printer p).config.configured then
    match kind with
    | .poll => s.takePollOutcome p o
    | .start feed noData => s.takeDataOutcome p feed (if noData then none else some 0) o
    | .data feed segment last => s.takeDataOutcome p feed (if last then none else some (segment + 1)) o
    | .dropSheets => s.takeDropOutcome p o
    | .lineReset => s
  else s

/-! ### The port's events (R93) -/

/-- R93: the five printer alerts that a port-down or an unconfiguring clears (R89). -/
def State.clearPrinterAlerts (s : State) (p : Fin 32) : State :=
  s.each [.jam, .doorOpen, .trayEmpty, .tonerOut, .printerLost] fun t c => t.clear (printerKey p c)

/-- Do an operation for each configured printer of a port, in drop order: the order is the model's choice (assumption log
41). -/
def State.eachConfigured (s : State) (q : Fin 8) (f : State → Fin 32 → State) : State :=
  s.each (List.finRange 4) fun t d =>
    if (t.printer (printerAt q d)).config.configured then f t (printerAt q d) else t

/-- R93: a port has faulted, for one of its printers. -/
def State.printerPortFaulted (s : State) (p : Fin 32) : State :=
  if (s.printer p).link = .lost then s else s.becomeLost p

/-- R93: a DROP-SHEETS is queued for a printer whose needs-drop flag is set, unless one already waits. -/
def State.requeueDrop (s : State) (p : Fin 32) : State :=
  if (s.printer p).needsDrop && !(s.port (portOf p)).control.any fun b => b.drop == dropOf p then
    s.queueDropSheets p false
  else s

/-- R93: a line reset is done, for one of the port's printers. -/
def State.printerLineReset (s : State) (p : Fin 32) : State :=
  let s1 := s.setPrinter p { s.printer p with link := .unknown, missed := 0, pollDue := s.now }
  (s1.refreshFeed p).requeueDrop p

/-- R93: the port is down, for one of its printers. -/
def State.printerPortDown (s : State) (p : Fin 32) : State :=
  let s1 := s.setPrinter p { s.printer p with link := .unknown, missed := 0, condition := none, room := 0 }
  (s1.clearPrinterAlerts p).refreshFeed p

end Sys2Proof.Machine
end

