-- ==== Sys2Proof/Machine/Lines.lean ====
section
/-!
DEFINITION. The Drop Line Controllers: blocks on the wire, the line arbiter, exchanges, contention, faults and line resets
(R66 to R86, R91, R94, R179).
-/

namespace Sys2Proof.Machine

/-- Change a port. -/
def State.modPort (s : State) (q : Fin 8) (f : Port → Port) : State := s.setPort q (f (s.port q))

/-! ### Blocks (R86, R179) -/

/-- R85, R179: the characters of a master block. -/
def blockCharacters (address kind : Byte) (payload : List Byte) : List LineChar :=
  let body := kind :: BitVec.ofNat 8 payload.length :: payload
  { data := address, mark := true } :: (body ++ [crc8 body]).map fun b => { data := b, mark := false }

/-- The ink is colour. -/
def isColour (k : Ink) : Bool := k == .colour

/-- R86, R179: the payload of a START. The places of its ink flags are inferred (assumption log 27). -/
def startPayload (e : WindowEntry) (tag : Half) (d : SheetDesc) : List Byte :=
  e.feed :: beBytes 2 tag.toNat ++ BitVec.ofNat 8 e.copy :: beBytes 2 e.sheet
    ++ [BitVec.ofNat 8 d.sides, BitVec.ofNat 8 d.sizeClass.val, BitVec.ofNat 8 d.media.val,
        flagByte [isColour d.ink1, d.ink2 == some .colour]]
    ++ beBytes 4 d.byteLen

/-- R86: the image bytes of a segment. -/
def segmentLength (byteLen segment : Nat) : Nat := min Config.segmentBytes (byteLen - Config.segmentBytes * segment)

/-- R86: the segment is the sheet's last. -/
def isLastSegment (byteLen segment : Nat) : Bool := decide (byteLen ≤ Config.segmentBytes * (segment + 1))

/-- R86, R179: the payload of a DATA; the segment number is the index modulo 65536. -/
def dataPayload (e : WindowEntry) (segment : Nat) (last : Bool) (bytes : List Byte) : List Byte :=
  e.feed :: beBytes 2 (segment % 65536) ++ flagByte [last] :: bytes

/-- R94: the block next to be sent for a printer's oldest SENDING entry: what it is, its kind code and its payload. -/
def State.dataBlock (s : State) (p : Fin 32) : Option (BlockKind × Byte × List Byte) :=
  match oldestSending (s.disp p).window, (s.printer p).stage with
  | some e, some stage =>
    match s.job e.job with
    | none => none
    | some job =>
      match s.sheetDesc job e.sheet with
      | none => none
      | some d =>
        match stage with
        | .start => some (.start e.feed (d.byteLen == 0), 0x02#8, startPayload e job.tag d)
        | .data segment =>
          let last := isLastSegment d.byteLen segment
          let bytes := readImage s.spm.dram d.blocks (Config.segmentBytes * segment) (segmentLength d.byteLen segment)
          some (.data e.feed segment last, 0x03#8, dataPayload e segment last bytes)
  | _, _ => none

/-! ### The line arbiter (R83) -/

/-- What the arbiter grants. -/
inductive Grant where
  | attention (d : Fin 4)
  | control (d : Fin 4)
  | poll (d : Fin 4)
  | data (d : Fin 4)
  deriving DecidableEq, Repr

/-- A control block is waiting for the drop. -/
def Port.controlWaits (q : Port) (d : Fin 4) : Bool := q.control.any fun b => b.drop == d

/-- Class 2: the oldest control block that is a candidate. -/
def State.controlCandidate (s : State) (q : Fin 8) : Option ControlBlock :=
  (s.port q).control.find? fun b => !b.waitDue || reached s.now (s.printer (printerAt q b.drop)).pollDue

/-- How long the poll of a drop has been due. -/
def State.overdue (s : State) (q : Fin 8) (d : Fin 4) : Nat := (s.now - (s.printer (printerAt q d)).pollDue).toNat

/-- Class 3: of the offered drops, the one whose poll has been due longest, the lowest among equals. -/
def State.pollCandidate (s : State) (q : Fin 8) : Option (Fin 4) :=
  let offered := (List.finRange 4).filter fun d => s.pollOffered (printerAt q d) && !(s.port q).controlWaits d
  offered.find? fun d => offered.all fun x => decide (s.overdue q x ≤ s.overdue q d)

/-- Class 4: the drops in the order of the round-robin, from the one after the last data drop. -/
def dropsAfter (d : Fin 4) : List (Fin 4) := (List.range 4).map fun i => Fin.ofNat 4 (d.val + 1 + i)

/-- Class 4: the first offered drop after the last data drop. -/
def State.dataCandidate (s : State) (q : Fin 8) : Option (Fin 4) :=
  (dropsAfter (s.port q).lastDrop).find? fun d =>
    s.dataOffered (printerAt q d) && (s.dataBlock (printerAt q d)).isSome && !(s.port q).controlWaits d

/-- Class 1: the lowest drop of the attention set for which no control block waits. -/
def State.attentionCandidate (s : State) (q : Fin 8) : Option (Fin 4) :=
  (List.finRange 4).find? fun d => (s.port q).attention.getLsbD d.val && !(s.port q).controlWaits d

/-- R83: the first candidate by the classes. -/
def State.lineCandidate (s : State) (q : Fin 8) : Option Grant :=
  match s.attentionCandidate q with
  | some d => some (.attention d)
  | none =>
    match s.controlCandidate q with
    | some b => some (.control b.drop)
    | none =>
      match s.pollCandidate q with
      | some d => some (.poll d)
      | none => (s.dataCandidate q).map Grant.data

/-- R83: an exchange begins: the line enters TRANSMITTING with the block's characters. -/
def State.beginExchange (s : State) (q : Fin 8) (d : Fin 4) (kind : BlockKind) (code : Byte) (payload : List Byte) : State :=
  s.modPort q fun x =>
    { x with
      line := .transmitting
      reply := []
      exchange := some
        { kind := kind
          drop := d
          chars := blockCharacters (BitVec.ofNat 8 d.val) code payload
          echoed := 0
          contentions := 0 } }

/-- The drop-from byte of a DROP-SHEETS. With the drop-from feed absent it is a free value (assumption log 3). -/
def State.dropFromByte (s : State) (p : Fin 32) : Byte :=
  match (s.printer p).dropFrom with
  | some f => f
  | none => Config.freeByte s.choices

/-- R83, R103: a DROP-SHEETS is granted: it leaves the control queue and is built with the drop-from feed as it stands. -/
def State.grantControl (s : State) (q : Fin 8) (d : Fin 4) : State :=
  let p := printerAt q d
  let f := s.dropFromByte p
  let s1 := if (s.printer p).dropFrom.isNone then s.countChoice else s
  let s2 := s1.modPort q fun x => { x with control := x.control.filter fun b => b.drop != d }
  s2.beginExchange q d .dropSheets 0x04#8 [f]

/-- R94: a DATA block lowers the printer's room when it is built. -/
def State.spendRoom (s : State) (p : Fin 32) (kind : BlockKind) : State :=
  match kind with
  | .data _ _ _ => s.setPrinter p { s.printer p with room := (s.printer p).room - 1 }
  | _ => s

/-- R83, R94: a data exchange is granted. -/
def State.grantData (s : State) (q : Fin 8) (d : Fin 4) : State :=
  match s.dataBlock (printerAt q d) with
  | some (kind, code, payload) =>
    ((s.spendRoom (printerAt q d) kind).modPort q fun x => { x with lastDrop := d }).beginExchange q d kind code payload
  | none => s

/-- R83: a grant. -/
def State.grant (s : State) (q : Fin 8) : Grant → State
  | .attention d =>
    (s.modPort q fun x => { x with attention := x.attention &&& ~~~(1#4 <<< d.val) }).beginExchange q d .poll 0x01#8 []
  | .control d => s.grantControl q d
  | .poll d => s.beginExchange q d .poll 0x01#8 []
  | .data d => s.grantData q d

/-- R83: the arbiter of one line runs, if the line is IDLE. -/
def State.serviceLine (s : State) (q : Fin 8) : State :=
  if (s.port q).line = .idle then
    match s.lineCandidate q with
    | some g => s.grant q g
    | none => s
  else s

/-- R83: the arbiters of the eight lines run. Every command ends with this (assumption log 11). -/
def State.serviceLines (s : State) : State := s.each (List.finRange 8) State.serviceLine

/-! ### RECOVERING and the line reset (R77, R80) -/

/-- R179: the characters of LINE-RESET. -/
def lineResetCharacters : List LineChar := blockCharacters 0x0F#8 0x0F#8 []

/-- The LINE-RESET exchange as a line reset starts it (R80). -/
def lineResetExchange : Exchange where
  kind := .lineReset
  drop := 0
  chars := lineResetCharacters
  echoed := 0
  contentions := 0

/-- R77, R80: a RECOVERING wait ends when the line idle flag is set: the exchange in flight is begun again, or the line enters
IDLE. -/
def Port.endWait (x : Port) : Port :=
  if x.line = .recovering ∧ x.rx.idleFlag = true then
    { x with
      line := if x.exchange.isSome then .transmitting else .idle
      recoverExpiry := none }
  else x

/-- R77: the line enters RECOVERING, with the recovery limit running from now. A flag already set ends the wait at once
(assumption log 12). -/
def Port.enterRecovering (x : Port) (now : Time) : Port :=
  Port.endWait { x with line := .recovering, recoverExpiry := some (after now Config.recoveryLimit) }

/-- R80, R81: a line reset starts; a RECOVERING wait already running goes on. -/
def Port.startLineReset (x : Port) (now : Time) : Port :=
  let x1 :=
    { x with
      exchange := some lineResetExchange
      reply := []
      restartPending := false
      windowExpiry := none
      restExpiry := none }
  if x.line = .recovering then x1.endWait else x1.enterRecovering now

/-! ### Configuration in use and port down (R71, R73, R93) -/

/-- R73: the port record with the line DISABLED. -/
def Port.down (x : Port) : Port :=
  { x with
    line := .disabled
    rx := Receiver.initial
    attention := 0#4
    control := []
    restartPending := false
    exchange := none
    reply := []
    discarding := false
    windowExpiry := none
    recoverExpiry := none
    restExpiry := none }

/-- R73, R93: enabled taken clear: the line enters DISABLED, PORT_FAULT is lowered and the Printer Agent told. -/
def State.portDown (s : State) (q : Fin 8) : State :=
  ((s.modPort q Port.down).clear (portFaultKey q)).eachConfigured q State.printerPortDown

/-- R71: the stored rate code and response window come into use. -/
def Port.takeRates (x : Port) : Port := { x with rateInUse := x.config.rate, windowInUse := x.config.window }

/-- R71: a stored PORT record comes into use. A DISABLED port that is enabled starts its receiver and runs a line reset. -/
def State.applyConfig (s : State) (q : Fin 8) : State :=
  let s1 := s.modPort q Port.takeRates
  let x := s1.port q
  if x.config.enabled then
    if x.line = .disabled then s1.setPort q (Port.startLineReset { x with rx := Receiver.initial } s1.now) else s1
  else if x.line = .disabled then s1
  else s1.portDown q

/-! ### The end of an exchange (R75 to R78) -/

/-- R75, R81: the line moves on after an exchange. -/
def Port.moveOn (x : Port) (ok : Bool) (now : Time) : Port :=
  if x.line = .disabled then x
  else if x.restartPending then x.startLineReset now
  else if ok then { x with line := .idle }
  else x.enterRecovering now

/-- The outcome is REPLY_OK. -/
def isReplyOk : ExchangeOutcome → Bool
  | .replyOk _ _ => true
  | _ => false

/-- R75, R78: the outcome of the exchange in flight goes to the Printer Agent, if it asked for it. -/
def State.handOutcome (s : State) (q : Fin 8) (o : ExchangeOutcome) : State :=
  match (s.port q).exchange with
  | some x => s.takeOutcome (printerAt q x.drop) x.kind o
  | none => s

/-- The exchange in flight is over. -/
def Port.dropExchange (x : Port) : Port := { x with exchange := none, reply := [], windowExpiry := none }

/-- R75: an exchange that has been sent ends: outcome, stored configuration, and the line moves on. -/
def State.finishExchange (s : State) (q : Fin 8) (o : ExchangeOutcome) : State :=
  let s1 := ((s.handOutcome q o).modPort q Port.dropExchange).applyConfig q
  s1.modPort q fun x => x.moveOn (isReplyOk o) s1.now

/-- R78: the port faults. A configuration that waited for the exchange's end then comes into use (assumption log 22). -/
def State.faultPort (s : State) (q : Fin 8) : State :=
  let s1 := s.modPort q fun x => { x with line := .faulted, recoverExpiry := none, windowExpiry := none }
  let s2 := (s1.handOutcome q .noReply).modPort q Port.dropExchange
  let s3 := s2.modPort q fun x => { x with attention := 0#4, restartPending := false }
  let s4 := (s3.eachConfigured q State.printerPortFaulted).raise (portFaultKey q)
  (s4.modPort q fun x => { x with restExpiry := some (after s4.now Config.faultRest) }).applyConfig q

/-- R77: a contention. The DLC's own break begins at once, so the line idle flag is cleared (assumption log 9). -/
def State.contend (s : State) (q : Fin 8) : State :=
  match (s.port q).exchange with
  | none => s
  | some e =>
    let s1 := s.modPort q fun x =>
      { x with
        contention := satAdd Config.max16 x.contention 1
        exchange := some { e with contentions := e.contentions + 1, echoed := 0 } }
    if Config.contentionLimit ≤ e.contentions + 1 then s1.faultPort q
    else
      s1.modPort q fun x =>
        Port.enterRecovering { x with discarding := true, rx := { x.rx with idleFlag := false } } s1.now

/-- R80, step 3: the line reset is done. The poll due time of a drop that is not configured stays as it is (assumption log
6). -/
def State.lineResetDone (s : State) (q : Fin 8) : State :=
  let s1 := (s.modPort q Port.dropExchange).applyConfig q
  if (s1.port q).line = .disabled then s1
  else
    let s2 := (s1.modPort q fun x => { x with line := .idle }).clear (portFaultKey q)
    (s2.modPort q fun x => { x with attention := 0#4 }).eachConfigured q State.printerLineReset

/-- R74, R76: every character has been echoed. -/
def State.transmitted (s : State) (q : Fin 8) (kind : BlockKind) : State :=
  if kind = .lineReset then s.lineResetDone q
  else s.modPort q fun x => { x with line := .awaiting, windowExpiry := some (after s.now x.windowInUse) }

/-! ### Characters (R67, R68, R74, R75, R82) -/

/-- R74: the report is a matching echo of the character. -/
def echoMatches (c : LineChar) : CharReport → Bool
  | .character d m => (d == c.data) && (m == c.mark)
  | _ => false

/-- R74: the receiver's report in the place of an echo. -/
def State.takeEcho (s : State) (q : Fin 8) (report : CharReport) : State :=
  match (s.port q).exchange with
  | none => s
  | some e =>
    match e.chars[e.echoed]? with
    | none => s
    | some c =>
      if echoMatches c report then
        let s1 := s.modPort q fun x => { x with exchange := some { e with echoed := e.echoed + 1 } }
        if e.echoed + 1 = e.chars.length then s1.transmitted q e.kind else s1
      else s.contend q

/-- R75: the reply taken so far is one that ends BAD_REPLY: its length character is above 250. -/
def replyTooLong (reply : List Byte) : Bool :=
  match reply with
  | _ :: len :: _ => decide (Config.maxBlockPayload < len.toNat)
  | _ => false

/-- R75: the reply is complete: length + 3 characters have been taken. -/
def replyComplete (reply : List Byte) : Bool :=
  match reply with
  | _ :: len :: _ => reply.length == len.toNat + 3
  | _ => false

/-- R75: the outcome of a complete reply, by its check. -/
def replyOutcome (reply : List Byte) : ExchangeOutcome :=
  if crc8 reply.dropLast = byteAt reply (reply.length - 1) then .replyOk (byteAt reply 0) ((reply.drop 2).dropLast)
  else .badReply

/-- R75: a character of a reply. -/
def State.takeReplyCharacter (s : State) (q : Fin 8) (d : Byte) (mark : Bool) : State :=
  let reply := (s.port q).reply ++ [d]
  if mark || replyTooLong reply then s.finishExchange q .badReply
  else if replyComplete reply then s.finishExchange q (replyOutcome reply)
  else s.modPort q fun x => { x with reply := reply }

/-- The configured drops of a port, as a set. -/
def State.configuredDrops (s : State) (q : Fin 8) : BitVec 4 :=
  (List.finRange 4).foldl (fun m d => if (s.printer (printerAt q d)).config.configured then m ||| (1#4 <<< d.val) else m) 0#4

/-- R82: an attention request. A DISABLED or FAULTED line takes none. -/
def State.requestAttention (s : State) (q : Fin 8) : State :=
  if lineFeeds (s.port q).line then s.modPort q fun x => { x with attention := x.attention ||| s.configuredDrops q } else s

/-- The receiver's own fields and counts at the end of a character (R67, R68). -/
def Port.endCharacter (x : Port) (samples : CharSamples) : Port :=
  let noisy := x.rx.startNoisy || samplesDisagree samples
  { x with
    noise := if noisy then satAdd Config.max16 x.noise 1 else x.noise
    framing := if charReport samples = .framing then satAdd Config.max16 x.framing 1 else x.framing
    rx :=
      { x.rx with
        mode := match charReport samples with
          | .character _ _ => .searching
          | _ => .resync
        ones := 0
        startNoisy := false } }

/-- R75, R82: a framing fault or a break while a reply is awaited or taken. -/
def State.takeBadReport (s : State) (q : Fin 8) (isBreak : Bool) : State :=
  let s1 := s.finishExchange q .badReply
  if isBreak then s1.requestAttention q else s1

/-- R74, R75, R77, R79, R82: what the line's state makes of a report. -/
def State.takeReport (s : State) (q : Fin 8) (report : CharReport) : State :=
  match (s.port q).line, report with
  | .transmitting, _ => s.takeEcho q report
  | .receiving, .character d mark => s.takeReplyCharacter q d mark
  | .receiving, .framing => s.takeBadReport q false
  | .receiving, .brk => s.takeBadReport q true
  | .awaiting, .brk => s.takeBadReport q true
  | .idle, .brk => s.requestAttention q
  | .recovering, .brk => if (s.port q).discarding then s else s.requestAttention q
  | _, _ => s

/-- R67, R68: the receiver is sampling a character, so it can report one. -/
def Port.inCharacter (x : Port) : Bool := (x.line != .disabled) && (x.rx.mode == .inCharacter)

/-- R67, R68: the end of a character at the receiver of a port. -/
def State.receive (s : State) (q : Fin 8) (samples : CharSamples) : State :=
  if (s.port q).inCharacter then
    (s.modPort q fun x => x.endCharacter samples).takeReport q (charReport samples)
  else s

/-- R67, R75: a confirmed start. -/
def State.startConfirmed (s : State) (q : Fin 8) (c : StartSamples) : State :=
  let x := s.port q
  if x.line != .disabled && x.rx.mode == .searching && startIsConfirmed c then
    s.setPort q
      { x with
        rx := { mode := .inCharacter, idleFlag := false, ones := 0, startNoisy := startDisagrees c }
        line := if x.line = .awaiting then .receiving else x.line
        windowExpiry := if x.line = .awaiting then none else x.windowExpiry }
  else s

/-- R69: the receiver may report idle: it runs, is in no character, and has not reported since the last one began. -/
def Port.mayReportIdle (x : Port) : Bool := (x.line != .disabled) && (x.rx.mode != .inCharacter) && !x.rx.idleFlag

/-- R68, R69: the receiver's fields at its report of idle; what the DLC discards of its own break ends here (R77). -/
def Port.reportIdle (x : Port) : Port :=
  { x with
    discarding := false
    rx := { x.rx with mode := .searching, idleFlag := true, ones := Config.idleSamples } }

/-- R69, R75, R77, R80: the receiver reports idle. -/
def State.lineIdle (s : State) (q : Fin 8) : State :=
  if (s.port q).mayReportIdle then
    let s1 := s.modPort q Port.reportIdle
    match (s1.port q).line with
    | .receiving => s1.finishExchange q .badReply
    | .recovering => s1.modPort q Port.endWait
    | _ => s1
  else s

/-- R81: PORT-RESTART on an enabled port. -/
def State.restartPort (s : State) (q : Fin 8) : State :=
  let x := s.port q
  match x.line, x.exchange with
  | .faulted, _ => s.setPort q (x.startLineReset s.now)
  | .idle, _ => s.setPort q (x.startLineReset s.now)
  | .recovering, none => s.setPort q (x.startLineReset s.now)
  | _, some e => if e.kind = .lineReset then s else s.setPort q { x with restartPending := true }
  | _, none => s

end Sys2Proof.Machine
end

