-- ==== Sys2Proof/Machine/Frames.lean ====
section
/-!
DEFINITION. What the Management Unit and the JLI do around every inbound frame, and the bytes of the frames the part sends
(R166, R168, R176 to R178).
-/

namespace Sys2Proof.Machine

/-! ### Codes (R171, R178) -/

/-- The code of a reset cause. -/
def resetCode : ResetCause → Nat
  | .powerOn => 0
  | .resetLine => 1
  | .restart => 2

/-- The code of a result. -/
def resultCode : Result → Nat
  | .ok => 0
  | .malformed => 1
  | .badTable => 2
  | .badIndex => 3
  | .interlock => 4
  | .bankCurrent => 5
  | .bankBound => 6
  | .unknownJob => 7
  | .badState => 8

/-- The code of an outcome. -/
def outcomeCode : JobOutcome → Nat
  | .completed => 0
  | .cancelled => 1
  | .damaged => 2
  | .error => 3
  | .refused => 4

/-- The code of a cause, by its place in the outcome table of 1.10. -/
def causeCode : Cause → Nat
  | .none => 0
  | .operator => 1
  | .aborted => 2
  | .streamReopened => 3
  | .noBlock => 4
  | .sheetTooLarge => 5
  | .noDescriptor => 6
  | .sheetExceeds => 7
  | .badSheet => 8
  | .duplicateTag => 9
  | .noRoute => 10
  | .accountMissing => 11
  | .accountInvalid => 12
  | .notPermitted => 13
  | .noCapablePrinter => 14
  | .noJobSlot => 15

/-- A value in k bytes; one that is absent or none is all ones (R171). -/
def optBytes (k : Nat) (o : Option Nat) : List Byte :=
  match o with
  | some n => beBytes k n
  | none => List.replicate k 0xFF#8

/-- The number of an element of a finite range, if there is one. -/
def optFin {n : Nat} (o : Option (Fin n)) : Option Nat := o.map Fin.val

/-- A signed amount in 4 bytes, two's complement (R177). -/
def signedBytes (z : Int) : List Byte := beBytes 4 (BitVec.ofInt 32 z).toNat

/-! ### Outbound frames (R177, R178) -/

/-- R173, R178: the payload of HELLO. -/
def helloPayload (cause : ResetCause) : List Byte :=
  beBytes 1 (resetCode cause) ++ beBytes 1 Config.partRevision ++ beBytes 1 15 ++ beBytes 1 128
    ++ beBytes 2 Config.sheetDescriptors ++ beBytes 2 Config.spoolBlocks ++ beBytes 2 Config.blockBytes
    ++ beBytes 2 256 ++ beBytes 1 16 ++ beBytes 1 8 ++ beBytes 1 32 ++ beBytes 2 512 ++ beBytes 1 Config.alertEntries
    ++ beBytes 2 Config.maxPayload

/-- R178: the payload of a JOB-REPORT. -/
def reportPayload (r : JobReport) : List Byte :=
  beBytes 2 r.tag.toNat ++ beBytes 1 (outcomeCode r.outcome) ++ beBytes 1 (causeCode r.cause) ++ optBytes 2 r.account
    ++ beBytes 2 r.sheets ++ beBytes 1 r.copies ++ beBytes 4 r.delivered ++ beBytes 2 r.sheetsLost
    ++ beBytes 4 r.chargeTotal ++ optBytes 1 (optFin r.lastPrinter)

/-- R178: the payload of an ALERT. -/
def alertPayload (raised : Bool) (k : AlertKey) (active : Bool) (count : Nat) (first last : Time) : List Byte :=
  beBytes 1 (if raised then 0 else 1) ++ beBytes 1 (classCode k.cls) ++ beBytes 1 (severity k.cls)
    ++ beBytes 1 (sourceCode k.kind) ++ beBytes 2 k.index ++ [flagByte [active]] ++ beBytes 1 count
    ++ beBytes 4 first.toNat ++ beBytes 4 last.toNat

/-- R177: the kind code of an outbound frame. -/
def OutFrame.kindCode : OutFrame → Byte
  | .hello _ => 0x20#8
  | .pause _ => 0x21#8
  | .resume _ => 0x22#8
  | .readReply _ _ _ _ _ _ => 0x23#8
  | .commandReply _ _ _ _ => 0x24#8
  | .alert _ _ _ _ _ _ => 0x25#8
  | .jobReport _ => 0x26#8

/-- R177, R178: the payload of an outbound frame. -/
def OutFrame.payload : OutFrame → List Byte
  | .hello cause => helloPayload cause
  | .pause n => beBytes 2 n
  | .resume n => beBytes 2 n
  | .readReply token result table first count entries =>
    token :: beBytes 1 (resultCode result) ++ table :: beBytes 2 first.toNat ++ beBytes 1 count ++ entries
  | .commandReply token code result data => token :: code :: beBytes 1 (resultCode result) ++ data
  | .alert raised k active count first last => alertPayload raised k active count first last
  | .jobReport r => reportPayload r

/-- R165, R167: the bytes of an outbound frame, on stream 0. -/
def OutFrame.bytes (f : OutFrame) : List Byte := frameBytes f.kindCode 0#8 f.payload

/-! ### Silence (R176) and the passing on of frames (R166, R168) -/

/-- R176: the silence timer as it starts at a timestamp. -/
def silenceStart (now : Time) (timeout : Nat) : Option Time :=
  if 0 < timeout then some (after now (timeout * 1000)) else none

/-- R65: the arbiter of an enabled pool runs, and releases are tried for a PRINTING job. -/
def State.tryPrinting (s : State) (j : Fin 128) : State :=
  match s.job j with
  | some job => if job.phase = .printing then s.tryReleases j else s
  | none => s

/-- R47, R65: the unattended hold has ended: the arbiters in pool order, then releases in slot order. -/
def State.resumeDispatch (s : State) : State :=
  (s.each (List.finRange 16) State.runArbiter).each (List.finRange 128) State.tryPrinting

/-- R176: a valid frame restarts the silence timer and returns the part to ATTENDED. -/
def State.silenceRule (s : State) : State :=
  let held := s.unattendedHold
  let s1 := s.setMgu { s.mgu with attended := true, timer := silenceStart s.now s.mgu.timeout }
  if s.mgu.attended then s1
  else
    let s2 := s1.clear (deviceKey .unattended)
    if held then s2.resumeDispatch else s2

/-- R166, R172: a valid frame. From a RESTART to the reset no frame is taken; otherwise the silence rule comes first, then
the frame's own effect, then the line arbiters. -/
def State.onFrame (s : State) (effect : State → State) : State :=
  if s.jli.restart.isSome then s else (effect s.silenceRule).serviceLines

/-- R172: a COMMAND-REPLY is handed to the JLI. -/
def State.reply (s : State) (token code : Byte) (result : Result) (data : List Byte) : State :=
  s.hand (.commandReply token code result data)

/-- R169: the reply to a TABLE-WRITE: its result and the number of entries applied. -/
def State.replyWrite (s : State) (token : Byte) (result : Result) (applied : Nat) : State :=
  s.reply token 0#8 result (beBytes 1 applied)

/-- R166: a stray frame. -/
def State.stray (s : State) : State := s.onFrame State.countStray

end Sys2Proof.Machine
end

