-- ==== Sys2Proof/Machine/Resets.lean ====
section
/-!
DEFINITION. The resets (section 0.7.7, R25, R27, R43, R70, R72, R73, R88, R90, R107 to R109, R118, R133, R152, R156, R158,
R160 to R163, R173 to R176) and their three commands.
-/

namespace Sys2Proof.Machine

/-- R43: a pool after a reset that keeps its configuration. -/
def keepPool (x : Pool) : Pool := { Pool.initial with enabled := x.enabled, reroute := x.reroute }

/-- R72, R73, R80: a port after a reset that keeps its record: DISABLED, or at the start of its line reset. The timestamp is
then 0. -/
def keepPort (x : Port) : Port :=
  if x.config.enabled then (Port.initial x.config).startLineReset 0#32 else Port.initial x.config

/-- R88, R90: a printer record after a reset that keeps its configuration. -/
def keepPrinter (x : Printer) : Printer := Printer.initial x.config

/-- R118: an account after a reset that keeps it. -/
def keepAccount (x : Account) : Account := { x with reserved := 0, bound := 0 }

/-- R161 to R163: a sense input after a reset that keeps its mode. -/
def keepSense (x : Sense) : Sense := Sense.initial x.mode

/-- R167, R173: the JLI after a reset: HELLO alone is in the transmit list. -/
def jliAfterReset (cause : ResetCause) : Jli where
  tx := [.hello cause]
  linkErrors := 0
  strayFrames := 0
  restart := none

/-- R173, R174, R176: the Management Unit after a reset that keeps its configuration. -/
def mguAfterReset (m : Mgu) (cause : ResetCause) : Mgu :=
  { m with
    timer := silenceStart 0#32 m.timeout
    attended := true
    cause := cause }

/-- R152, R160 to R163: the Alert Relay after a reset that keeps the mask, the beacon map and the sense modes. -/
def arlAfterReset (a : Arl) : Arl :=
  { a with
    queue := []
    dropped := 0
    overrides := Vector.replicate 8 none
    sense := a.sense.map keepSense }

/-- The effect of the reset line, with a cause (section 0.7.7, R172). The queue of commands, the levels on the pins and the
count of free values are no state of the part's blocks and stay. -/
def State.resetKeeping (s : State) (cause : ResetCause) : State :=
  { s with
    jli := jliAfterReset cause
    mgu := mguAfterReset s.mgu cause
    rcl := { s.rcl with arrival := 0#32 }
    spm := Spm.initial s.spm.dram
    dsc :=
      { pools := s.dsc.pools.map keepPool
        printers := Vector.replicate 32 Dispatch.initial }
    dlc := s.dlc.map keepPort
    pra := s.pra.map keepPrinter
    chg := { s.chg with bound := Vector.replicate 2 0 }
    acm := { s.acm with accounts := s.acm.accounts.map keepAccount }
    arl := arlAfterReset s.arl
    now := 0#32 }

/-- Power-on (R173): every block at its power-on values. -/
def State.powerUp (s : State) : State :=
  { State.reset with
    spm := Spm.initial s.spm.dram
    senseLines := s.senseLines
    choices := s.choices
    pending := s.pending }

/-- POWER_ON (R173). -/
def execPowerOn (s : State) : Host.Outcome State Fault Refusal := .next s.powerUp

/-- RESET_LINE (R173): the reset input has been held low and released. -/
def execResetLine (s : State) : Host.Outcome State Fault Refusal := .next (s.resetKeeping .resetLine)

/-- R172: where the wait of a RESTART is at its end, the part resets at once, with cause RESTART. It ends the sending of the
reply and a RESTART whose reply is discarded. -/
def State.restartNow (s : State) : State := if s.jli.restart = some 0 then s.resetKeeping .restart else s

/-- RESTART_RESET (R172, assumption log 13). -/
def execRestartReset (s : State) : Host.Outcome State Fault Refusal := .next s.restartNow

end Sys2Proof.Machine
end

