-- ==== Sys2Proof/Machine/Sense.lean ====
section
/-!
DEFINITION. The sense inputs: filter, changes and modes (R161 to R163).
-/

namespace Sys2Proof.Machine

/-- The key of a slot's SENSE_JAM. -/
def senseKey (p : Fin 32) : AlertKey := printerKey p .senseJam

/-- The sense condition of a slot changes, and the Printer Agent is told (R162, R163). -/
def State.setSenseActive (s : State) (p : Fin 32) (b : Bool) : State := s.setSense p { s.sense p with active := b }

/-- R162: the sense condition becomes active and SENSE_JAM is raised as a condition at a time. -/
def State.senseStarts (s : State) (p : Fin 32) (time : Time) : State :=
  ((s.setSenseActive p true).raiseAt (senseKey p) true time).refreshFeed p

/-- R162, R163: the sense condition becomes not active and SENSE_JAM is cleared. -/
def State.senseEnds (s : State) (p : Fin 32) : State := ((s.setSenseActive p false).clear (senseKey p)).refreshFeed p

/-- R161, R162: a falling change is taken. -/
def State.takeFall (s : State) (p : Fin 32) : State :=
  let x := s.sense p
  let s1 := s.setSense p { x with high := false, run := 0, stamp := s.now, sampled := s.now }
  match x.mode with
  | .off => s1
  | .edge => s1.raiseAt (senseKey p) false s.now
  | .level => s1.senseStarts p s.now

/-- R161, R162: a rising change is taken. -/
def State.takeRise (s : State) (p : Fin 32) : State :=
  let x := s.sense p
  let s1 := s.setSense p { x with high := true, run := 0, sampled := s.now }
  match x.mode with
  | .off => s1
  | .edge => s1
  | .level => s1.senseEnds p

/-- The third differing sample takes the change (R161). -/
def lastRun : Nat := 2

/-- R161: the filter of a slot has yet to take its sample of this tick. -/
def State.sampleDue (s : State) (p : Fin 32) : Bool := (s.sense p).sampled != s.now

/-- R161: the filter of one slot takes its sample of this tick, unless it has taken it. -/
def State.takeSample (levels : BitVec 32) (s : State) (p : Fin 32) : State :=
  let x := s.sense p
  if s.sampleDue p then
    if levels.getLsbD p.val = x.high then s.setSense p { x with run := 0, sampled := s.now }
    else if x.run < lastRun then s.setSense p { x with run := x.run + 1, sampled := s.now }
    else if x.high then s.takeFall p
    else s.takeRise p
  else s

/-- R161: the levels on the inputs, and every filter's sample of this tick, in slot order. -/
def State.takeSamples (s : State) (levels : BitVec 32) : State :=
  (s.setSenseLines levels).each (List.finRange 32) (State.takeSample levels)

/-- The levels with one slot's level changed. -/
def setLevel (levels : BitVec 32) (p : Fin 32) (high : Bool) : BitVec 32 :=
  if high then levels ||| (1#32 <<< p.val) else levels &&& ~~~(1#32 <<< p.val)

/-- R163: a write of a slot's sense mode. -/
def State.writeSenseMode (s : State) (p : Fin 32) (mode : SenseMode) : State :=
  let x := s.sense p
  let s1 := s.setSense p { x with mode := mode }
  if x.mode = mode then s
  else if x.mode = .level then
    if x.active then s1.senseEnds p else s1
  else if mode = .level then
    if x.high then s1 else s1.senseStarts p s.now
  else s1

end Sys2Proof.Machine
end

