-- ==== Sys2Proof/Machine/Streams.lean ====
section
/-!
DEFINITION. The job streams and admission (R3 to R5, R9 to R19, R31 to R41).
-/

namespace Sys2Proof.Machine

/-- The job stream of a stream number; none for stream 0. -/
def streamIndex (stream : BitVec 4) : Option (Fin 15) :=
  if h : stream.toNat - 1 < 15 ∧ stream.toNat ≠ 0 then some ⟨stream.toNat - 1, h.1⟩ else none

/-! ### Eligibility (R18, R19) -/

/-- R18: a SPOOLING job becomes eligible: QUEUED with no holds, HELD otherwise. -/
def State.makeEligible (s : State) (j : Fin 128) : State :=
  match s.job j with
  | some job =>
    if noHolds job.holds then s.requeue j else s.setJob j (some { job with phase := .held })
  | none => s

/-- The last descriptor of the job's sheet list is incomplete. -/
def State.lastIncomplete (s : State) (job : Job) : Option (Nat × SheetDesc) :=
  match s.lastSheet job with
  | some (n, d) => if d.complete then none else some (n, d)
  | none => none

/-- R10, R12: an incomplete last sheet is completed: its flag is set and the job's sheets rise by 1. -/
def State.completeLast (s : State) (j : Fin 128) : State :=
  match s.job j with
  | some job =>
    match s.lastIncomplete job with
    | some (n, d) =>
      (s.setDescs (putDesc s.spm.descs n { d with complete := true })).setJob j
        (some { job with sheets := job.sheets + 1 })
    | none => s
  | none => s

/-- R18, R19: the Dispatch Scheduler is told that a sheet of the job has completed at a SHEET: the start threshold may make
the job eligible, and a PRINTING job tries releases. -/
def State.sheetCompleted (s : State) (j : Fin 128) : State :=
  match s.job j with
  | some job =>
    match job.phase with
    | .spooling => if 0 < job.startThreshold ∧ job.sheets = job.startThreshold then s.makeEligible j else s
    | .printing => s.tryReleases j
    | _ => s
  | none => s

/-! ### Early ends (R14, R15) -/

/-- R15: a job ends from its stream. -/
def State.endFromStream (s : State) (i : Fin 15) (j : Fin 128) (outcome : JobOutcome) (cause : Cause) : State :=
  (s.setStream i .discard).cancelJob j outcome cause

/-- R14: a job is damaged. -/
def State.damage (s : State) (i : Fin 15) (j : Fin 128) (cause : Cause) : State :=
  match s.job j with
  | some job => (s.raiseEvent (damagedKey job.tag)).endFromStream i j .damaged cause
  | none => s

/-! ### SHEET (R9, R10) -/

/-- A class is flagged in a mask; a class above 3 has no flag (R177). -/
def flagged (mask : BitVec 4) (n : Byte) : Bool := mask.getLsbD n.toNat

/-- R9: the cause that ends the job, if the declaration fails its check. -/
def sheetFault (need : Needs) (d : SheetDecl) : Option Cause :=
  if d.sides ≠ 1#8 ∧ d.sides ≠ 2#8 then some .badSheet
  else if (d.colour1 || (d.sides == 2#8 && d.colour2)) && !need.colour then some .sheetExceeds
  else if d.sides == 2#8 && !need.duplex then some .sheetExceeds
  else if !flagged need.sizeMask d.sizeClass || !flagged need.mediaMask d.media then some .sheetExceeds
  else none

/-- R6: a descriptor as it is filled from a SHEET. -/
def descOf (d : SheetDecl) : SheetDesc where
  sides := d.sides.toNat
  sizeClass := Fin.ofNat 4 d.sizeClass.toNat
  media := Fin.ofNat 4 d.media.toNat
  ink1 := inkOf d.colour1
  ink2 := if d.sides = 2#8 then some (inkOf d.colour2) else none
  byteLen := 0
  complete := false
  blocks := []

/-- R6, R10, step 3: the lowest-numbered free descriptor is appended to the job's sheet list. -/
def State.takeDescriptor (s : State) (j : Fin 128) (d : SheetDecl) : State :=
  let n := lowestFree 0 s.spm.descs
  (s.setDescs (putDesc s.spm.descs n (descOf d))).modJob j fun x => { x with sheetList := x.sheetList ++ [n] }

/-- R10, step 2: an incomplete last sheet is completed and the Dispatch Scheduler told. -/
def State.completePrevious (s : State) (j : Fin 128) (job : Job) : State :=
  if (s.lastIncomplete job).isSome then (s.completeLast j).sheetCompleted j else s

/-- R9, R10: a SHEET for the job of a stream. -/
def State.takeSheet (s : State) (i : Fin 15) (j : Fin 128) (d : SheetDecl) : State :=
  match s.job j with
  | none => s
  | some job =>
    match sheetFault job.needs d with
    | some cause => s.endFromStream i j .error cause
    | none =>
      if s.freeDescriptors = 0 then s.damage i j .noDescriptor
      else (s.completePrevious j job).takeDescriptor j d

/-! ### DATA (R11) -/

/-- R11: a DATA for the job of a stream. -/
def State.takeData (s : State) (i : Fin 15) (j : Fin 128) (payload : List Byte) : State :=
  match s.job j with
  | none => s
  | some job =>
    match s.lastIncomplete job with
    | none => s.countStray
    | some (n, d) =>
      if payload = [] then s
      else if Config.maxSheetBytes < d.byteLen + payload.length then s.damage i j .sheetTooLarge
      else if s.freeBlocks < blocksFor (d.byteLen + payload.length) - blocksFor d.byteLen then s.damage i j .noBlock
      else (s.storeData n d payload).applyWatermarks

/-! ### JOB-CLOSE and JOB-ABORT (R12, R13) -/

/-- R12, steps 3 and 4: what becomes of a job whose stream has been closed. -/
def State.afterClose (s : State) (j : Fin 128) : State :=
  match s.job j with
  | none => s
  | some job =>
    if job.sheets = 0 then s.endJob j .completed .none
    else
      match job.phase with
      | .spooling => s.makeEligible j
      | .printing => s.tryReleases j
      | _ => s

/-- R12, step 1: the last sheet is completed, and a PRINTING job tries releases (R19). -/
def State.completeAtClose (s : State) (j : Fin 128) : State :=
  let s1 := s.completeLast j
  match s1.job j with
  | some job => if job.phase = .printing then s1.tryReleases j else s1
  | none => s1

/-- R12: a JOB-CLOSE on an OPEN stream. -/
def State.closeJob (s : State) (i : Fin 15) (j : Fin 128) : State :=
  (((s.completeAtClose j).unbindStream j).setStream i .idle).afterClose j

/-- R13: a JOB-ABORT on an OPEN stream. -/
def State.abortJob (s : State) (i : Fin 15) (j : Fin 128) : State :=
  (s.setStream i .idle).cancelJob j .cancelled .aborted

/-! ### Admission (R31 to R40) -/

/-- R31: the copies as the RCL takes them. -/
def clampCopies (n : Byte) : Nat := if n.toNat = 0 then 1 else min n.toNat 99

/-- A number clamped to the range 0 to n. -/
def clampTo (n x : Nat) : Fin (n + 1) := ⟨min x n, by omega⟩

/-- The route a JOB-OPEN uses (R26). -/
def State.routeOf (s : State) (r : OpenRequest) : Route := s.route (Fin.ofNat 256 r.queueTag.toNat)

/-- R33, R37: the number of the account to be charged; none if the route is not valid or no account is given. -/
def chargedAccount (x : Route) (r : OpenRequest) : Option Nat :=
  if !x.valid then none
  else if x.fromJob then r.account.map BitVec.toNat
  else some x.fixedAccount.val

/-- R33: the account of a number, if it is valid and OPEN. -/
def State.openAccount (s : State) (n : Nat) : Option (Fin 512) :=
  if h : n < 512 then
    if (s.account ⟨n, h⟩).valid && !(s.account ⟨n, h⟩).blocked then some ⟨n, h⟩ else none
  else none

/-- The slot is FREE. -/
def State.slotFree (s : State) (j : Fin 128) : Bool := (s.job j).isNone

/-- R38: the lowest-numbered FREE slot. -/
def State.lowestFreeSlot (s : State) : Option (Fin 128) := (List.finRange 128).find? s.slotFree

/-- The slot of the live job with a tag. -/
def State.jobWithTag (s : State) (tag : Half) : Option (Fin 128) :=
  (List.finRange 128).find? fun j =>
    match s.job j with
    | some job => job.tag == tag
    | none => false

/-- R35: some configured printer of the pool meets every need. -/
def State.poolCanPrint (s : State) (k : Fin 16) (need : Needs) : Bool :=
  (List.finRange 32).any fun p => canServe k need (s.printer p).config

/-- R32: the first check that fails, checks 1 to 6; the account charged when none does. -/
def State.admissionCheck (s : State) (r : OpenRequest) : Except Cause (Fin 512) :=
  let x := s.routeOf r
  if (s.jobWithTag r.tag).isSome then .error .duplicateTag
  else if !x.valid then .error .noRoute
  else
    match chargedAccount x r with
    | none => .error .accountMissing
    | some n =>
      match s.openAccount n with
      | none => .error .accountInvalid
      | some a =>
        if (r.needs.colour && !x.colour) || (r.needs.duplex && !x.duplex) then .error .notPermitted
        else if !s.poolCanPrint x.pool r.needs then .error .noCapablePrinter
        else .ok a

/-- R38 to R41: the record of an admitted job. -/
def State.admittedJob (s : State) (i : Fin 15) (r : OpenRequest) (a : Fin 512) : Job :=
  let x := s.routeOf r
  { phase := .spooling
    tag := r.tag
    stream := some i
    isOpen := true
    route := r.queueTag
    pool := x.pool
    account := a
    tariffClass := x.tariffClass
    bank := s.chg.current
    priority := match r.priority with
      | some n => clampTo 3 n.toNat
      | none => x.priority
    arrival := s.rcl.arrival
    needs := r.needs
    copies := clampCopies r.copies
    sheets := 0
    sheetList := []
    releasePos := 0
    confirmPos := 0
    holds := { operator := false, arrival := x.holdOnArrival, budget := false }
    drain := none
    stalled := false
    printer := none
    lastPrinter := none
    chargeTotal := 0
    sheetsLost := 0
    startThreshold := x.startThreshold
    ending := none }

/-- R38, R39: a JOB-OPEN is admitted to a slot. -/
def State.admitJob (s : State) (i : Fin 15) (r : OpenRequest) (a : Fin 512) (j : Fin 128) : State :=
  let job := s.admittedJob i r a
  (((s.setJob j (some job)).setArrival (s.rcl.arrival + 1#32)).bindJob a job.bank).setStream i (.opened j)

/-- R24, R37: the report of a refused JOB-OPEN. -/
def refusalReport (x : Route) (r : OpenRequest) (cause : Cause) : JobReport where
  tag := r.tag
  outcome := .refused
  cause := cause
  account := chargedAccount x r
  sheets := 0
  copies := clampCopies r.copies
  delivered := 0
  sheetsLost := 0
  chargeTotal := 0
  lastPrinter := none

/-- R5, R37: a JOB-OPEN is refused. -/
def State.refuseOpen (s : State) (i : Fin 15) (r : OpenRequest) (cause : Cause) : State :=
  (s.hand (.jobReport (refusalReport (s.routeOf r) r cause))).setStream i .discard

/-- R5, R32: a JOB-OPEN is passed to admission; check 7 is the last. -/
def State.passToAdmission (s : State) (i : Fin 15) (r : OpenRequest) : State :=
  match s.admissionCheck r with
  | .error cause => s.refuseOpen i r cause
  | .ok a =>
    match s.lowestFreeSlot with
    | some j => s.admitJob i r a j
    | none => s.refuseOpen i r .noJobSlot

/-! ### Frames by the state of their stream (R4) -/

/-- R4: a JOB-OPEN. -/
def State.onJobOpen (s : State) (i : Fin 15) (r : OpenRequest) : State :=
  match s.stream i with
  | .idle => s.passToAdmission i r
  | .opened j => (s.cancelJob j .cancelled .streamReopened).passToAdmission i r
  | .discard => s

/-- R4: a SHEET. -/
def State.onSheet (s : State) (i : Fin 15) (d : SheetDecl) : State :=
  match s.stream i with
  | .idle => s.countStray
  | .opened j => s.takeSheet i j d
  | .discard => s

/-- R4: a DATA. -/
def State.onData (s : State) (i : Fin 15) (payload : List Byte) : State :=
  match s.stream i with
  | .idle => s.countStray
  | .opened j => s.takeData i j payload
  | .discard => s

/-- R4: a JOB-CLOSE. -/
def State.onJobClose (s : State) (i : Fin 15) : State :=
  match s.stream i with
  | .idle => s.countStray
  | .opened j => s.closeJob i j
  | .discard => s.setStream i .idle

/-- R4: a JOB-ABORT. -/
def State.onJobAbort (s : State) (i : Fin 15) : State :=
  match s.stream i with
  | .idle => s.countStray
  | .opened j => s.abortJob i j
  | .discard => s.setStream i .idle

end Sys2Proof.Machine
end

