-- ==== Sys2Proof/Machine/Tables.lean ====
section
/-!
DEFINITION. The tables: what a read returns and what a write does (R26 to R30, R42 to R44, R70 to R72, R88, R89, R107, R110,
R117 to R120, R133, R156, R158, R163, R164, R169 to R171, R174, R175).
-/

namespace Sys2Proof.Machine

/-! ### Codes of named values (R171) -/

/-- The code of a phase; FREE is 0. -/
def phaseCode : Phase → Nat
  | .spooling => 1
  | .queued => 2
  | .held => 3
  | .printing => 4
  | .cancelling => 5

/-- The code of a drain reason. -/
def drainCode : DrainReason → Nat
  | .hold => 0
  | .budget => 1
  | .service => 2

/-- The code of a link state. -/
def linkCode : LinkState → Nat
  | .unknown => 0
  | .answering => 1
  | .lost => 2

/-- The code of a line state. -/
def lineCode : LineState → Nat
  | .disabled => 0
  | .idle => 1
  | .transmitting => 2
  | .awaiting => 3
  | .receiving => 4
  | .recovering => 5
  | .faulted => 6

/-- The code of a condition (R179). -/
def conditionCode : Condition → Nat
  | .ready => 0
  | .warming => 1
  | .jam => 2
  | .doorOpen => 3
  | .trayEmpty => 4
  | .tonerOut => 5

/-- The code of a sense mode. -/
def modeCode : SenseMode → Nat
  | .off => 0
  | .edge => 1
  | .level => 2

/-- The code of a send stage: START 0, DATA with segment index n as n + 1 (assumption log 15). -/
def stageCode : SendStage → Nat
  | .start => 0
  | .data n => n + 1

/-! ### Read entries (R171) -/

/-- A ROUTE entry of 7 bytes. -/
def routeBytes (x : Route) : List Byte :=
  [flagByte [x.valid, x.fromJob, x.holdOnArrival, x.colour, x.duplex]] ++ beBytes 1 x.pool.val
    ++ beBytes 1 x.tariffClass.val ++ beBytes 2 x.fixedAccount.val ++ beBytes 1 x.priority.val
    ++ beBytes 1 x.startThreshold

/-- The tag of the job in a slot; 0 for a FREE slot. -/
def State.tagOf (s : State) (j : Fin 128) : Nat :=
  match s.job j with
  | some job => job.tag.toNat
  | none => 0

/-- A POOL entry of 5 bytes and 2 for each queued job. -/
def State.poolBytes (s : State) (x : Pool) : List Byte :=
  [flagByte [x.enabled]] ++ beBytes 2 x.reroute ++ beBytes 1 x.pointer.val ++ beBytes 1 x.queue.length
    ++ (x.queue.map fun j => beBytes 2 (s.tagOf j)).flatten

/-- A PORT entry of 5 bytes. -/
def portBytes (x : PortConfig) : List Byte :=
  [flagByte [x.enabled]] ++ beBytes 1 x.rate ++ beBytes 1 x.window ++ beBytes 2 x.poll

/-- A PRINTER entry of 24 bytes. That a stopped stall timer reads as all ones is the model's choice (assumption log 15). -/
def printerBytes (x : Printer) (stall : Option Time) : List Byte :=
  [flagByte [x.config.configured, x.config.colour, x.config.duplex, !x.inService, x.needsDrop]]
    ++ optBytes 1 (optFin x.config.pool) ++ beBytes 1 (x.config.sizeMask.toNat + 16 * x.config.mediaMask.toNat)
    ++ beBytes 1 x.config.limit ++ beBytes 1 (linkCode x.link) ++ beBytes 1 x.missed
    ++ optBytes 1 (x.condition.map conditionCode) ++ beBytes 1 x.room ++ beBytes 1 x.nextFeed.toNat
    ++ optBytes 1 (x.dropFrom.map BitVec.toNat) ++ beBytes 4 x.pollDue.toNat ++ optBytes 4 (stall.map BitVec.toNat)
    ++ beBytes 2 x.unmatched ++ optBytes 3 (x.stage.map stageCode) ++ beBytes 1 x.naks

/-- A tariff class of 26 bytes (R107). -/
def tariffBytes (c : TariffClass) : List Byte :=
  (c.rates.toList.map fun r => beBytes 2 r.toNat).flatten ++ [c.rebate]
    ++ (c.surcharges.toList.map fun r => beBytes 2 r.toNat).flatten ++ [c.tier]

/-- An ACCOUNT entry of 34 bytes. -/
def accountBytes (a : Account) : List Byte :=
  [flagByte [a.valid, a.blocked, a.unlimited]] ++ signedBytes a.balance ++ beBytes 4 a.overdraft ++ beBytes 4 a.reserved
    ++ optBytes 4 a.threshold ++ beBytes 4 a.periodSheets ++ beBytes 4 a.periodMono ++ beBytes 4 a.periodColour
    ++ beBytes 4 a.periodCharge ++ beBytes 1 a.bound

/-- An ALERT-SETUP entry of 2 bytes (R164). That a beacon number or a mode fills the two as one number, none as FFFF hex, is
the model's choice (assumption log 15). -/
def setupBytes (a : Arl) (i : Nat) : List Byte :=
  if i = 0 then beBytes 2 a.mask.toNat
  else if h : i - 1 < 32 then optBytes 2 (optFin (a.printerBeacon.get ⟨i - 1, h⟩))
  else if h : i - 33 < 8 then optBytes 2 (optFin (a.portBeacon.get ⟨i - 33, h⟩))
  else if i = 41 then optBytes 2 (optFin a.officeBeacon)
  else if h : i - 42 < 32 then beBytes 2 (modeCode (a.sense.get ⟨i - 42, h⟩).mode)
  else []

/-- The DEVICE-CONFIG entry of 3 bytes (R174). -/
def State.deviceConfigBytes (s : State) : List Byte :=
  beBytes 1 s.mgu.timeout ++ beBytes 1 (if s.mgu.holdAction then 1 else 0) ++ optBytes 1 (optFin s.arl.officeBeacon)

/-- A JOB entry of 44 bytes, of a live job. -/
def jobBytes (x : Job) : List Byte :=
  beBytes 1 (phaseCode x.phase) ++ beBytes 2 x.tag.toNat ++ optBytes 1 (x.stream.map fun i => i.val + 1)
    ++ [flagByte [x.isOpen]] ++ [x.route] ++ beBytes 1 x.pool.val ++ beBytes 2 x.account.val
    ++ beBytes 1 x.tariffClass.val ++ beBytes 1 x.bank.val ++ beBytes 1 x.priority.val ++ beBytes 4 x.arrival.toNat
    ++ [flagByte [x.needs.colour, x.needs.duplex]] ++ beBytes 1 x.needs.sizeMask.toNat
    ++ beBytes 1 x.needs.mediaMask.toNat ++ beBytes 1 x.copies ++ beBytes 2 x.sheets ++ beBytes 4 x.releasePos
    ++ beBytes 4 x.confirmPos ++ [flagByte [x.holds.operator, x.holds.arrival, x.holds.budget]]
    ++ optBytes 1 (x.drain.map drainCode) ++ [flagByte [x.stalled]] ++ optBytes 1 (optFin x.printer)
    ++ optBytes 1 (optFin x.lastPrinter) ++ beBytes 4 x.chargeTotal ++ beBytes 2 x.sheetsLost
    ++ beBytes 1 x.startThreshold ++ optBytes 1 (x.ending.map fun e => outcomeCode e.1)
    ++ optBytes 1 (x.ending.map fun e => causeCode e.2)

/-- R24: a JOB entry of a FREE slot: every field zero, or absent where the field can be. -/
def freeJobBytes : List Byte :=
  List.replicate 3 0#8 ++ [0xFF#8] ++ List.replicate 27 0#8 ++ [0xFF#8, 0#8, 0xFF#8, 0xFF#8] ++ List.replicate 7 0#8
    ++ [0xFF#8, 0xFF#8]

/-- The JOB entry of a slot. -/
def State.slotBytes (s : State) (j : Fin 128) : List Byte :=
  match s.job j with
  | some x => jobBytes x
  | none => freeJobBytes

/-- An ALERT-QUEUE entry of 15 bytes (R152). -/
def alertBytes (e : AlertEntry) : List Byte :=
  beBytes 1 (sourceCode e.key.kind) ++ beBytes 2 e.key.index ++ beBytes 1 (classCode e.key.cls)
    ++ beBytes 1 (severity e.key.cls) ++ [flagByte [e.active, e.acked, e.sent]] ++ beBytes 4 e.firstTime.toNat
    ++ beBytes 4 e.lastTime.toNat ++ beBytes 1 e.count

/-- R152: an index past the last entry reads as empty, with every field zero. -/
def queueBytes (l : List AlertEntry) (i : Nat) : List Byte :=
  match l[i]? with
  | some e => alertBytes e
  | none => List.replicate 15 0#8

/-- A meter and its rollover count. -/
def meterBytes (m : Meter) : List Byte := beBytes 4 m.value ++ beBytes 1 m.rolls

/-- A PRINTER-METERS entry of 15 bytes (R133). -/
def metersBytes (m : Meters) : List Byte := meterBytes m.sheets ++ meterBytes m.mono ++ meterBytes m.colour

/-- A PORT-STATUS entry of 13 bytes (R72). -/
def portStatusBytes (x : Port) : List Byte :=
  beBytes 1 (lineCode x.line) ++ beBytes 2 x.noise ++ beBytes 2 x.framing ++ beBytes 2 x.contention
    ++ beBytes 2 x.protocolErrors ++ beBytes 1 x.attention.toNat ++ beBytes 1 x.control.length
    ++ beBytes 1 x.lastDrop.val ++ [flagByte [x.restartPending]]

/-- R175: the number of live jobs. -/
def State.liveJobs (s : State) : Nat := (s.spm.jobs.toList.filter Option.isSome).length

/-- The DEVICE-STATUS entry of 20 bytes (R175). -/
def State.deviceStatusBytes (s : State) : List Byte :=
  beBytes 1 (resetCode s.mgu.cause) ++ beBytes 2 s.freeBlocks ++ beBytes 2 s.freeDescriptors ++ beBytes 1 s.liveJobs
    ++ beBytes 2 s.jli.linkErrors ++ beBytes 2 s.jli.strayFrames ++ beBytes 2 s.arl.dropped
    ++ beBytes 1 (if s.mgu.attended then 0 else 1) ++ beBytes 1 s.chg.current.val ++ beBytes 1 (s.chg.bound.get 0)
    ++ beBytes 1 (s.chg.bound.get 1) ++ beBytes 4 s.now.toNat

/-- R171: entry i of a table, as a read returns it; none for an unknown table or an index past its end. -/
def State.readEntry (s : State) (table : Byte) (i : Nat) : Option (List Byte) :=
  match table.toNat with
  | 1 => if h : i < 256 then some (routeBytes (s.route ⟨i, h⟩)) else none
  | 2 => if h : i < 16 then some (s.poolBytes (s.pool ⟨i, h⟩)) else none
  | 3 => if h : i < 8 then some (portBytes (s.port ⟨i, h⟩).config) else none
  | 4 => if h : i < 32 then some (printerBytes (s.printer ⟨i, h⟩) (s.disp ⟨i, h⟩).stall) else none
  | 5 => if h : i < 16 then some (tariffBytes ((s.chg.banks.get 0).get ⟨i, h⟩)) else none
  | 6 => if h : i < 16 then some (tariffBytes ((s.chg.banks.get 1).get ⟨i, h⟩)) else none
  | 7 => if h : i < 512 then some (accountBytes (s.account ⟨i, h⟩)) else none
  | 8 => if i < 74 then some (setupBytes s.arl i) else none
  | 9 => if i < 1 then some s.deviceConfigBytes else none
  | 16 => if h : i < 128 then some (s.slotBytes ⟨i, h⟩) else none
  | 17 => if i < 64 then some (queueBytes s.arl.queue i) else none
  | 18 => if h : i < 32 then some (metersBytes (s.acm.meters.get ⟨i, h⟩)) else none
  | 19 => if h : i < 8 then some (portStatusBytes (s.port ⟨i, h⟩)) else none
  | 20 => if i < 1 then some s.deviceStatusBytes else none
  | _ => none

/-! ### TABLE-READ (R170) -/

/-- R170: as many entries as fit in the room left, with their bytes. -/
def State.fitEntries (s : State) (table : Byte) : Nat → Nat → Nat → List (List Byte)
  | _, 0, _ => []
  | i, n + 1, room =>
    match s.readEntry table i with
    | some b => if b.length ≤ room then b :: State.fitEntries s table (i + 1) n (room - b.length) else []
    | none => []

/-- R169, R170: the tests 1 to 3 of a read. -/
def readRefusal (table : Byte) (first : Half) (count : Byte) : Option Result :=
  if count.toNat = 0 ∨ Config.maxTableCount < count.toNat then some .malformed
  else
    match tableShape table with
    | none => some .badTable
    | some (size, _) => if size < first.toNat + count.toNat then some .badIndex else none

/-- R170: a TABLE-READ of the right form. -/
def State.readTable (s : State) (token table : Byte) (first : Half) (count : Byte) : State :=
  match readRefusal table first count with
  | some r => s.hand (.readReply token r table first 0 [])
  | none =>
    let l := s.fitEntries table first.toNat count.toNat Config.readReplyRoom
    s.hand (.readReply token .ok table first l.length l.flatten)

/-! ### The writing of entries (R169)

A write of one entry answers none where its owner refuses it with INTERLOCK. -/

/-- R169: entries are applied in index order until one is refused; the result and the number applied. -/
def applyEntries {α : Type} (write : State → Nat → α → Option State) :
    List α → Nat → Nat → State → State × Result × Nat
  | [], _, n, s => (s, .ok, n)
  | e :: rest, i, n, s =>
    match write s i e with
    | some s1 => applyEntries write rest (i + 1) (n + 1) s1
    | none => (s, .interlock, n)

/-- A pool number that may be none: values above 15 are none (R88). -/
def poolOrNone (n : Byte) : Option (Fin 16) := if h : n.toNat < 16 then some ⟨n.toNat, h⟩ else none

/-- A beacon number that may be none: values above 7 are none (R164, R174). -/
def beaconOrNone (n : Nat) : Option (Fin 8) := if h : n < 8 then some ⟨n, h⟩ else none

/-- R28: a route as stored. -/
def storedRoute (e : RouteEntry) : Route where
  valid := e.valid
  pool := clampTo 15 e.pool.toNat
  tariffClass := clampTo 15 e.tariffClass.toNat
  fromJob := e.fromJob
  fixedAccount := clampTo 511 e.fixedAccount.toNat
  priority := clampTo 3 e.priority.toNat
  startThreshold := e.startThreshold.toNat
  holdOnArrival := e.holdOnArrival
  colour := e.colour
  duplex := e.duplex

/-- R29: a route may be stored. -/
def State.routeAllowed (s : State) (x : Route) : Bool :=
  !x.valid || ((s.pool x.pool).enabled && (x.fromJob || (s.account x.fixedAccount).valid))

/-- R28, R29: a write of one ROUTE entry. -/
def State.writeRoute (s : State) (i : Nat) (e : RouteEntry) : Option State :=
  if h : i < 256 then
    if s.routeAllowed (storedRoute e) then some (s.setRoute ⟨i, h⟩ (storedRoute e)) else none
  else none

/-- R44: something names the pool: a valid route, a live job or a configured printer. -/
def State.poolNamed (s : State) (k : Fin 16) : Bool :=
  (s.rcl.routes.toList.any fun x => x.valid && (x.pool == k))
    || (s.spm.jobs.toList.any fun o => match o with | some job => job.pool == k | none => false)
    || (s.pra.toList.any fun x => x.config.configured && (x.config.pool == some k))

/-- R44: a write of one POOL entry; the pointer written is ignored. -/
def State.writePool (s : State) (i : Nat) (e : PoolEntry) : Option State :=
  if h : i < 16 then
    let k : Fin 16 := ⟨i, h⟩
    if !e.enabled && s.poolNamed k then none
    else some (s.setPool k { s.pool k with enabled := e.enabled, reroute := min e.reroute.toNat 3600 })
  else none

/-- R70: a PORT record as stored. That a rate code of 8 to 255 is stored as 5, as 6 and 7 are, is the model's choice (assumption
log 45). -/
def storedPort (e : PortEntry) : PortConfig where
  enabled := e.enabled
  rate := min e.rate.toNat 5
  window := max 1 (min e.window.toNat 20)
  poll := max 20 (min e.poll.toNat 1000)

/-- R71: some printer of the port has an assigned job. -/
def State.portAssigned (s : State) (q : Fin 8) : Bool :=
  (List.finRange 4).any fun d => (s.disp (printerAt q d)).assigned.isSome

/-- R71: the entry would clear enabled, or change the rate code or the response window. -/
def changesLine (old new : PortConfig) : Bool := !new.enabled || (new.rate != old.rate) || (new.window != old.window)

/-- R71: the line is where a written record comes into use at once. -/
def Port.appliesNow (x : Port) : Bool :=
  match x.line with
  | .idle => true
  | .disabled => true
  | .faulted => true
  | .recovering => x.exchange.isNone
  | _ => false

/-- R71: a write of one PORT entry. The interlock's "the port is enabled" is tested on the stored record, also while a written
clear of enabled waits for the end of the exchange: the model's choice (assumption log 42). -/
def State.writePort (s : State) (i : Nat) (e : PortEntry) : Option State :=
  if h : i < 8 then
    let q : Fin 8 := ⟨i, h⟩
    let x := s.port q
    if x.config.enabled && s.portAssigned q && changesLine x.config (storedPort e) then none
    else
      let s1 := s.setPort q { x with config := storedPort e }
      some (if x.appliesNow then s1.applyConfig q else s1)
  else none

/-- R88: a printer's configuration as stored. -/
def storedPrinter (e : PrinterEntry) : PrinterConfig where
  configured := e.configured
  pool := poolOrNone e.pool
  colour := e.colour
  duplex := e.duplex
  sizeMask := e.sizeMask
  mediaMask := e.mediaMask
  limit := max 1 (min e.limit.toNat 8)

/-- R88: the record names a disabled pool. -/
def State.namesDisabledPool (s : State) (c : PrinterConfig) : Bool :=
  match c.pool with
  | some k => c.configured && !(s.pool k).enabled
  | none => false

/-- R89: a printer that was not configured is configured. That its port is enabled is tested on the stored record, also while a
written clear of enabled waits for the end of the exchange: the model's choice (assumption log 42). -/
def State.configure (s : State) (p : Fin 32) (c : PrinterConfig) : State :=
  let r := s.printer p
  s.setPrinter p
    { r with
      config := c
      link := .unknown
      missed := 0
      condition := none
      room := 0
      pollDue := if (s.port (portOf p)).config.enabled then s.now else r.pollDue }

/-- R89: a configured printer is unconfigured. -/
def State.unconfigure (s : State) (p : Fin 32) (c : PrinterConfig) : State :=
  let s1 := s.setPrinter p
    { s.printer p with
      config := c
      link := .unknown
      missed := 0
      condition := none
      room := 0
      needsDrop := false
      dropFrom := none }
  let s2 := s1.modPort (portOf p) fun x =>
    { x with
      control := x.control.filter fun b => b.drop != dropOf p
      attention := x.attention &&& ~~~(1#4 <<< (dropOf p).val) }
  s2.clearPrinterAlerts p

/-- R89: a taken PRINTER record acts by what it changes. -/
def State.storePrinter (s : State) (p : Fin 32) (c : PrinterConfig) : State :=
  if c.configured && !(s.printer p).config.configured then s.configure p c
  else if !c.configured && (s.printer p).config.configured then s.unconfigure p c
  else s.setPrinter p { s.printer p with config := c }

/-- R88, R89: a write of one PRINTER entry; a printer it leaves available is offered to its pool (R47). -/
def State.writePrinter (s : State) (i : Nat) (e : PrinterEntry) : Option State :=
  if h : i < 32 then
    let p : Fin 32 := ⟨i, h⟩
    if (s.disp p).assigned.isSome || s.namesDisabledPool (storedPrinter e) then none
    else some (((s.storePrinter p (storedPrinter e)).refreshFeed p).offerPrinter p)
  else none

/-- R119: a valid route names the account as its FIXED account. -/
def State.fixedBySome (s : State) (a : Fin 512) : Bool :=
  s.rcl.routes.toList.any fun x => x.valid && !x.fromJob && (x.fixedAccount == a)

/-- R117, R171: the tier threshold as stored; all ones is disabled, and other values are clamped to 16,777,215. -/
def storedThreshold (n : BitVec 32) : Option Nat := if n = 0xFFFFFFFF#32 then none else some (min n.toNat 16777215)

/-- R117, R120: an account as stored by a write. -/
def storedAccount (old : Account) (e : AccountEntry) : Account where
  valid := e.valid
  blocked := e.blocked
  unlimited := e.unlimited
  balance := e.balance.toInt
  overdraft := min e.overdraft.toNat 2147483647
  reserved := old.reserved
  threshold := storedThreshold e.threshold
  periodSheets := e.periodSheets.toNat
  periodMono := e.periodMono.toNat
  periodColour := e.periodColour.toNat
  periodCharge := e.periodCharge.toNat
  bound := old.bound

/-- R119, R120: a write of one ACCOUNT entry. -/
def State.writeAccount (s : State) (i : Nat) (e : AccountEntry) : Option State :=
  if h : i < 512 then
    let a : Fin 512 := ⟨i, h⟩
    if !e.valid && (decide (0 < (s.account a).bound) || s.fixedBySome a) then none
    else
      let s1 := s.setAccount a (storedAccount (s.account a) e)
      some (if e.valid then s1.accountChange a else s1)
  else none

/-- R164: a sense mode as stored; an unknown value is OFF. -/
def storedMode (n : Half) : SenseMode :=
  match n.toNat with
  | 1 => .edge
  | 2 => .level
  | _ => .off

/-- R164: a write of one ALERT-SETUP entry; none is refused. -/
def State.writeSetup (s : State) (i : Nat) (e : Half) : Option State :=
  if i = 0 then some (s.writeMask (e.truncate 12))
  else if h : i - 1 < 32 then some (s.setPrinterBeacon ⟨i - 1, h⟩ (beaconOrNone e.toNat))
  else if h : i - 33 < 8 then some (s.setPortBeacon ⟨i - 33, h⟩ (beaconOrNone e.toNat))
  else if i = 41 then some (s.setOfficeBeacon (beaconOrNone e.toNat))
  else if h : i - 42 < 32 then some (s.writeSenseMode ⟨i - 42, h⟩ (storedMode e))
  else none

/-- R174: a write of the DEVICE-CONFIG entry; it is always taken. -/
def State.writeDeviceConfig (s : State) (_i : Nat) (e : DeviceConfigEntry) : Option State :=
  some ((s.setMgu
    { s.mgu with
      timeout := e.timeout.toNat
      holdAction := e.action == 1#8
      timer := silenceStart s.now e.timeout.toNat }).setOfficeBeacon (beaconOrNone e.beacon.toNat))

/-! ### Whole writes (R169) -/

/-- The outcome of a table write handed to the reply. -/
def State.replyApplied (token : Byte) (x : State × Result × Nat) : State := x.1.replyWrite token x.2.1 x.2.2

/-- R169: the tests that a write of whole entries can fail: the count, the range, and the length where the entries exceed a
frame (R171). -/
def writeRefusal (first : Half) (n size most : Nat) : Option Result :=
  if n = 0 ∨ Config.maxTableCount < n then some .malformed
  else if size < first.toNat + n then some .badIndex
  else if most < n then some .malformed
  else none

/-- R169: a write of the entries of a table of `size` entries, at most `most` of them in a frame. -/
def State.writeEntries {α : Type} (s : State) (write : State → Nat → α → Option State) (size most : Nat) (token : Byte)
    (first : Half) (entries : List α) : State :=
  match writeRefusal first entries.length size most with
  | some r => s.replyWrite token r 0
  | none => State.replyApplied token (applyEntries write entries first.toNat 0 s)

/-- R110: the classes of a bank write are applied in index order, each clamped. -/
def State.writeClasses (b : Fin 2) : List TariffClass → Nat → State → State
  | [], _, s => s
  | c :: rest, i, s => State.writeClasses b rest (i + 1) (s.setTariff b (Fin.ofNat 16 i) (clampClass c))

/-- R110: a write of a tariff bank is taken in full or refused as a whole. -/
def State.writeBank (s : State) (token : Byte) (b : Fin 2) (first : Half) (classes : List TariffClass) : State :=
  match writeRefusal first classes.length 16 Config.maxTableCount with
  | some r => s.replyWrite token r 0
  | none =>
    if s.chg.current = b then s.replyWrite token .bankCurrent 0
    else if 0 < s.chg.bound.get b then s.replyWrite token .bankBound 0
    else (State.writeClasses b classes first.toNat s).replyWrite token .ok classes.length

/-- The most ACCOUNT entries a frame holds (R171). -/
def mostAccounts : Nat := 29

/-- R169: the tests of a TABLE-WRITE as carried, in their order. -/
def rawWriteRefusal (table : Byte) (first : Half) (count : Byte) (entries : List Byte) : Option Result :=
  if count.toNat = 0 ∨ Config.maxTableCount < count.toNat then some .malformed
  else
    match tableShape table with
    | some (size, some bytes) =>
      if size < first.toNat + count.toNat then some .badIndex
      else if entries.length ≠ count.toNat * bytes then some .malformed
      else none
    | _ => some .badTable

/-- R169: a TABLE-WRITE that passes the tests is carried to the owner of its table. -/
def State.carryWrite (s : State) (token table : Byte) (first : Half) (n : Nat) (b : List Byte) : State :=
  match table.toNat with
  | 1 => s.writeEntries State.writeRoute 256 32 token first (readEntries readRouteEntry 7 n b)
  | 2 => s.writeEntries State.writePool 16 32 token first (readEntries readPoolEntry 4 n b)
  | 3 => s.writeEntries State.writePort 8 32 token first (readEntries readPortEntry 5 n b)
  | 4 => s.writeEntries State.writePrinter 32 32 token first (readEntries readPrinterEntry 4 n b)
  | 5 => s.writeBank token 0 first (readEntries readTariffClass 26 n b)
  | 6 => s.writeBank token 1 first (readEntries readTariffClass 26 n b)
  | 7 => s.writeEntries State.writeAccount 512 mostAccounts token first (readEntries readAccountEntry 34 n b)
  | 8 => s.writeEntries State.writeSetup 74 32 token first (readEntries (fun x => halfAt x 0) 2 n b)
  | 9 => s.writeEntries State.writeDeviceConfig 1 32 token first (readEntries readDeviceConfigEntry 3 n b)
  | _ => s.replyWrite token .badTable 0

/-- R169: a TABLE-WRITE as carried. -/
def State.writeRaw (s : State) (token table : Byte) (first : Half) (count : Byte) (entries : List Byte) : State :=
  match rawWriteRefusal table first count entries with
  | some r => s.replyWrite token r 0
  | none => s.carryWrite token table first count.toNat entries

end Sys2Proof.Machine
end

