-- ==== Sys2Proof/Machine/Manage.lean ====
section
/-!
DEFINITION. The commands of the front end, without the frame around them (R51, R52, R55, R81, R108, R128 to R130, R146, R155,
R160, R172).
-/

namespace Sys2Proof.Machine

/-! ### The codes of the commands (R178) -/

/-- The command codes, in the order of the command table of 10.4. -/
inductive CommandCode where
  | cancelJob
  | holdJob
  | releaseJob
  | adjust
  | closePeriod
  | swapTariff
  | ackAlert
  | printerService
  | portRestart
  | beaconOverride
  | restart
  deriving DecidableEq, Repr

/-- R177: the code of a command. -/
def CommandCode.byte : CommandCode → Byte
  | .cancelJob => 1#8
  | .holdJob => 2#8
  | .releaseJob => 3#8
  | .adjust => 4#8
  | .closePeriod => 5#8
  | .swapTariff => 6#8
  | .ackAlert => 7#8
  | .printerService => 8#8
  | .portRestart => 9#8
  | .beaconOverride => 10#8
  | .restart => 11#8

/-- R172: a command is answered: OK with its data. -/
def State.replyOk (s : State) (token : Byte) (c : CommandCode) (data : List Byte) : State := s.reply token c.byte .ok data

/-- R172, R178: a command is refused; nothing changes and the reply carries no data. -/
def State.refuse (s : State) (token : Byte) (c : CommandCode) (r : Result) : State := s.reply token c.byte r []

/-! ### Commands that name a job -/

/-- R146: the stream of a cancelled job is put in DISCARD. -/
def State.discardStream (s : State) (job : Job) : State :=
  match job.stream with
  | some i => s.setStream i .discard
  | none => s

/-- R146: CANCEL-JOB. -/
def State.commandCancel (s : State) (token : Byte) (tag : Half) : State :=
  match s.jobWithTag tag with
  | none => s.refuse token .cancelJob .unknownJob
  | some j =>
    match s.job j with
    | none => s.refuse token .cancelJob .unknownJob
    | some job =>
      if job.phase = .cancelling then s.refuse token .cancelJob .badState
      else ((s.discardStream job).cancelJob j .cancelled .operator).replyOk token .cancelJob []

/-- OPERATOR is added to the holds of a job. -/
def holdOperator (job : Job) : Job := { job with holds := { job.holds with operator := true } }

/-- R51, R53: a PRINTING job is held: the drain reason becomes HOLD unless it is SERVICE; a displaced BUDGET is tested (R60);
an empty window ends the drain. -/
def State.holdPrinting (s : State) (j : Fin 128) (job : Job) : State :=
  let drain := if job.drain = some .service then some .service else some .hold
  let s1 := s.setJob j (some { holdOperator job with drain := drain })
  let s2 := if job.drain = some .budget then s1.budgetTest job.account else s1
  match job.printer with
  | some p => if (s2.disp p).window.isEmpty then s2.endDrain j p else s2
  | none => s2

/-- R51: the effect of HOLD-JOB on a job that is not CANCELLING. -/
def State.holdJob (s : State) (j : Fin 128) (job : Job) : State :=
  match job.phase with
  | .queued => (s.setJob j (some { holdOperator job with phase := .held })).leaveQueue job.pool j
  | .printing => s.holdPrinting j job
  | _ => s.setJob j (some (holdOperator job))

/-- R51: HOLD-JOB. -/
def State.commandHold (s : State) (token : Byte) (tag : Half) : State :=
  match s.jobWithTag tag with
  | none => s.refuse token .holdJob .unknownJob
  | some j =>
    match s.job j with
    | none => s.refuse token .holdJob .unknownJob
    | some job =>
      if job.phase = .cancelling then s.refuse token .holdJob .badState
      else (s.holdJob j job).replyOk token .holdJob []

/-- R52: the effect of RELEASE-JOB on a job that is not CANCELLING. -/
def State.releaseHeld (s : State) (j : Fin 128) (job : Job) : State :=
  match job.phase with
  | .held => ((s.setJob j (some { job with holds := emptyHolds })).budgetTest job.account).requeue j
  | .printing =>
    if job.drain = some .hold then (s.setJob j (some { job with holds := emptyHolds, drain := none })).tryReleases j
    else s.setJob j (some { job with holds := emptyHolds })
  | _ => s.setJob j (some { job with holds := emptyHolds })

/-- R52: RELEASE-JOB. -/
def State.commandRelease (s : State) (token : Byte) (tag : Half) : State :=
  match s.jobWithTag tag with
  | none => s.refuse token .releaseJob .unknownJob
  | some j =>
    match s.job j with
    | none => s.refuse token .releaseJob .unknownJob
    | some job =>
      if job.phase = .cancelling then s.refuse token .releaseJob .badState
      else (s.releaseHeld j job).replyOk token .releaseJob []

/-! ### Commands that name an account -/

/-- R128, R129: the valid account of a number. -/
def State.validAccount (s : State) (n : Half) : Option (Fin 512) :=
  if h : n.toNat < 512 then if (s.account ⟨n.toNat, h⟩).valid then some ⟨n.toNat, h⟩ else none else none

/-- R128: ADJUST. -/
def State.commandAdjust (s : State) (token : Byte) (n : Half) (amount : BitVec 32) : State :=
  match s.validAccount n with
  | none => s.refuse token .adjust .badIndex
  | some a =>
    let balance := clampBalance ((s.account a).balance + amount.toInt)
    ((s.setAccount a { s.account a with balance := balance }).accountChange a).replyOk token .adjust (signedBytes balance)

/-- R129, R178: the four period counters of an account as reply data. -/
def periodBytes (a : Account) : List Byte :=
  beBytes 4 a.periodSheets ++ beBytes 4 a.periodMono ++ beBytes 4 a.periodColour ++ beBytes 4 a.periodCharge

/-- R129: CLOSE-PERIOD for one account. -/
def State.commandClosePeriod (s : State) (token : Byte) (n : Half) : State :=
  match s.validAccount n with
  | none => s.refuse token .closePeriod .badIndex
  | some a =>
    ((s.setAccount a (closePeriod (s.account a))).accountChange a).replyOk token .closePeriod (periodBytes (s.account a))

/-- The valid accounts, by rising number (R130). -/
def State.validAccounts (s : State) : List (Fin 512) := (List.finRange 512).filter fun a => (s.account a).valid

/-- The sum of a counter over accounts, in 8 bytes (R130, R178). -/
def State.sumBytes (s : State) (l : List (Fin 512)) (f : Account → Nat) : List Byte :=
  beBytes 8 (l.foldl (fun n a => n + f (s.account a)) 0)

/-- R130, R178: the summed line and the number of accounts closed. -/
def State.summedLine (s : State) (l : List (Fin 512)) : List Byte :=
  s.sumBytes l Account.periodSheets ++ s.sumBytes l Account.periodMono ++ s.sumBytes l Account.periodColour
    ++ s.sumBytes l Account.periodCharge ++ beBytes 2 l.length

/-- R130: CLOSE-PERIOD for all accounts. -/
def State.commandCloseAll (s : State) (token : Byte) : State :=
  let l := s.validAccounts
  let s1 := s.each l fun t a => t.setAccount a (closePeriod (t.account a))
  (s1.each l State.accountChange).replyOk token .closePeriod (s.summedLine l)

/-! ### SWAP-TARIFF and ACK-ALERT -/

/-- R108: SWAP-TARIFF; the reply carries the current bank after it. -/
def State.commandSwap (s : State) (token : Byte) : State :=
  let b := otherBank s.chg.current
  (s.setCurrentBank b).replyOk token .swapTariff (beBytes 1 b.val)

/-- The key an ACK-ALERT names; none where a code names no source kind or class (assumption log 32). -/
def ackKey (kind : Byte) (index : Half) (cls : Byte) : Option AlertKey :=
  match sourceOfCode kind.toNat, classOfCode cls.toNat with
  | some k, some c => some { kind := k, index := index.toNat, cls := c }
  | _, _ => none

/-- R155: ACK-ALERT. -/
def State.commandAck (s : State) (token kind : Byte) (index : Half) (cls : Byte) : State :=
  match ackKey kind index cls with
  | none => s.refuse token .ackAlert .badIndex
  | some k =>
    match s.alertFor k with
    | none => s.refuse token .ackAlert .badIndex
    | some e => (s.acknowledge k e).replyOk token .ackAlert []

/-! ### PRINTER-SERVICE (R55) -/

/-- R55: a PRINTING job's printer is to leave service. -/
def State.drainForService (s : State) (p : Fin 32) (j : Fin 128) (job : Job) : State :=
  let s1 := s.setJob j (some { job with drain := some .service })
  let s2 := if job.drain = some .budget then s1.budgetTest job.account else s1
  if (s2.disp p).window.isEmpty then s2.endDrain j p else s2

/-- The leaving-service flag is set or cleared. -/
def State.setLeaving (s : State) (p : Fin 32) (b : Bool) : State := s.setDisp p { s.disp p with leaving := b }

/-- The service field is set: IN or OUT. -/
def State.setService (s : State) (p : Fin 32) (b : Bool) : State := s.setPrinter p { s.printer p with inService := b }

/-- R55: OUT. -/
def State.serviceOut (s : State) (p : Fin 32) : State :=
  let d := s.disp p
  match d.assigned with
  | none => s.setService p false
  | some j =>
    if d.leaving then s
    else
      let s1 := s.setLeaving p true
      match s1.job j with
      | some job => if job.phase = .printing then s1.drainForService p j job else s1
      | none => s1

/-- R53, R55: SERVICE is removed: the drain reason becomes HOLD if OPERATOR is held, and otherwise the job feeds again. -/
def State.undrainService (s : State) (j : Fin 128) : State :=
  match s.job j with
  | some job =>
    if job.phase = .printing ∧ job.drain = some .service then
      if job.holds.operator then s.setJob j (some { job with drain := some .hold })
      else (s.setJob j (some { job with drain := none })).tryReleases j
    else s
  | none => s

/-- R55: IN. -/
def State.serviceIn (s : State) (p : Fin 32) : State :=
  let d := s.disp p
  match d.assigned with
  | none => if (s.printer p).inService then s else (s.setService p true).offerPrinter p
  | some j => if d.leaving then (s.setLeaving p false).undrainService j else s

/-- R55: PRINTER-SERVICE, with its effect on a printer that exists. -/
def State.commandService (s : State) (token printer : Byte) (effect : State → Fin 32 → State) : State :=
  if h : printer.toNat < 32 then (effect s ⟨printer.toNat, h⟩).replyOk token .printerService []
  else s.refuse token .printerService .badIndex

/-! ### PORT-RESTART, BEACON-OVERRIDE and RESTART -/

/-- R81: PORT-RESTART. A port is enabled or not by its stored record, also while a write waits for an exchange's end: the
model's choice (assumption log 42). -/
def State.commandPortRestart (s : State) (token port : Byte) : State :=
  if h : port.toNat < 8 then
    if (s.port ⟨port.toNat, h⟩).config.enabled then (s.restartPort ⟨port.toNat, h⟩).replyOk token .portRestart []
    else s.refuse token .portRestart .badState
  else s.refuse token .portRestart .badIndex

/-- R178: the pattern of a code. -/
def patternOfCode : Nat → Option Pattern
  | 0 => some .off
  | 1 => some .steady
  | 2 => some .slow
  | 3 => some .fast
  | _ => none

/-- R160: the override that a number of seconds starts; none ends one. -/
def overrideFor (now : Time) (pattern : Pattern) (seconds : Half) : Option Override :=
  if seconds = 0#16 then none else some { pattern := pattern, expiry := after now (min seconds.toNat 3600 * 1000) }

/-- R160: BEACON-OVERRIDE; a beacon that does not exist is looked at before the pattern (assumption log 31). -/
def State.commandOverride (s : State) (token beacon pattern : Byte) (seconds : Half) : State :=
  if h : beacon.toNat < 8 then
    match patternOfCode pattern.toNat with
    | some x => (s.setOverride ⟨beacon.toNat, h⟩ (overrideFor s.now x seconds)).replyOk token .beaconOverride []
    | none => s.refuse token .beaconOverride .malformed
  else s.refuse token .beaconOverride .badIndex

/-- R172: RESTART: the reply is handed over, and the reset waits until it has been sent. A reply that the full transmit list
discards leaves nothing to wait for: the part resets at once. -/
def State.commandRestart (s : State) (token : Byte) : State :=
  let s1 := s.replyOk token .restart []
  (s1.setRestart (some (if s.jli.tx.length < Config.txLimit then s1.jli.tx.length else 0))).restartNow

/-! ### Requests of the wrong form (R168) -/

/-- R168: the token of a request, 0 for an empty payload. -/
def tokenOf (payload : List Byte) : Byte := byteAt payload 0

/-- A byte of a request that its payload may be too short to hold; the spec states none for it then, so it is a free value
(assumption log 3), `n` counting the uses. -/
def byteOrFree (payload : List Byte) (i n : Nat) : Byte :=
  match payload[i]? with
  | some b => b
  | none => Config.freeByte n

/-- R168, R169: a TABLE-WRITE of the wrong form. -/
def State.refuseWriteForm (s : State) (payload : List Byte) : State := s.replyWrite (tokenOf payload) .malformed 0

/-- R168, R170: a TABLE-READ of the wrong form; what its payload does not hold of table id and first index is free. -/
def State.refuseReadForm (s : State) (payload : List Byte) : State :=
  let table := byteOrFree payload 1 s.choices
  let hi := byteOrFree payload 2 (s.choices + 1)
  let lo := byteOrFree payload 3 (s.choices + 2)
  (((s.countChoice).countChoice).countChoice).hand
    (.readReply (tokenOf payload) .malformed table (halfAt [hi, lo] 0) 0 [])

/-- R168: a COMMAND of the wrong form; a command code its payload does not hold is free. -/
def State.refuseCommandForm (s : State) (payload : List Byte) : State :=
  s.countChoice.reply (tokenOf payload) (byteOrFree payload 1 s.choices) .malformed []

/-- R168: a request of the wrong form is answered MALFORMED. -/
def State.refuseForm (s : State) (kind : RequestKind) (payload : List Byte) : State :=
  match kind with
  | .tableWrite => s.refuseWriteForm payload
  | .tableRead => s.refuseReadForm payload
  | .command => s.refuseCommandForm payload

end Sys2Proof.Machine
end

