-- ==== Sys2Proof/Machine/Commands.lean ====
section
/-!
DEFINITION. The commands that are COMMAND requests of the front end (R172).
-/

namespace Sys2Proof.Machine

/-- CANCEL_JOB (R146). -/
def execCancelJob (token : Byte) (tag : Half) (s : State) : Host.Outcome State Fault Refusal :=
  .next (s.onFrame fun t => t.commandCancel token tag)

/-- HOLD_JOB (R51). -/
def execHoldJob (token : Byte) (tag : Half) (s : State) : Host.Outcome State Fault Refusal :=
  .next (s.onFrame fun t => t.commandHold token tag)

/-- RELEASE_JOB (R52). -/
def execReleaseJob (token : Byte) (tag : Half) (s : State) : Host.Outcome State Fault Refusal :=
  .next (s.onFrame fun t => t.commandRelease token tag)

/-- ADJUST (R128). -/
def execAdjust (token : Byte) (account : Half) (amount : BitVec 32) (s : State) : Host.Outcome State Fault Refusal :=
  .next (s.onFrame fun t => t.commandAdjust token account amount)

/-- CLOSE_PERIOD (R129). -/
def execClosePeriod (token : Byte) (account : Half) (s : State) : Host.Outcome State Fault Refusal :=
  .next (s.onFrame fun t => t.commandClosePeriod token account)

/-- CLOSE_PERIOD_ALL (R130). -/
def execClosePeriodAll (token : Byte) (s : State) : Host.Outcome State Fault Refusal :=
  .next (s.onFrame fun t => t.commandCloseAll token)

/-- SWAP_TARIFF (R108). -/
def execSwapTariff (token : Byte) (s : State) : Host.Outcome State Fault Refusal :=
  .next (s.onFrame fun t => t.commandSwap token)

/-- ACK_ALERT (R155). -/
def execAckAlert (token kind : Byte) (index : Half) (cls : Byte) (s : State) : Host.Outcome State Fault Refusal :=
  .next (s.onFrame fun t => t.commandAck token kind index cls)

/-- PRINTER_SERVICE_OUT (R55). -/
def execPrinterServiceOut (token printer : Byte) (s : State) : Host.Outcome State Fault Refusal :=
  .next (s.onFrame fun t => t.commandService token printer State.serviceOut)

/-- PRINTER_SERVICE_IN (R55). -/
def execPrinterServiceIn (token printer : Byte) (s : State) : Host.Outcome State Fault Refusal :=
  .next (s.onFrame fun t => t.commandService token printer State.serviceIn)

/-- PORT_RESTART (R81). -/
def execPortRestart (token port : Byte) (s : State) : Host.Outcome State Fault Refusal :=
  .next (s.onFrame fun t => t.commandPortRestart token port)

/-- BEACON_OVERRIDE (R160). -/
def execBeaconOverride (token beacon pattern : Byte) (seconds : Half) (s : State) : Host.Outcome State Fault Refusal :=
  .next (s.onFrame fun t => t.commandOverride token beacon pattern seconds)

/-- RESTART (R172). -/
def execRestart (token : Byte) (s : State) : Host.Outcome State Fault Refusal :=
  .next (s.onFrame fun t => t.commandRestart token)

end Sys2Proof.Machine
end

