-- ==== Sys2Proof/Machine/JobFrames.lean ====
section
/-!
DEFINITION. The commands of the job link that are no management request: discarded and stray frames, the job frames, and the
end of a frame's sending (R4, R165 to R167).
-/

namespace Sys2Proof.Machine

/-- R165: a run of bytes is discarded; while a RESTART waits it is not even counted (R172). -/
def State.discardBytes (s : State) : State := if s.jli.restart.isSome then s else s.countLinkError

/-- LINK_ERROR (R165). Bytes that make a valid frame are no link error. -/
def execLinkError (bytes : List Byte) (s : State) : Host.Outcome State Fault Refusal :=
  .next (if frameFault bytes then s.discardBytes else s)

/-- STRAY_FRAME (R166). A frame that is not stray by its kind and stream is none. -/
def execStrayFrame (frame : InFrame) (s : State) : Host.Outcome State Fault Refusal :=
  .next (if strayInFrame frame then s.stray else s)

/-- R166: a job frame goes to the SPM; on stream 0 it is a stray frame. -/
def State.onJobFrame (s : State) (stream : BitVec 4) (effect : State → Fin 15 → State) : State :=
  match streamIndex stream with
  | some i => s.onFrame fun t => effect t i
  | none => s.stray

/-- JOB_OPEN (R4, R5). -/
def execJobOpen (stream : BitVec 4) (request : OpenRequest) (s : State) : Host.Outcome State Fault Refusal :=
  .next (s.onJobFrame stream fun t i => t.onJobOpen i request)

/-- SHEET (R4, R9, R10). -/
def execSheet (stream : BitVec 4) (decl : SheetDecl) (s : State) : Host.Outcome State Fault Refusal :=
  .next (s.onJobFrame stream fun t i => t.onSheet i decl)

/-- DATA (R4, R11). A payload above 1024 bytes is no valid frame (R165). -/
def execData (stream : BitVec 4) (payload : List Byte) (s : State) : Host.Outcome State Fault Refusal :=
  .next
    (if Config.maxPayload < payload.length then s.discardBytes
     else s.onJobFrame stream fun t i => t.onData i payload)

/-- JOB_CLOSE (R4, R12). -/
def execJobClose (stream : BitVec 4) (s : State) : Host.Outcome State Fault Refusal :=
  .next (s.onJobFrame stream State.onJobClose)

/-- JOB_ABORT (R4, R13). -/
def execJobAbort (stream : BitVec 4) (s : State) : Host.Outcome State Fault Refusal :=
  .next (s.onJobFrame stream State.onJobAbort)

/-- R172: one frame fewer before the reset that a RESTART armed. -/
def oneFewer : Option Nat → Option Nat
  | some n => some (n - 1)
  | none => none

/-- R167: the oldest frame has been sent. With the RESTART's reply the part resets, and the frames behind it are not sent
(R172). -/
def State.popFrame (s : State) : State :=
  if s.jli.restart = some 0 then s
  else
    match s.jli.tx with
    | [] => s
    | _ :: rest => ((s.setTx rest).setRestart (oneFewer s.jli.restart)).restartNow

/-- FRAME_SENT (R167). -/
def execFrameSent (s : State) : Host.Outcome State Fault Refusal := .next s.popFrame

end Sys2Proof.Machine
end

