-- ==== Sys2Proof/Machine/LineEvents.lean ====
section
/-!
DEFINITION. The commands that are reports of a drop line's receiver (R67 to R69, R74, R75, R77, R82). An event whose condition
does not hold changes nothing (assumption log 7).
-/

namespace Sys2Proof.Machine

/-- The end of a character, and then the line arbiters. -/
def State.receiveAndServe (s : State) (q : Fin 8) (samples : CharSamples) : State := (s.receive q samples).serviceLines

/-- R74: a character that ends now would be a mismatching echo. -/
def Port.wouldMismatch (x : Port) (samples : CharSamples) : Bool :=
  match x.line, x.exchange with
  | .transmitting, some e =>
    match e.chars[e.echoed]? with
    | some c => !echoMatches c (charReport samples)
    | none => false
  | _, _ => false

/-- R74: a character that ends now would be the matching echo of the block's last one. -/
def Port.wouldFinishBlock (x : Port) (samples : CharSamples) : Bool :=
  match x.line, x.exchange with
  | .transmitting, some e =>
    match e.chars[e.echoed]? with
    | some c => echoMatches c (charReport samples) && (e.echoed + 1 == e.chars.length)
    | none => false
  | _, _ => false

/-- R75: a character that ends now would be the reply's last. -/
def Port.wouldFinishReply (x : Port) (samples : CharSamples) : Bool :=
  match x.line, charReport samples with
  | .receiving, .character d mark => !mark && !replyTooLong (x.reply ++ [d]) && replyComplete (x.reply ++ [d])
  | _, _ => false

/-- ECHO_MISMATCH (R74, R77). -/
def execEchoMismatch (port : Fin 8) (samples : CharSamples) (s : State) : Host.Outcome State Fault Refusal :=
  .next (if (s.port port).wouldMismatch samples then s.receiveAndServe port samples else s)

/-- ECHO_TIMEOUT (R74): taken as a mismatch. -/
def execEchoTimeout (port : Fin 8) (s : State) : Host.Outcome State Fault Refusal :=
  .next (if (s.port port).line = .transmitting then (s.contend port).serviceLines else s)

/-- BLOCK_TRANSMITTED (R74, R76). -/
def execBlockTransmitted (port : Fin 8) (samples : CharSamples) (s : State) : Host.Outcome State Fault Refusal :=
  .next (if (s.port port).wouldFinishBlock samples then s.receiveAndServe port samples else s)

/-- REPLY_RECEIVED (R75). -/
def execReplyReceived (port : Fin 8) (samples : CharSamples) (s : State) : Host.Outcome State Fault Refusal :=
  .next (if (s.port port).wouldFinishReply samples then s.receiveAndServe port samples else s)

/-- FRAMING_FAULT (R68). -/
def execFramingFault (port : Fin 8) (samples : CharSamples) (s : State) : Host.Outcome State Fault Refusal :=
  .next (if charReport samples = .framing then s.receiveAndServe port samples else s)

/-- BREAK_RECEIVED (R68, R82). -/
def execBreakReceived (port : Fin 8) (samples : CharSamples) (s : State) : Host.Outcome State Fault Refusal :=
  .next (if charReport samples = .brk then s.receiveAndServe port samples else s)

/-- The stop bit reads 1: the character is complete (R67). -/
def isCharacter : CharReport → Bool
  | .character _ _ => true
  | _ => false

/-- CHARACTER_RECEIVED (R67). -/
def execCharacterReceived (port : Fin 8) (samples : CharSamples) (s : State) : Host.Outcome State Fault Refusal :=
  .next (if isCharacter (charReport samples) then s.receiveAndServe port samples else s)

/-- START_CONFIRMED (R67, R75). -/
def execStartConfirmed (port : Fin 8) (samples : StartSamples) (s : State) : Host.Outcome State Fault Refusal :=
  .next (s.startConfirmed port samples)

/-- LINE_IDLE (R69). -/
def execLineIdle (port : Fin 8) (s : State) : Host.Outcome State Fault Refusal := .next (s.lineIdle port).serviceLines

end Sys2Proof.Machine
end

