-- ==== Sys2Proof/Machine/SenseEvents.lean ====
section
/-!
DEFINITION. The commands of the sense inputs (R161, R162).
-/

namespace Sys2Proof.Machine

/-- SENSE_SAMPLE (R161): the levels on the inputs. A filter that has yet to sample at this tick samples them, and a change it
takes acts at once; one that has sampled meets them at the next tick (assumption log 28). -/
def execSenseSample (levels : BitVec 32) (s : State) : Host.Outcome State Fault Refusal :=
  .next (s.takeSamples levels).serviceLines

/-- A sample of this tick would be the third differing one of a slot whose filtered level is `high` (R161). -/
def State.changeDue (s : State) (p : Fin 32) (high : Bool) : Bool :=
  s.sampleDue p && ((s.sense p).high == high) && ((s.sense p).run == lastRun)

/-- FALLING_CHANGE (R161, R162): the third low sample in a row of one slot, at a filter that stands HIGH. -/
def execFallingChange (slot : Fin 32) (s : State) : Host.Outcome State Fault Refusal :=
  .next
    (if s.changeDue slot true then
       ((s.setSenseLines (setLevel s.senseLines slot false)).takeFall slot).serviceLines
     else s)

/-- RISING_CHANGE (R161, R162): the third high sample in a row of one slot, at a filter that stands LOW. -/
def execRisingChange (slot : Fin 32) (s : State) : Host.Outcome State Fault Refusal :=
  .next
    (if s.changeDue slot false then
       ((s.setSenseLines (setLevel s.senseLines slot true)).takeRise slot).serviceLines
     else s)

end Sys2Proof.Machine
end

