-- ==== Sys2Proof/Machine/TableRequests.lean ====
section
/-!
DEFINITION. The commands that are table requests (R168 to R171).
-/

namespace Sys2Proof.Machine

/-- TABLE_READ (R170). -/
def execTableRead (token table : Byte) (first : Half) (count : Byte) (s : State) : Host.Outcome State Fault Refusal :=
  .next (s.onFrame fun t => t.readTable token table first count)

/-- TABLE_WRITE (R169): a write as carried; one that passes the tests is carried to its owner. -/
def execTableWrite (token table : Byte) (first : Half) (count : Byte) (entries : List Byte) (s : State) :
    Host.Outcome State Fault Refusal :=
  .next (s.onFrame fun t => t.writeRaw token table first count entries)

/-- ROUTE_WRITE (R28, R29). -/
def execRouteWrite (token : Byte) (first : Half) (entries : List RouteEntry) (s : State) :
    Host.Outcome State Fault Refusal :=
  .next (s.onFrame fun t => t.writeEntries State.writeRoute 256 32 token first entries)

/-- POOL_WRITE (R44). -/
def execPoolWrite (token : Byte) (first : Half) (entries : List PoolEntry) (s : State) : Host.Outcome State Fault Refusal :=
  .next (s.onFrame fun t => t.writeEntries State.writePool 16 32 token first entries)

/-- PORT_WRITE (R71). -/
def execPortWrite (token : Byte) (first : Half) (entries : List PortEntry) (s : State) : Host.Outcome State Fault Refusal :=
  .next (s.onFrame fun t => t.writeEntries State.writePort 8 32 token first entries)

/-- PRINTER_WRITE (R88, R89). -/
def execPrinterWrite (token : Byte) (first : Half) (entries : List PrinterEntry) (s : State) :
    Host.Outcome State Fault Refusal :=
  .next (s.onFrame fun t => t.writeEntries State.writePrinter 32 32 token first entries)

/-- TARIFF_WRITE (R110). -/
def execTariffWrite (token : Byte) (bank : Fin 2) (first : Half) (entries : List TariffClass) (s : State) :
    Host.Outcome State Fault Refusal :=
  .next (s.onFrame fun t => t.writeBank token bank first entries)

/-- ACCOUNT_WRITE (R119, R120). -/
def execAccountWrite (token : Byte) (first : Half) (entries : List AccountEntry) (s : State) :
    Host.Outcome State Fault Refusal :=
  .next (s.onFrame fun t => t.writeEntries State.writeAccount 512 mostAccounts token first entries)

/-- ALERT_SETUP_WRITE (R164). -/
def execAlertSetupWrite (token : Byte) (first : Half) (entries : List Half) (s : State) :
    Host.Outcome State Fault Refusal :=
  .next (s.onFrame fun t => t.writeEntries State.writeSetup 74 32 token first entries)

/-- DEVICE_CONFIG_WRITE (R174). -/
def execDeviceConfigWrite (token : Byte) (first : Half) (entries : List DeviceConfigEntry) (s : State) :
    Host.Outcome State Fault Refusal :=
  .next (s.onFrame fun t => t.writeEntries State.writeDeviceConfig 1 32 token first entries)

/-- MALFORMED (R168). A request of the right form is none. -/
def execMalformed (kind : RequestKind) (payload : List Byte) (s : State) : Host.Outcome State Fault Refusal :=
  .next (if formFault kind payload then s.onFrame fun t => t.refuseForm kind payload else s)

end Sys2Proof.Machine
end

