-- ==== Sys2Proof/Machine/Timers.lean ====
section
/-!
DEFINITION. The commands that are expiries of the part's timers, and what falls due at a tick. A timer that is not running, or
whose expiry is not reached, does not expire (assumption log 7).
-/

namespace Sys2Proof.Machine

/-- R176: the silence timer expires: UNATTENDED. -/
def State.enterUnattended (s : State) : State :=
  (s.setMgu { s.mgu with attended := false, timer := none }).raise (deviceKey .unattended)

/-- SILENCE_TIMER_EXPIRY (R176). -/
def execSilenceTimerExpiry (s : State) : Host.Outcome State Fault Refusal :=
  .next (if expired s.now s.mgu.timer then s.enterUnattended.serviceLines else s)

/-- POLL_DUE (R91): the poll is offered to the line arbiter. -/
def execPollDue (printer : Fin 32) (s : State) : Host.Outcome State Fault Refusal :=
  .next (if s.pollOffered printer then s.serviceLines else s)

/-- RESPONSE_WINDOW_EXPIRY (R75). -/
def execResponseWindowExpiry (port : Fin 8) (s : State) : Host.Outcome State Fault Refusal :=
  .next
    (if (s.port port).line = .awaiting ∧ expired s.now (s.port port).windowExpiry = true then
       (s.finishExchange port .noReply).serviceLines
     else s)

/-- RECOVERY_LIMIT_EXPIRY (R77). -/
def execRecoveryLimitExpiry (port : Fin 8) (s : State) : Host.Outcome State Fault Refusal :=
  .next
    (if (s.port port).line = .recovering ∧ expired s.now (s.port port).recoverExpiry = true then
       (s.faultPort port).serviceLines
     else s)

/-- FAULT_REST_EXPIRY (R79). -/
def execFaultRestExpiry (port : Fin 8) (s : State) : Host.Outcome State Fault Refusal :=
  .next
    (if (s.port port).line = .faulted ∧ expired s.now (s.port port).restExpiry = true then
       (s.modPort port fun x => x.startLineReset s.now).serviceLines
     else s)

/-- STALL_TIMER_EXPIRY (R138). -/
def execStallTimerExpiry (printer : Fin 32) (s : State) : Host.Outcome State Fault Refusal :=
  .next (if expired s.now (s.disp printer).stall then (s.stallExpired printer).serviceLines else s)

/-- A beacon's override has reached its expiry (R160). -/
def State.overrideExpired (s : State) (b : Fin 8) : Bool := expired s.now ((s.arl.overrides.get b).map Override.expiry)

/-- BEACON_OVERRIDE_EXPIRY (R160). -/
def execBeaconOverrideExpiry (beacon : Fin 8) (s : State) : Host.Outcome State Fault Refusal :=
  .next (if s.overrideExpired beacon then s.setOverride beacon none else s)

/-! ### The tick (section 0.7.4, assumption logs 1 and 2) -/

/-- The event, if its condition holds. -/
def dueIf (b : Bool) (i : Instr) : List Instr := if b then [i] else []

/-- The events that fall due on a port. -/
def State.dueOnPort (s : State) (q : Fin 8) : List Instr :=
  let x := s.port q
  dueIf (x.line == .awaiting && expired s.now x.windowExpiry) (.responseWindowExpiry q)
    ++ dueIf (x.line == .recovering && expired s.now x.recoverExpiry) (.recoveryLimitExpiry q)
    ++ dueIf (x.line == .faulted && expired s.now x.restExpiry) (.faultRestExpiry q)

/-- R91: the poll of a configured printer on an enabled port (by its stored record, assumption log 42) falls due at this
timestamp. -/
def State.pollFallsDue (s : State) (p : Fin 32) : Bool :=
  (s.printer p).config.configured && (s.port (portOf p)).config.enabled && (s.now == (s.printer p).pollDue)

/-- The events that fall due for a printer. -/
def State.dueForPrinter (s : State) (p : Fin 32) : List Instr :=
  dueIf (s.pollFallsDue p) (.pollDue p) ++ dueIf (expired s.now (s.disp p).stall) (.stallTimerExpiry p)

/-- The change that a slot's sample of this tick takes, if it is its third differing one (R161). -/
def State.dueOnInput (s : State) (p : Fin 32) : List Instr :=
  let level := s.senseLines.getLsbD p.val
  dueIf (s.changeDue p true && !level) (.fallingChange p) ++ dueIf (s.changeDue p false && level) (.risingChange p)

/-- The events that fall due at a tick. The sample of the sense inputs is one, of the levels that stand on them then. -/
def State.dueEvents (s : State) : List Instr :=
  .senseSample s.senseLines :: dueIf (expired s.now s.mgu.timer) .silenceTimerExpiry
    ++ ((List.finRange 32).map s.dueOnInput).flatten
    ++ ((List.finRange 8).map s.dueOnPort).flatten ++ ((List.finRange 32).map s.dueForPrinter).flatten
    ++ ((List.finRange 8).map fun b => dueIf (s.overrideExpired b) (.beaconOverrideExpiry b)).flatten

/-- Put an event behind the first n of a list. -/
def insertAt {α : Type} (x : α) : List α → Nat → List α
  | [], _ => [x]
  | y :: l, 0 => x :: y :: l
  | y :: l, n + 1 => y :: insertAt x l n

/-- The events in the order that a list of places gives: each is put at its place among those behind it, the front where the
list names no place. Every order is some list's. -/
def shuffle {α : Type} : List α → List Nat → List α
  | [], _ => []
  | x :: l, [] => x :: shuffle l []
  | x :: l, n :: rest => insertAt x (shuffle l rest) n

/-- The 1 ms tick: the timestamp rises by 1, and the events that have fallen due wait in the queue, in an order that is a
free value. -/
def State.tick (s : State) : State :=
  let s1 := s.setNow (s.now + 1#32)
  s1.countChoice.setPending (shuffle s1.dueEvents (Config.tickOrder s.choices))

/-- What a step does when no command waits: a tick; or, where a RESTART's wait is at its end, the reset, and no time passes
first (R172, assumption log 13). -/
def State.idle (s : State) : State := if s.jli.restart = some 0 then s.setPending [.restartReset] else s.tick

end Sys2Proof.Machine
end

