-- ==== Sys2Proof/Machine/Dispatch.lean ====
section
/-!
DEFINITION. Which meaning each command has.
-/

namespace Sys2Proof.Machine

def exec (i : Instr) (s : State) : Host.Outcome State Fault Refusal :=
  match i with
  | .powerOn => Sys2Proof.Machine.execPowerOn s
  | .resetLine => Sys2Proof.Machine.execResetLine s
  | .restartReset => Sys2Proof.Machine.execRestartReset s
  | .linkError bytes => Sys2Proof.Machine.execLinkError bytes s
  | .strayFrame frame => Sys2Proof.Machine.execStrayFrame frame s
  | .jobOpen stream request => Sys2Proof.Machine.execJobOpen stream request s
  | .sheet stream decl => Sys2Proof.Machine.execSheet stream decl s
  | .data stream payload => Sys2Proof.Machine.execData stream payload s
  | .jobClose stream => Sys2Proof.Machine.execJobClose stream s
  | .jobAbort stream => Sys2Proof.Machine.execJobAbort stream s
  | .tableRead token table first count => Sys2Proof.Machine.execTableRead token table first count s
  | .tableWrite token table first count entries => Sys2Proof.Machine.execTableWrite token table first count entries s
  | .routeWrite token first entries => Sys2Proof.Machine.execRouteWrite token first entries s
  | .poolWrite token first entries => Sys2Proof.Machine.execPoolWrite token first entries s
  | .portWrite token first entries => Sys2Proof.Machine.execPortWrite token first entries s
  | .printerWrite token first entries => Sys2Proof.Machine.execPrinterWrite token first entries s
  | .tariffWrite token bank first entries => Sys2Proof.Machine.execTariffWrite token bank first entries s
  | .accountWrite token first entries => Sys2Proof.Machine.execAccountWrite token first entries s
  | .alertSetupWrite token first entries => Sys2Proof.Machine.execAlertSetupWrite token first entries s
  | .deviceConfigWrite token first entries => Sys2Proof.Machine.execDeviceConfigWrite token first entries s
  | .malformed kind payload => Sys2Proof.Machine.execMalformed kind payload s
  | .cancelJob token tag => Sys2Proof.Machine.execCancelJob token tag s
  | .holdJob token tag => Sys2Proof.Machine.execHoldJob token tag s
  | .releaseJob token tag => Sys2Proof.Machine.execReleaseJob token tag s
  | .adjust token account amount => Sys2Proof.Machine.execAdjust token account amount s
  | .closePeriod token account => Sys2Proof.Machine.execClosePeriod token account s
  | .closePeriodAll token => Sys2Proof.Machine.execClosePeriodAll token s
  | .swapTariff token => Sys2Proof.Machine.execSwapTariff token s
  | .ackAlert token kind index cls => Sys2Proof.Machine.execAckAlert token kind index cls s
  | .printerServiceOut token printer => Sys2Proof.Machine.execPrinterServiceOut token printer s
  | .printerServiceIn token printer => Sys2Proof.Machine.execPrinterServiceIn token printer s
  | .portRestart token port => Sys2Proof.Machine.execPortRestart token port s
  | .beaconOverride token beacon pattern seconds => Sys2Proof.Machine.execBeaconOverride token beacon pattern seconds s
  | .restart token => Sys2Proof.Machine.execRestart token s
  | .frameSent => Sys2Proof.Machine.execFrameSent s
  | .silenceTimerExpiry => Sys2Proof.Machine.execSilenceTimerExpiry s
  | .pollDue printer => Sys2Proof.Machine.execPollDue printer s
  | .echoMismatch port samples => Sys2Proof.Machine.execEchoMismatch port samples s
  | .echoTimeout port => Sys2Proof.Machine.execEchoTimeout port s
  | .blockTransmitted port samples => Sys2Proof.Machine.execBlockTransmitted port samples s
  | .responseWindowExpiry port => Sys2Proof.Machine.execResponseWindowExpiry port s
  | .replyReceived port samples => Sys2Proof.Machine.execReplyReceived port samples s
  | .framingFault port samples => Sys2Proof.Machine.execFramingFault port samples s
  | .breakReceived port samples => Sys2Proof.Machine.execBreakReceived port samples s
  | .lineIdle port => Sys2Proof.Machine.execLineIdle port s
  | .recoveryLimitExpiry port => Sys2Proof.Machine.execRecoveryLimitExpiry port s
  | .faultRestExpiry port => Sys2Proof.Machine.execFaultRestExpiry port s
  | .stallTimerExpiry printer => Sys2Proof.Machine.execStallTimerExpiry printer s
  | .fallingChange slot => Sys2Proof.Machine.execFallingChange slot s
  | .risingChange slot => Sys2Proof.Machine.execRisingChange slot s
  | .beaconOverrideExpiry beacon => Sys2Proof.Machine.execBeaconOverrideExpiry beacon s
  | .startConfirmed port samples => Sys2Proof.Machine.execStartConfirmed port samples s
  | .characterReceived port samples => Sys2Proof.Machine.execCharacterReceived port samples s
  | .senseSample levels => Sys2Proof.Machine.execSenseSample levels s

end Sys2Proof.Machine
end

