-- ==== Sys2Proof/Machine/Step.lean ====
section
/-!
DEFINITION. One step of the part, and the putting of a command at the front of its queue.
-/

namespace Sys2Proof.Machine

/-- One step: the command at the front of the queue is taken, with the queue's rest; with none waiting, the part idles, which
is a tick of the Timebase (assumption log 1). -/
def step (s : State) : Host.Outcome State Fault Refusal :=
  match s.pending with
  | c :: rest => exec c (s.setPending rest)
  | [] => .next s.idle

/-- The state with the command that a word spells put at the front of the queue; no word spells one (assumption log 37). -/
def State.withFetchWord (s : State) (nbits w : Nat) : State :=
  match decodeTableWord nbits w with
  | some c => s.setPending (c :: s.pending)
  | none => s

end Sys2Proof.Machine
end

