-- ==== Sys2Proof/Machine/Link.lean ====
section
/-!
DEFINITION. The framer of the job link: which command a received run of bytes is (R165, R166, R168, R169, R177, R178).
-/

namespace Sys2Proof.Machine

/-- R169, R171: a TABLE-WRITE of the right form: the typed write of its table where it passes the tests, the raw one where
it fails them. -/
def writeCommand (token table : Byte) (first : Half) (count : Byte) (b : List Byte) : Instr :=
  let n := count.toNat
  if (rawWriteRefusal table first count b).isSome then .tableWrite token table first count b
  else
    match table.toNat with
    | 1 => .routeWrite token first (readEntries readRouteEntry 7 n b)
    | 2 => .poolWrite token first (readEntries readPoolEntry 4 n b)
    | 3 => .portWrite token first (readEntries readPortEntry 5 n b)
    | 4 => .printerWrite token first (readEntries readPrinterEntry 4 n b)
    | 5 => .tariffWrite token 0 first (readEntries readTariffClass 26 n b)
    | 6 => .tariffWrite token 1 first (readEntries readTariffClass 26 n b)
    | 7 => .accountWrite token first (readEntries readAccountEntry 34 n b)
    | 8 => .alertSetupWrite token first (readEntries (fun x => halfAt x 0) 2 n b)
    | 9 => .deviceConfigWrite token first (readEntries readDeviceConfigEntry 3 n b)
    | _ => .tableWrite token table first count b

/-- R172, R178: a COMMAND of the right form, by its code, from its whole payload. -/
def commandCommand (p : List Byte) : Instr :=
  let token := byteAt p 0
  match (byteAt p 1).toNat with
  | 1 => .cancelJob token (halfAt p 2)
  | 2 => .holdJob token (halfAt p 2)
  | 3 => .releaseJob token (halfAt p 2)
  | 4 => .adjust token (halfAt p 2) (wordAt p 4)
  | 5 => if (byteAt p 2).getLsbD 0 then .closePeriodAll token else .closePeriod token (halfAt p 3)
  | 6 => .swapTariff token
  | 7 => .ackAlert token (byteAt p 2) (halfAt p 3) (byteAt p 5)
  | 8 => if (byteAt p 3).getLsbD 0 then .printerServiceOut token (byteAt p 2) else .printerServiceIn token (byteAt p 2)
  | 9 => .portRestart token (byteAt p 2)
  | 10 => .beaconOverride token (byteAt p 2) (byteAt p 3) (halfAt p 4)
  | 11 => .restart token
  | _ => .malformed .command p

/-- R168: a management request. -/
def requestCommand (kind : RequestKind) (p : List Byte) : Instr :=
  if formFault kind p then .malformed kind p
  else
    match kind with
    | .tableWrite => writeCommand (byteAt p 0) (byteAt p 1) (halfAt p 2) (byteAt p 4) (p.drop 5)
    | .tableRead => .tableRead (byteAt p 0) (byteAt p 1) (halfAt p 2) (byteAt p 4)
    | .command => commandCommand p

/-- R166: a valid frame. -/
def frameCommand (f : InFrame) : Instr :=
  if strayInFrame f then .strayFrame f
  else
    match f.kind.toNat with
    | 0x01 => .jobOpen f.stream (readOpenRequest f.payload)
    | 0x02 => .sheet f.stream (readSheetDecl f.payload)
    | 0x03 => .data f.stream f.payload
    | 0x04 => .jobClose f.stream
    | 0x05 => .jobAbort f.stream
    | _ =>
      match requestKind f.kind with
      | some k => requestCommand k f.payload
      | none => .strayFrame f

/-- The command that a run of bytes between two frame boundaries is (R165, R166). -/
def receivedCommand (bytes : List Byte) : Instr :=
  if frameFault bytes then .linkError bytes else frameCommand (readFrame bytes)

end Sys2Proof.Machine
end

