-- ==== Sys2Proof/Safety.lean ====
section
/-!
DEFINITION. What the statements are about: what holds of the state after every command, and what a command may change.
-/

namespace Sys2Proof.Machine

/-! ### What holds of the state after every command -/

/-- R152, R153, R155: the alert queue. It holds at most 64 entries of different keys; an entry that is acked and not active has
been removed; a repeat count is from 1 to 255; the alerts-dropped count has 16 bits. -/
structure AlertsOk (a : Arl) : Prop where
  fits : a.queue.length ≤ Config.alertEntries
  keys : (a.queue.map AlertEntry.key).Nodup
  settled : ∀ e ∈ a.queue, e.acked = true → e.active = true
  counted : ∀ e ∈ a.queue, 1 ≤ e.count ∧ e.count ≤ 255
  dropped : a.dropped ≤ Config.max16

/-- R165 to R167: the transmit list holds at most 256 frames, and the two counts have 16 bits. -/
structure LinkOk (l : Jli) : Prop where
  fits : l.tx.length ≤ Config.txLimit
  linkErrors : l.linkErrors ≤ Config.max16
  strayFrames : l.strayFrames ≤ Config.max16

/-- R29: every valid route names an enabled pool and, when its account source is FIXED, a valid account. -/
def RoutesOk (s : State) : Prop :=
  ∀ r, (s.route r).valid = true →
    (s.pool (s.route r).pool).enabled = true ∧
      ((s.route r).fromJob = false → (s.account (s.route r).fixedAccount).valid = true)

/-- R88: a configured printer that is a member of a pool is one of an enabled pool. -/
def MembersOk (s : State) : Prop :=
  ∀ p k, (s.printer p).config.configured = true → (s.printer p).config.pool = some k → (s.pool k).enabled = true

/-- The ranges of an account's fields (R117, R123). -/
structure AccountOk (a : Account) : Prop where
  low : Config.minBalance ≤ a.balance
  high : a.balance ≤ Config.maxBalance
  overdraft : a.overdraft ≤ 2147483647
  threshold : ∀ t, a.threshold = some t → t ≤ 16777215
  sheets : a.periodSheets ≤ Config.max32
  mono : a.periodMono ≤ Config.max32
  colour : a.periodColour ≤ Config.max32
  charged : a.periodCharge ≤ Config.max32

/-- The range of a meter (R132). -/
def MeterOk (m : Meter) : Prop := m.value < Config.meterModulus ∧ m.rolls ≤ 255

/-- The ranges of a slot's meters (R132). -/
def MetersOk (m : Meters) : Prop := MeterOk m.sheets ∧ MeterOk m.mono ∧ MeterOk m.colour

/-- The ranges of a PORT record (R70). -/
def PortConfigOk (c : PortConfig) : Prop :=
  c.rate ≤ 5 ∧ 1 ≤ c.window ∧ c.window ≤ 20 ∧ 20 ≤ c.poll ∧ c.poll ≤ 1000

/-- The ranges of a port's counts, and a control queue that holds at most one block for each drop (R72, R83). -/
structure PortOk (x : Port) : Prop where
  noise : x.noise ≤ Config.max16
  framing : x.framing ≤ Config.max16
  contention : x.contention ≤ Config.max16
  protocolErrors : x.protocolErrors ≤ Config.max16
  control : (x.control.map ControlBlock.drop).Nodup

/-- The ranges of a printer record's working part (R90, R92, R94 to R96, R100). -/
structure PrinterOk (x : Printer) : Prop where
  missed : x.missed ≤ 3
  unmatched : x.unmatched ≤ Config.max16
  naks : x.naks ≤ 3
  room : x.room ≤ 255

/-- The ranges of a job record's fields that one field shows alone (R1); its positions are in `DispatchOk`. -/
structure JobOk (x : Job) : Prop where
  copies : 1 ≤ x.copies ∧ x.copies ≤ 99
  chargeTotal : x.chargeTotal ≤ Config.max32
  sheetsLost : x.sheetsLost ≤ Config.max16
  startThreshold : x.startThreshold ≤ 255

/-- The clamped fields of a tariff class (R106). -/
def TariffOk (c : TariffClass) : Prop := c.rebate.toNat ≤ 100 ∧ c.tier.toNat ≤ 100

/-- Each field of the tables and records that is listed here is in the range the spec gives it (R1, R26, R42, R70, R72, R83,
R88, R90, R106, R117, R132, R161, R174). The job positions, the windows and the reserved amounts, whose ranges rest on one
another, are in `DispatchOk`. -/
structure RangesOk (s : State) : Prop where
  routes : ∀ r, (s.route r).startThreshold ≤ 255
  timeout : s.mgu.timeout ≤ 255
  accounts : ∀ a, AccountOk (s.account a)
  meters : ∀ p, MetersOk (s.acm.meters.get p)
  pools : ∀ k, (s.pool k).reroute ≤ 3600
  portConfigs : ∀ q, PortConfigOk (s.port q).config
  ports : ∀ q, PortOk (s.port q)
  limits : ∀ p, 1 ≤ (s.printer p).config.limit ∧ (s.printer p).config.limit ≤ 8
  printers : ∀ p, PrinterOk (s.printer p)
  jobs : ∀ j x, s.job j = some x → JobOk x
  tariffs : ∀ b k, TariffOk ((s.chg.banks.get b).get k)
  sense : ∀ p, (s.sense p).run ≤ 2

/-- R45: of two waiting jobs, the first is not behind the second: a lower priority number, or the same one and an earlier
arrival. -/
def BeforeInQueue (x y : Job) : Prop := x.priority < y.priority ∨ (x.priority = y.priority ∧ x.arrival ≤ y.arrival)

/-- R45, R46: a pool's queue holds its QUEUED jobs, each once, by priority and then by arrival. -/
structure PoolQueueOk (s : State) (k : Fin 16) : Prop where
  once : (s.pool k).queue.Nodup
  members : ∀ j, j ∈ (s.pool k).queue ↔ ∃ x, s.job j = some x ∧ x.phase = .queued ∧ x.pool = k
  order : (s.pool k).queue.Pairwise fun i j => ∀ x y, s.job i = some x → s.job j = some y → BeforeInQueue x y

/-- R49, R61: a printer's dispatch record. A printer with an assigned job is a configured member of the job's pool and the job
names it; one without has an empty window. The window stays within the printer's limit, and its entries are the job's. -/
structure DispatchRecordOk (s : State) (p : Fin 32) : Prop where
  assigned : ∀ j, (s.disp p).assigned = some j → ∃ x, s.job j = some x ∧ x.printer = some p ∧
    (s.printer p).config.configured = true ∧ (s.printer p).config.pool = some x.pool
  free : (s.disp p).assigned = none →
    (s.disp p).window = [] ∧ (s.disp p).leaving = false ∧ (s.disp p).stall = none
  limit : (s.disp p).window.length ≤ (s.printer p).config.limit ∧ (s.printer p).config.limit ≤ 8
  entries : ∀ e ∈ (s.disp p).window, (s.disp p).assigned = some e.job ∧ e.estimate ≤ 196605

/-- R1, R3, R56, R61: a live job. Exactly a PRINTING or CANCELLING job is on a printer, and there the window holds the
positions between the confirm and the release position, oldest first; anywhere else nothing is between the two. The release
position is within the job, and within its complete sheets while its stream is open. -/
structure JobPlaced (s : State) (j : Fin 128) (x : Job) : Prop where
  onPrinter : x.printer ≠ none ↔ x.phase = .printing ∨ x.phase = .cancelling
  offPrinter : x.printer = none → x.releasePos = x.confirmPos
  window : ∀ p, x.printer = some p → (s.disp p).assigned = some j ∧
    x.releasePos = x.confirmPos + (s.disp p).window.length ∧
    (s.disp p).window.map (fun e => ordinal x.sheets e.copy e.sheet) =
      List.range' (x.confirmPos + 1) (s.disp p).window.length ∧
    ∀ e ∈ (s.disp p).window, 1 ≤ e.copy ∧ e.copy ≤ x.copies ∧ 1 ≤ e.sheet ∧ e.sheet ≤ x.sheets ∧
      (x.isOpen = true → e.copy = 1)
  copies : 1 ≤ x.copies
  positions : x.releasePos ≤ x.copies * x.sheets ∧ (x.isOpen = true → x.releasePos ≤ x.sheets)
  stream : x.isOpen = x.stream.isSome ∧ ∀ i, x.stream = some i → s.stream i = .opened j
  cancelled : x.phase = .cancelling → x.isOpen = false

/-- The estimates of the window entries whose job is charged to an account (R58, R123). -/
def reservedFor (s : State) (a : Fin 512) : Nat :=
  ((List.finRange 32).map fun p => ((s.disp p).window.map fun e =>
    match s.job e.job with
    | some x => if x.account = a then e.estimate else 0
    | none => 0).sum).sum

/-- What ties the pools, the dispatch records, the jobs, the streams and the accounts together (R1, R3, R45, R46, R49, R56, R58,
R61, R123); and a RESTART's wait is for frames that are in the transmit list (R172). -/
structure DispatchOk (s : State) : Prop where
  queues : ∀ k, PoolQueueOk s k
  records : ∀ p, DispatchRecordOk s p
  jobs : ∀ j x, s.job j = some x → JobPlaced s j x
  streams : ∀ i j, s.stream i = .opened j → ∃ x, s.job j = some x ∧ x.stream = some i
  reserved : ∀ a, (s.account a).reserved = reservedFor s a
  restart : ∀ n, s.jli.restart = some n → 1 ≤ n ∧ n ≤ s.jli.tx.length

/-- The blocks of the descriptors in use, descriptor by descriptor. -/
def blocksInUse (l : List (Nat × SheetDesc)) : List (Fin 32768) := l.flatMap fun x => x.2.blocks

/-- The sheets of the live jobs, slot by slot. -/
def sheetsOf (jobs : Vector (Option Job) 128) : List Nat :=
  jobs.toList.flatMap fun o =>
    match o with
    | some x => x.sheetList
    | none => []

/-- R6, R7: every spool block is once on the free list or once in the block list of one descriptor in use; every descriptor in
use is in the sheet list of exactly one live job, once; and every number is in its range. -/
structure SpoolOk (s : State) : Prop where
  blocks : (s.spm.freeList ++ blocksInUse s.spm.descs).Perm (List.finRange 32768)
  sorted : (s.spm.descs.map Prod.fst).Pairwise (· < ·)
  range : ∀ x ∈ s.spm.descs, x.1 < Config.sheetDescriptors
  owned : (sheetsOf s.spm.jobs).Perm (s.spm.descs.map Prod.fst)

/-- The number of live jobs bound to an account. -/
def jobsOfAccount (jobs : Vector (Option Job) 128) (a : Fin 512) : Nat :=
  jobs.toList.countP fun o =>
    match o with
    | some x => x.account == a
    | none => false

/-- The number of live jobs bound to a tariff bank. -/
def jobsOfBank (jobs : Vector (Option Job) 128) (b : Fin 2) : Nat :=
  jobs.toList.countP fun o =>
    match o with
    | some x => x.bank == b
    | none => false

/-- R39, R109, R121: an account's and a bank's bound count is the number of live jobs bound to it; and, with R29, every live
job's account is valid, and its pool is enabled (R44). -/
structure BoundOk (s : State) : Prop where
  accounts : ∀ a, (s.account a).bound = jobsOfAccount s.spm.jobs a
  banks : ∀ b, s.chg.bound.get b = jobsOfBank s.spm.jobs b
  valid : ∀ j x, s.job j = some x → (s.account x.account).valid = true
  pools : ∀ j x, s.job j = some x → (s.pool x.pool).enabled = true

/-! ### What a command may change -/

/-- The fields of a job record that nothing changes from its admission to its end, its sheet list among them (R1, R38, R39):
those of a new record are those of the old one. -/
def JobKept (old x : Job) : Prop :=
  x = { old with
    phase := x.phase
    stream := x.stream
    isOpen := x.isOpen
    sheets := x.sheets
    releasePos := x.releasePos
    confirmPos := x.confirmPos
    holds := x.holds
    drain := x.drain
    stalled := x.stalled
    printer := x.printer
    lastPrinter := x.lastPrinter
    chargeTotal := x.chargeTotal
    sheetsLost := x.sheetsLost
    ending := x.ending }

/-- What dispatch may change of a job (R45 to R65): its phase, release position, sheets lost, holds, drain reason, stalled flag
and printers. -/
def JobDispatched (old x : Job) : Prop :=
  x = { old with
    phase := x.phase
    releasePos := x.releasePos
    holds := x.holds
    drain := x.drain
    stalled := x.stalled
    printer := x.printer
    lastPrinter := x.lastPrinter
    sheetsLost := x.sheetsLost }

/-- What dispatch may change (R45 to R65): the working part of the job records, of the pools, of the dispatch records and of the
printer records, the accounts' reserved amounts, and, with a BUDGET_HOLD, the alert queue and the transmit list. It starts
and ends no job. -/
structure DispatchOnly (s t : State) : Prop where
  rest : t = { s with
    spm := { s.spm with jobs := t.spm.jobs }
    dsc := t.dsc
    pra := t.pra
    acm := { s.acm with accounts := t.acm.accounts }
    arl := { s.arl with queue := t.arl.queue, dropped := t.arl.dropped }
    jli := { s.jli with tx := t.jli.tx } }
  free : ∀ j, s.job j = none → t.job j = none
  live : ∀ j x, s.job j = some x → ∃ y, t.job j = some y ∧ JobDispatched x y
  pools : ∀ k, t.pool k = { s.pool k with pointer := (t.pool k).pointer, queue := (t.pool k).queue }
  printers : ∀ p, (t.printer p).config = (s.printer p).config
  accounts : ∀ a, t.account a = { s.account a with reserved := (t.account a).reserved }

/-- What printing may change, besides (R20 to R23, R62, R63, R83, R92 to R104): jobs end, deliveries are charged, and the spool's
descriptors, free list and paused flag, the ports, the bound counts and the meters follow. -/
structure PrintingOnly (s t : State) : Prop where
  rest : t = { s with
    spm := { s.spm with
      jobs := t.spm.jobs
      descs := t.spm.descs
      freeList := t.spm.freeList
      paused := t.spm.paused }
    dsc := t.dsc
    dlc := t.dlc
    pra := t.pra
    chg := { s.chg with bound := t.chg.bound }
    acm := t.acm
    arl := { s.arl with queue := t.arl.queue, dropped := t.arl.dropped }
    jli := { s.jli with tx := t.jli.tx, linkErrors := t.jli.linkErrors } }
  jobs : ∀ j y, t.job j = some y → ∃ x, s.job j = some x ∧ JobKept x y
  pools : ∀ k, t.pool k = { s.pool k with pointer := (t.pool k).pointer, queue := (t.pool k).queue }
  printers : ∀ p, (t.printer p).config = (s.printer p).config
  ports : ∀ q, t.port q =
    { s.port q with control := (t.port q).control, protocolErrors := (t.port q).protocolErrors }
  accounts : ∀ a, t.account a = { s.account a with
    balance := (t.account a).balance
    reserved := (t.account a).reserved
    periodSheets := (t.account a).periodSheets
    periodMono := (t.account a).periodMono
    periodColour := (t.account a).periodColour
    periodCharge := (t.account a).periodCharge
    bound := (t.account a).bound }

/-- What an event of a line, a printer, a timer or a sense input may change: what printing may change, the working part of the
ports and of the sense inputs, and the count of free values. No configuration, no sense mode, no stream, no tariff and no byte
of spool DRAM is among it, and no job starts. -/
structure EventOnly (s t : State) : Prop where
  rest : t = { s with
    spm := { s.spm with
      jobs := t.spm.jobs
      descs := t.spm.descs
      freeList := t.spm.freeList
      paused := t.spm.paused }
    dsc := t.dsc
    dlc := t.dlc
    pra := t.pra
    chg := { s.chg with bound := t.chg.bound }
    acm := t.acm
    arl := { s.arl with queue := t.arl.queue, dropped := t.arl.dropped, sense := t.arl.sense }
    jli := { s.jli with tx := t.jli.tx, linkErrors := t.jli.linkErrors }
    senseLines := t.senseLines
    choices := t.choices }
  jobs : ∀ j y, t.job j = some y → ∃ x, s.job j = some x ∧ JobKept x y
  pools : ∀ k, t.pool k = { s.pool k with pointer := (t.pool k).pointer, queue := (t.pool k).queue }
  printers : ∀ p, (t.printer p).config = (s.printer p).config
  ports : ∀ q, (t.port q).config = (s.port q).config
  accounts : ∀ a, t.account a = { s.account a with
    balance := (t.account a).balance
    reserved := (t.account a).reserved
    periodSheets := (t.account a).periodSheets
    periodMono := (t.account a).periodMono
    periodColour := (t.account a).periodColour
    periodCharge := (t.account a).periodCharge
    bound := (t.account a).bound }
  modes : ∀ p, (t.sense p).mode = (s.sense p).mode

/-- What the line arbiters do at the end of a command (R83, R94): a line that is IDLE may begin an exchange, which takes its
block out of the attention set or the control queue; a granted DATA lowers its printer's room. Nothing else changes but the
count of free values. -/
structure LinesOnly (u t : State) : Prop where
  rest : t = { u with dlc := t.dlc, pra := t.pra, choices := t.choices }
  printers : ∀ p, t.printer p = { u.printer p with room := (t.printer p).room }
  busy : ∀ q, (u.port q).line ≠ .idle → t.port q = u.port q
  lines : ∀ q, (u.port q).line = .idle → t.port q = u.port q ∨ (t.port q).line = .transmitting
  ports : ∀ q, t.port q =
    { u.port q with
      line := (t.port q).line
      attention := (t.port q).attention
      control := (t.port q).control
      lastDrop := (t.port q).lastDrop
      exchange := (t.port q).exchange
      reply := (t.port q).reply }

/-- The commands that are valid frames of the job link: those that the silence rule sees first (R166) and that a waiting
RESTART keeps out (R172). -/
def isFrame : Instr → Bool
  | .powerOn | .resetLine | .restartReset | .linkError _ | .frameSent | .silenceTimerExpiry | .pollDue _ => false
  | .echoMismatch _ _ | .echoTimeout _ | .blockTransmitted _ _ | .responseWindowExpiry _ | .replyReceived _ _ => false
  | .framingFault _ _ | .breakReceived _ _ | .lineIdle _ | .recoveryLimitExpiry _ | .faultRestExpiry _ => false
  | .stallTimerExpiry _ | .fallingChange _ | .risingChange _ | .beaconOverrideExpiry _ => false
  | .startConfirmed _ _ | .characterReceived _ _ | .senseSample _ => false
  | _ => true

/-- The commands that are events of the lines, the printers, the stall timers and the sense inputs. -/
def isEvent : Instr → Bool
  | .pollDue _ | .echoMismatch _ _ | .echoTimeout _ | .blockTransmitted _ _ | .responseWindowExpiry _ => true
  | .replyReceived _ _ | .framingFault _ _ | .breakReceived _ _ | .lineIdle _ | .recoveryLimitExpiry _ => true
  | .faultRestExpiry _ | .stallTimerExpiry _ | .fallingChange _ | .risingChange _ | .startConfirmed _ _ => true
  | .characterReceived _ _ | .senseSample _ => true
  | _ => false

/-- The three commands that are resets. -/
def isReset : Instr → Bool
  | .powerOn | .resetLine | .restartReset => true
  | _ => false

/-! ### Words for the statements -/

/-- The stream number of a job stream. -/
def streamNumber (i : Fin 15) : BitVec 4 := BitVec.ofNat 4 (i.val + 1)

/-- The first index of a table request. -/
def indexOf (n : Nat) : Half := BitVec.ofNat 16 n

/-- Frame `f` has been handed over between `s` and `t`, first of all that were (R167). -/
def HandedFirst (s : State) (f : OutFrame) (t : State) : Prop :=
  if s.jli.tx.length < Config.txLimit then (s.jli.tx ++ [f]) <+: t.jli.tx
  else min Config.max16 (s.jli.linkErrors + 1) ≤ t.jli.linkErrors

/-- The job has an incomplete last sheet. -/
def lastOpen (s : State) (job : Job) : Bool := (s.lastIncomplete job).isSome

/-- R35: a configured member of a pool that has every capability needed. -/
structure CapableMember (s : State) (k : Fin 16) (n : Needs) (p : Fin 32) : Prop where
  configured : (s.printer p).config.configured = true
  pool : (s.printer p).config.pool = some k
  colour : n.colour = true → (s.printer p).config.colour = true
  duplex : n.duplex = true → (s.printer p).config.duplex = true
  sizes : ∀ b, n.sizeMask.getLsbD b = true → (s.printer p).config.sizeMask.getLsbD b = true
  media : ∀ b, n.mediaMask.getLsbD b = true → (s.printer p).config.mediaMask.getLsbD b = true

/-- R33: the number of the account that a JOB-OPEN on a route is to be charged to; none if none is given. -/
def ChargedNumber (x : Route) (r : OpenRequest) : Option Nat :=
  if x.fromJob then r.account.map BitVec.toNat else some x.fixedAccount.val

/-- R32: check n of the seven passes. -/
def AdmissionPasses (s : State) (r : OpenRequest) : Nat → Prop
  | 1 => ∀ j x, s.job j = some x → x.tag ≠ r.tag
  | 2 => (s.routeOf r).valid = true
  | 3 => (s.routeOf r).fromJob = true → r.account ≠ none
  | 4 => ∃ a : Fin 512, ChargedNumber (s.routeOf r) r = some a.val ∧ (s.account a).valid = true ∧
      (s.account a).blocked = false
  | 5 => (r.needs.colour = true → (s.routeOf r).colour = true) ∧ (r.needs.duplex = true → (s.routeOf r).duplex = true)
  | 6 => ∃ p, CapableMember s (s.routeOf r).pool r.needs p
  | 7 => ∃ j, s.job j = none
  | _ => True

/-- R32: the cause that check n gives when it fails. -/
def admissionCause : Nat → Cause
  | 1 => .duplicateTag
  | 2 => .noRoute
  | 3 => .accountMissing
  | 4 => .accountInvalid
  | 5 => .notPermitted
  | 6 => .noCapablePrinter
  | _ => .noJobSlot

/-- R145: a cancellation ends the job at once. -/
def EndsAtOnce (s : State) (x : Job) : Prop :=
  x.phase = .spooling ∨ x.phase = .held ∨ x.phase = .queued ∨
    (x.phase = .printing ∧ ∃ p, x.printer = some p ∧ (s.disp p).window = [])

/-- R103: a printer has been told to drop its sheets from a feed number on, or from the earlier one it held; a DROP-SHEETS waits
for it unless its port is DISABLED. -/
def ToldToDrop (s v : State) (p : Fin 32) (f : Byte) : Prop :=
  (v.printer p).needsDrop = true ∧
  (v.printer p).dropFrom =
    some (match (s.printer p).dropFrom with
      | some g => earlierFeed (s.printer p).nextFeed g f
      | none => f) ∧
  ((s.port (portOf p)).line ≠ .disabled → { drop := dropOf p, waitDue := false } ∈ (v.port (portOf p)).control)

/-- R145, R147, R148: what the cancellation path, with an outcome and a cause, has made of a job that was SPOOLING, QUEUED, HELD
or PRINTING: by its phase, its window and its printer's link. -/
structure Cancelled (s v : State) (j : Fin 128) (x : Job) (o : JobOutcome) (c : Cause) : Prop where
  atOnce : EndsAtOnce s x → v.job j = none ∧ HandedFirst s (.jobReport (reportOf x o c)) v
  committed : ∀ p e rest, x.phase = .printing → x.printer = some p → (s.disp p).window = e :: rest →
    (s.printer p).link ≠ .lost →
    v.job j = some { x with
      isOpen := false, stream := none, phase := .cancelling, ending := some (o, c), drain := none, stalled := false } ∧
    v.disp p = s.disp p ∧ ToldToDrop s v p e.feed
  lost : ∀ p e rest, x.phase = .printing → x.printer = some p → (s.disp p).window = e :: rest → e.job = j →
    (s.printer p).link = .lost →
    v.job j = none ∧ (v.printer p).needsDrop = true ∧ (v.disp p).window = [] ∧
    HandedFirst s (.jobReport
      { reportOf x o c with sheetsLost := min Config.max16 (x.sheetsLost + (rest.length + 1)) }) v

/-- R93, R148: in `v` port q has faulted: a CANCELLING job of a printer of the port that was not LOST has lost its window and
ended, and the printer is to drop its sheets from the oldest entry's feed number on, or from the earlier one it held. Job and
printer are to name each other alone, as `DispatchOk` has it. -/
def CancellingSettled (s v : State) (q : Fin 8) : Prop :=
  ∀ d j x e rest, (s.printer (printerAt q d)).config.configured = true → (s.printer (printerAt q d)).link ≠ .lost →
    (s.disp (printerAt q d)).assigned = some j → s.job j = some x → x.phase = .cancelling → x.ending ≠ none →
    (s.disp (printerAt q d)).window = e :: rest → e.job = j →
    (∀ p, (s.disp p).assigned = some j → p = printerAt q d) →
    (∀ k y, s.job k = some y → y.printer = some (printerAt q d) → k = j) →
    v.job j = none ∧ (v.disp (printerAt q d)).window = [] ∧ (v.printer (printerAt q d)).needsDrop = true ∧
    (v.printer (printerAt q d)).dropFrom =
      some (match (s.printer (printerAt q d)).dropFrom with
        | some g => earlierFeed (s.printer (printerAt q d)).nextFeed g e.feed
        | none => e.feed) ∧
    ∃ b ∈ (v.port q).control, b.drop = d

/-- R169: a write of entries from index `first` on has been applied in index order, by what `write` does with one entry, until
the first one refused; and the reply, with the result and the number applied, handed over. `σ` m is the state after m
entries. -/
def AppliedInOrder {α : Type} (write : State → Nat → α → Option State) (u : State) (token : Byte) (first : Half)
    (entries : List α) (t : State) : Prop :=
  ∃ (σ : Nat → State) (k : Nat) (r : Result), σ 0 = u ∧ k ≤ entries.length ∧
    (∀ m, m < k → ∃ e, entries[m]? = some e ∧ write (σ m) (first.toNat + m) e = some (σ (m + 1))) ∧
    ((k = entries.length ∧ r = .ok) ∨
      ∃ e, entries[k]? = some e ∧ write (σ k) (first.toNat + k) e = none ∧ r = .interlock) ∧
    LinesOnly ((σ k).hand (.commandReply token 0#8 r [BitVec.ofNat 8 k])) t

/-- R48: what a pool's arbiter can give a printer: it is available, and this is the first job of the pool's queue that it can
serve. -/
structure FirstServable (s : State) (k : Fin 16) (p : Fin 32) (j : Fin 128) : Prop where
  available : s.available p = true
  first : ∃ (i : Nat) (x : Job), (s.pool k).queue[i]? = some j ∧ s.job j = some x ∧ CapableMember s k x.needs p ∧
    ∀ (i' : Nat) j' x', i' < i → (s.pool k).queue[i']? = some j' → s.job j' = some x' → ¬CapableMember s k x'.needs p

/-- R48, step 1: how far a printer stands behind the one above a pool's pointer. -/
def roundDistance (pointer p : Fin 32) : Nat := (p.val + 31 - pointer.val) % 32

/-- R161, R162: the filter of a slot has taken a change and stands as `y`; in `w` only the filter has changed, and `v` is what
the slot's mode makes of the change. -/
structure ChangeTaken (w v : State) (p : Fin 32) (y : Sense) : Prop where
  off : y.mode = .off → v = w
  edge : y.mode = .edge → v = if y.high then w else w.raiseAt (printerKey p .senseJam) false y.stamp
  fall : y.mode = .level → y.high = false →
    v = (({ w with arl := { w.arl with sense := put w.arl.sense p { y with active := true } } } : State).raiseAt
      (printerKey p .senseJam) true y.stamp).refreshFeed p
  rise : y.mode = .level → y.high = true →
    v = (({ w with arl := { w.arl with sense := put w.arl.sense p { y with active := false } } } : State).clear
      (printerKey p .senseJam)).refreshFeed p

/-- What every reset but power-on keeps of the tables (R27, R43, R70, R88, R107, R118, R133, R156, R158, R163, R174). -/
structure KeptByReset (s t : State) : Prop where
  routes : ∀ r, t.route r = s.route r
  pools : ∀ k, (t.pool k).enabled = (s.pool k).enabled ∧ (t.pool k).reroute = (s.pool k).reroute
  ports : ∀ q, (t.port q).config = (s.port q).config
  printers : ∀ p, (t.printer p).config = (s.printer p).config
  banks : t.chg.banks = s.chg.banks
  current : t.chg.current = s.chg.current
  accounts : ∀ a, t.account a = { s.account a with reserved := 0, bound := 0 }
  meters : t.acm.meters = s.acm.meters
  mask : t.arl.mask = s.arl.mask
  printerBeacon : t.arl.printerBeacon = s.arl.printerBeacon
  portBeacon : t.arl.portBeacon = s.arl.portBeacon
  officeBeacon : t.arl.officeBeacon = s.arl.officeBeacon
  modes : ∀ p, (t.sense p).mode = (s.sense p).mode
  timeout : t.mgu.timeout = s.mgu.timeout
  action : t.mgu.holdAction = s.mgu.holdAction

/-- What every reset sets (0.7.4, R25, R40, R43, R61, R72, R73, R90, R109, R136, R152, R160 to R162, R165 to R167, R173, R176),
whatever the state before it. -/
structure SetByReset (s t : State) (cause : ResetCause) : Prop where
  frames : t.jli.tx = [.hello cause]
  linkErrors : t.jli.linkErrors = 0
  strayFrames : t.jli.strayFrames = 0
  restart : t.jli.restart = none
  cause : t.mgu.cause = cause
  attended : t.mgu.attended = true
  timer : t.mgu.timer = if 0 < t.mgu.timeout then some (BitVec.ofNat 32 (t.mgu.timeout * 1000)) else none
  now : t.now = 0#32
  arrival : t.rcl.arrival = 0#32
  jobs : ∀ j, t.job j = none
  streams : ∀ i, t.stream i = .idle
  descs : t.spm.descs = []
  freeDescriptors : t.freeDescriptors = 16384
  freeList : t.spm.freeList = List.finRange 32768
  freeBlocks : t.freeBlocks = 32768
  paused : t.spm.paused = false
  dram : t.spm.dram = s.spm.dram
  pointers : ∀ k, (t.pool k).pointer = 0 ∧ (t.pool k).queue = []
  dispatch : ∀ p, (t.disp p).assigned = none ∧ (t.disp p).window = [] ∧ (t.disp p).leaving = false ∧ (t.disp p).stall = none
  bound : ∀ b, t.chg.bound.get b = 0
  alerts : t.arl.queue = []
  dropped : t.arl.dropped = 0
  overrides : ∀ b, t.arl.overrides.get b = none
  sense : ∀ p, (t.sense p).high = true ∧ (t.sense p).run = 0 ∧ (t.sense p).stamp = 0#32 ∧ (t.sense p).active = false
  printers : ∀ p, (t.printer p).inService = true ∧ (t.printer p).link = .unknown ∧ (t.printer p).missed = 0 ∧
    (t.printer p).condition = none ∧ (t.printer p).room = 0 ∧ (t.printer p).nextFeed = 0#8 ∧
    (t.printer p).needsDrop = false ∧ (t.printer p).dropFrom = none ∧ (t.printer p).unmatched = 0 ∧
    (t.printer p).stage = none ∧ (t.printer p).naks = 0
  ports : ∀ q, (t.port q).noise = 0 ∧ (t.port q).framing = 0 ∧ (t.port q).contention = 0 ∧ (t.port q).protocolErrors = 0 ∧
    (t.port q).attention = 0#4 ∧ (t.port q).control = [] ∧ (t.port q).lastDrop = 3 ∧ (t.port q).restartPending = false ∧
    (t.port q).rx.mode = .resync ∧ (t.port q).rx.idleFlag = false ∧
    (t.port q).line = (if (t.port q).config.enabled then .recovering else .disabled)

end Sys2Proof.Machine
end

