-- ==== Sys2Proof/WellFormed.lean ====
section
/-!
DEFINITION. Which commands can arrive: the conditions on operands that their types do not already hold, each with its rule.
The meanings are total and do not rest on this check; a statement that needs it says so.
-/

namespace Sys2Proof

/-- R169: a table request of `n` entries from `first` passes the tests of count and index for a table of `size` entries. -/
def tableRangeOk (first : Half) (n size : Nat) : Bool :=
  decide (1 ≤ n) && decide (n ≤ Config.maxTableCount) && decide (first.toNat + n ≤ size)

/-- R169: the raw table write passes all four tests. -/
def tableWriteOk (table : Byte) (first : Half) (count : Byte) (entries : List Byte) : Bool :=
  match Machine.tableShape table with
  | some (size, some bytes) => tableRangeOk first count.toNat size && entries.length == count.toNat * bytes
  | _ => false

/-- A command that can arrive. A job frame comes on a job stream (R166); a frame carries at most 1024 payload bytes (R165);
LINK_ERROR is a run of bytes the JLI discards (R165), STRAY_FRAME a frame that is stray by its kind and stream (R166); a
typed table write passes the tests of R169 (an ACCOUNT write holds at most 29 entries, R171), and TABLE_WRITE is one that
fails them; MALFORMED fails the form check of R168; the receiver's events carry samples that make them (R67, R68). -/
def Instr.wf : Instr → Bool
  | .powerOn => true
  | .resetLine => true
  | .restartReset => true
  | .linkError bytes => Machine.frameFault bytes
  | .strayFrame f => decide (f.payload.length ≤ Config.maxPayload) && Machine.strayInFrame f
  | .jobOpen stream _ => stream != 0#4
  | .sheet stream _ => stream != 0#4
  | .data stream payload => stream != 0#4 && decide (payload.length ≤ Config.maxPayload)
  | .jobClose stream => stream != 0#4
  | .jobAbort stream => stream != 0#4
  | .tableRead _ _ _ _ => true
  | .tableWrite _ table first count entries =>
    decide (entries.length ≤ Config.maxPayload - 5) && !tableWriteOk table first count entries
  | .routeWrite _ first entries => tableRangeOk first entries.length 256
  | .poolWrite _ first entries => tableRangeOk first entries.length 16
  | .portWrite _ first entries => tableRangeOk first entries.length 8
  | .printerWrite _ first entries => tableRangeOk first entries.length 32
  | .tariffWrite _ _ first entries => tableRangeOk first entries.length 16
  | .accountWrite _ first entries => tableRangeOk first entries.length 512 && decide (entries.length ≤ 29)
  | .alertSetupWrite _ first entries => tableRangeOk first entries.length 74
  | .deviceConfigWrite _ first entries => tableRangeOk first entries.length 1
  | .malformed kind payload => decide (payload.length ≤ Config.maxPayload) && Machine.formFault kind payload
  | .cancelJob _ _ => true
  | .holdJob _ _ => true
  | .releaseJob _ _ => true
  | .adjust _ _ _ => true
  | .closePeriod _ _ => true
  | .closePeriodAll _ => true
  | .swapTariff _ => true
  | .ackAlert _ _ _ _ => true
  | .printerServiceOut _ _ => true
  | .printerServiceIn _ _ => true
  | .portRestart _ _ => true
  | .beaconOverride _ _ _ _ => true
  | .restart _ => true
  | .frameSent => true
  | .silenceTimerExpiry => true
  | .pollDue _ => true
  | .echoMismatch _ _ => true
  | .echoTimeout _ => true
  | .blockTransmitted _ c => (Machine.majorityBits c).getLsbD 9
  | .responseWindowExpiry _ => true
  | .replyReceived _ c => (Machine.majorityBits c).getLsbD 9
  | .framingFault _ c => Machine.charReport c == .framing
  | .breakReceived _ c => Machine.charReport c == .brk
  | .lineIdle _ => true
  | .recoveryLimitExpiry _ => true
  | .faultRestExpiry _ => true
  | .stallTimerExpiry _ => true
  | .fallingChange _ => true
  | .risingChange _ => true
  | .beaconOverrideExpiry _ => true
  | .startConfirmed _ c => Machine.startIsConfirmed c
  | .characterReceived _ c => (Machine.majorityBits c).getLsbD 9
  | .senseSample _ => true

end Sys2Proof
end

