-- ==== Sys2Proof/Certificates/Slice0/Obligations.lean ====
section
/-!
DEFINITION. The statements about the model that are to be proved.
-/

open Sys2Proof Sys2Proof.Machine

/-- A step takes the command at the front of the queue and runs it with the rest of the queue. Derived from
00_scope.md section 0.7, 10_the_job_link_and_management.md R168. -/
def Obligations.StepTakesTheFrontCommand : Prop :=
  ∀ (c : Instr) (rest : List Instr) (s : State),
      step { s with pending := c :: rest } = exec c { s with pending := rest }

/-- With no command waiting, a step is one 1 ms tick, and which events fall due (model's choice). Derived from
00_scope.md section 0.7.4, 04_drop_lines.md R75, R77, R79, 05_the_drop_protocol_and_printer_records.md R91,
08_interrupted_printing_jams_lost_printers_and_canc.md R138, 09_alert_queue_beacons_and_sense_inputs.md R160, R161,
10_the_job_link_and_management.md R176. What rests on the model's choices, assumption log 1, 2, 13, 28, 42, is named
in its text: Model's choice (assumption logs 1, 2, 13; section 0.7.4 gives the 1 ms timestamp): with an empty queue
and no armed reset the timestamp rises by 1, the events that are due at the new timestamp wait in the queue in some
order, one free value has been used and nothing else changes; where the wait of a RESTART is at its end, the reset
command is put in the queue instead and no time passes. The events due at a timestamp: one SENSE_SAMPLE with the
levels that stand on the inputs, and beside it FALLING_CHANGE and RISING_CHANGE of a filter that has yet to sample at
this tick, by the model's own field sampled, and whose sample is its third differing one (R161; that the tick queues
both, and the test on that field: model's choice, assumption log 28); SILENCE_TIMER_EXPIRY, STALL_TIMER_EXPIRY and
BEACON_OVERRIDE_EXPIRY of a running timer or override whose expiry is reached; POLL_DUE at the poll due time of a
configured printer on an enabled port (by its stored record, assumption log 42); RESPONSE_WINDOW_EXPIRY of an
AWAITING, RECOVERY_LIMIT_EXPIRY of a RECOVERING and FAULT_REST_EXPIRY of a FAULTED line whose running limit is
reached; and no other command. -/
def Obligations.IdleStepIsATick : Prop :=
  (∀ s : State, s.pending = [] →
        (s.jli.restart ≠ some 0 → ∃ t, step s = .next t ∧
          t = { s with now := s.now + 1#32, choices := s.choices + 1, pending := t.pending } ∧
          t.pending.Perm { s with now := s.now + 1#32 }.dueEvents) ∧
        (s.jli.restart = some 0 → step s = .next { s with pending := [.restartReset] })) ∧
      ∀ s : State,
        (∀ levels, .senseSample levels ∈ s.dueEvents ↔ levels = s.senseLines) ∧
        (∀ p, .fallingChange p ∈ s.dueEvents ↔ (s.sense p).sampled ≠ s.now ∧ (s.sense p).high = true ∧
          (s.sense p).run = 2 ∧ s.senseLines.getLsbD p.val = false) ∧
        (∀ p, .risingChange p ∈ s.dueEvents ↔ (s.sense p).sampled ≠ s.now ∧ (s.sense p).high = false ∧
          (s.sense p).run = 2 ∧ s.senseLines.getLsbD p.val = true) ∧
        (.silenceTimerExpiry ∈ s.dueEvents ↔ ∃ expiry, s.mgu.timer = some expiry ∧ reached s.now expiry = true) ∧
        (∀ p, .pollDue p ∈ s.dueEvents ↔ (s.printer p).config.configured = true ∧
          (s.port (portOf p)).config.enabled = true ∧ s.now = (s.printer p).pollDue) ∧
        (∀ q, .responseWindowExpiry q ∈ s.dueEvents ↔ (s.port q).line = .awaiting ∧
          ∃ expiry, (s.port q).windowExpiry = some expiry ∧ reached s.now expiry = true) ∧
        (∀ q, .recoveryLimitExpiry q ∈ s.dueEvents ↔ (s.port q).line = .recovering ∧
          ∃ expiry, (s.port q).recoverExpiry = some expiry ∧ reached s.now expiry = true) ∧
        (∀ q, .faultRestExpiry q ∈ s.dueEvents ↔ (s.port q).line = .faulted ∧
          ∃ expiry, (s.port q).restExpiry = some expiry ∧ reached s.now expiry = true) ∧
        (∀ p, .stallTimerExpiry p ∈ s.dueEvents ↔
          ∃ expiry, (s.disp p).stall = some expiry ∧ reached s.now expiry = true) ∧
        (∀ b, .beaconOverrideExpiry b ∈ s.dueEvents ↔
          ∃ o, s.arl.overrides.get b = some o ∧ reached s.now o.expiry = true) ∧
        ∀ c ∈ s.dueEvents, (∃ levels, c = .senseSample levels) ∨ c = .silenceTimerExpiry ∨
          (∃ p, c = .fallingChange p ∨ c = .risingChange p ∨ c = .pollDue p ∨ c = .stallTimerExpiry p) ∨
          (∃ q, c = .responseWindowExpiry q ∨ c = .recoveryLimitExpiry q ∨ c = .faultRestExpiry q) ∨
          ∃ b, c = .beaconOverrideExpiry b

/-- Every command, in every state, has a next state and leaves the queue of waiting commands alone. Derived from
00_scope.md section 0.7, 10_the_job_link_and_management.md R168, 95_what_each_step_holds.md. -/
def Obligations.EveryCommandHasANextState : Prop :=
  ∀ (c : Instr) (s : State), ∃ t, exec c s = .next t ∧ t.pending = s.pending

/-- The Route Table after power-on, reset line and RESTART (R27). Derived from 02_routing_and_admission.md R27, R29,
10_the_job_link_and_management.md R172. What rests on the model's choices, assumption log 13, is named in its text:
The command RESTART_RESET makes the same reset where the wait is over and the reset has not come: a state that no run
reaches (model's choice, assumption log 13). -/
def Obligations.RoutesAfterEachReset : Prop :=
  ∀ s : State,
      (∃ t, exec .powerOn s = .next t ∧ t.rcl.arrival = 0#32 ∧
        ∀ r, t.route r =
          { valid := false, pool := 0, tariffClass := 0, fromJob := false, fixedAccount := 0, priority := 0,
            startThreshold := 0, holdOnArrival := false, colour := false, duplex := false }) ∧
      (∃ t, exec .resetLine s = .next t ∧ t.rcl.arrival = 0#32 ∧ KeptByReset s t ∧ (RoutesOk s → RoutesOk t)) ∧
      (∀ f rest, s.jli.tx = f :: rest → s.jli.restart = some 1 →
        ∃ t, exec .frameSent s = .next t ∧ t.rcl.arrival = 0#32 ∧ KeptByReset s t ∧ (RoutesOk s → RoutesOk t)) ∧
      (∀ token, s.jli.restart = none → 256 ≤ s.silenceRule.jli.tx.length →
        ∃ t, exec (.restart token) s = .next t ∧ t.rcl.arrival = 0#32 ∧ KeptByReset s t ∧ (RoutesOk s → RoutesOk t)) ∧
      (s.jli.restart = some 0 →
        ∃ t, exec .restartReset s = .next t ∧ t.rcl.arrival = 0#32 ∧ KeptByReset s t ∧ (RoutesOk s → RoutesOk t))

/-- The Pool Table after power-on, reset line and RESTART (R43). Derived from 03_pools_and_dispatch.md R43,
10_the_job_link_and_management.md R172. What rests on the model's choices, assumption log 13, is named in its text:
The command RESTART_RESET makes the same reset where the wait is over and the reset has not come: a state that no run
reaches (model's choice, assumption log 13). -/
def Obligations.PoolsAfterEachReset : Prop :=
  ∀ s : State,
      (∃ t, exec .powerOn s = .next t ∧ ∀ k, t.pool k = { enabled := false, reroute := 0, pointer := 0, queue := [] }) ∧
      (∃ t, exec .resetLine s = .next t ∧ (∀ j, t.job j = none) ∧ (∀ r, (t.route r).valid = (s.route r).valid) ∧
        ∀ k, t.pool k = { enabled := (s.pool k).enabled, reroute := (s.pool k).reroute, pointer := 0, queue := [] }) ∧
      (∀ f rest, s.jli.tx = f :: rest → s.jli.restart = some 1 →
        ∃ t, exec .frameSent s = .next t ∧ (∀ j, t.job j = none) ∧ (∀ r, (t.route r).valid = (s.route r).valid) ∧
          ∀ k, t.pool k = { enabled := (s.pool k).enabled, reroute := (s.pool k).reroute, pointer := 0, queue := [] }) ∧
      (∀ token, s.jli.restart = none → 256 ≤ s.silenceRule.jli.tx.length →
        ∃ t, exec (.restart token) s = .next t ∧ (∀ j, t.job j = none) ∧ (∀ r, (t.route r).valid = (s.route r).valid) ∧
          ∀ k, t.pool k = { enabled := (s.pool k).enabled, reroute := (s.pool k).reroute, pointer := 0, queue := [] }) ∧
      (s.jli.restart = some 0 →
        ∃ t, exec .restartReset s = .next t ∧ (∀ j, t.job j = none) ∧ (∀ r, (t.route r).valid = (s.route r).valid) ∧
          ∀ k, t.pool k = { enabled := (s.pool k).enabled, reroute := (s.pool k).reroute, pointer := 0, queue := [] })

/-- What every reset sets: spool, streams, queues, counts, links, alerts, timestamp, HELLO and cause. Derived from
01_jobs_and_the_spool.md R25, 10_the_job_link_and_management.md R173, 04_drop_lines.md R72, R73,
05_the_drop_protocol_and_printer_records.md R90, 09_alert_queue_beacons_and_sense_inputs.md R152, R161, R162. What
rests on the model's choices, assumption log 7, 13, is named in its text: RESTART_RESET makes the same reset where the
wait is over and the reset has not come, a state that no run reaches (model's choice, assumption log 13). While no
RESTART waits, or its reply is not yet sent, RESTART_RESET changes nothing (model's choice, assumption log 7). -/
def Obligations.EveryResetSetsTheState : Prop :=
  ∀ s : State,
      (∃ t, exec .powerOn s = .next t ∧ SetByReset s t .powerOn) ∧
      (∃ t, exec .resetLine s = .next t ∧ SetByReset s t .resetLine ∧ KeptByReset s t) ∧
      (∀ f rest, s.jli.tx = f :: rest → s.jli.restart = some 1 →
        ∃ t, exec .frameSent s = .next t ∧ SetByReset s t .restart ∧ KeptByReset s t) ∧
      (∀ token, s.jli.restart = none → 256 ≤ s.silenceRule.jli.tx.length →
        ∃ t, exec (.restart token) s = .next t ∧ SetByReset s t .restart ∧ KeptByReset s t) ∧
      (s.jli.restart = some 0 → ∃ t, exec .restartReset s = .next t ∧ SetByReset s t .restart ∧ KeptByReset s t) ∧
      (s.jli.restart ≠ some 0 → exec .restartReset s = .next s)

/-- What power-on sets in the configuration tables, the accounts and the meters. Derived from 04_drop_lines.md R70,
05_the_drop_protocol_and_printer_records.md R88, 06_charging_arithmetic_and_tariff_banks.md R107, R108,
07_accounts_and_meters.md R118, R133, 09_alert_queue_beacons_and_sense_inputs.md R156, R158, R163,
10_the_job_link_and_management.md R174. What rests on the model's choices, assumption log 5, is named in its text:
Power-on is the machine of State.reset but for the spool DRAM, the sense levels, the count of free values and the
queue (assumption log 5). -/
def Obligations.PowerOnTables : Prop :=
  ∀ s : State, ∃ t, exec .powerOn s = .next t ∧
      (∀ q, (t.port q).config = { enabled := false, rate := 2, window := 3, poll := 100 }) ∧
      (∀ p, (t.printer p).config =
        { configured := false, pool := none, colour := false, duplex := false, sizeMask := 0#4, mediaMask := 0#4, limit := 1 }) ∧
      (∀ b k, (t.chg.banks.get b).get k = TariffClass.initial) ∧ t.chg.current = 0 ∧
      (∀ a, t.account a = Account.initial) ∧ (∀ p, t.acm.meters.get p = Meters.initial) ∧
      t.arl.mask = 0xFFF#12 ∧ (∀ p, t.arl.printerBeacon.get p = none) ∧ (∀ q, t.arl.portBeacon.get q = none) ∧
      t.arl.officeBeacon = none ∧ (∀ p, (t.sense p).mode = .off) ∧ t.mgu.timeout = 0 ∧ t.mgu.holdAction = false ∧
      t = { State.reset with
        spm := { State.reset.spm with dram := s.spm.dram }
        senseLines := s.senseLines
        choices := s.choices
        pending := s.pending }

/-- RESTART hands its OK reply, arms the reset behind the frames waiting, and shuts the link until then (R172).
Derived from 10_the_job_link_and_management.md R172. -/
def Obligations.RestartArmsTheReset : Prop :=
  (∀ (c : Instr) (s : State), s.jli.restart ≠ none → (isFrame c = true ∨ ∃ bytes, c = .linkError bytes) →
        exec c s = .next s) ∧
      ∀ (token : Byte) (s : State), s.jli.restart = none →
      ∃ t, exec (.restart token) s = .next t ∧
        (s.silenceRule.jli.tx.length < 256 →
          LinesOnly { s.silenceRule with jli := { s.silenceRule.jli with
            tx := s.silenceRule.jli.tx ++ [.commandReply token 11#8 .ok []]
            restart := some (s.silenceRule.jli.tx.length + 1) } } t) ∧
        (256 ≤ s.silenceRule.jli.tx.length →
          SetByReset s t .restart ∧ KeptByReset s t)

/-- A request of the wrong form is answered MALFORMED and nothing is applied (R168). Derived from
10_the_job_link_and_management.md R168. What rests on the model's choices, assumption log 3, 16, 33, is named in its
text: What the reply must carry of a payload too short to hold it is a free value of the model (assumption log 3);
that the reply of a refused read repeats table id and first index, and that a refused write counts 0 entries applied,
is inferred (assumption logs 16 and 33). -/
def Obligations.WrongFormsAreRefused : Prop :=
  ∀ (payload : List Byte) (s : State), s.jli.restart = none →
      (payload.length < 5 → ∃ t, exec (.malformed .tableWrite payload) s = .next t ∧
        LinesOnly (s.silenceRule.hand (.commandReply (payload.getD 0 0#8) 0#8 .malformed [0#8])) t) ∧
      (payload.length ≠ 5 → ∃ t table first, exec (.malformed .tableRead payload) s = .next t ∧
        LinesOnly (s.silenceRule.hand (.readReply (payload.getD 0 0#8) .malformed table first 0 [])) t ∧
        (∀ b, payload[1]? = some b → table = b) ∧ (5 ≤ payload.length → first = halfAt payload 2)) ∧
      ((payload.length < 2 ∨ commandArgLength (byteAt payload 1).toNat ≠ some (payload.length - 2)) →
        ∃ t code, exec (.malformed .command payload) s = .next t ∧
          LinesOnly (s.silenceRule.hand (.commandReply (payload.getD 0 0#8) code .malformed [])) t ∧
          ∀ b, payload[1]? = some b → code = b)

/-- Discarded runs of bytes and stray frames raise their counts and do nothing else (R165, R166). Derived from
10_the_job_link_and_management.md R165, R166, R172. -/
def Obligations.DiscardedAndStrayFrames : Prop :=
  (∀ bytes : List Byte, frameFault bytes = true ↔
        (bytes.length ≠ 6 + (halfAt bytes 2).toNat ∨ 1024 < (halfAt bytes 2).toNat ∨ 15 < (byteAt bytes 1).toNat ∨
          halfAt bytes (4 + (halfAt bytes 2).toNat) ≠ crc16 (bytes.take (4 + (halfAt bytes 2).toNat)))) ∧
      (∀ (bytes : List Byte) (s : State), frameFault bytes = true →
        (s.jli.restart = none → exec (.linkError bytes) s =
          .next { s with jli := { s.jli with linkErrors := min 65535 (s.jli.linkErrors + 1) } }) ∧
        (s.jli.restart ≠ none → exec (.linkError bytes) s = .next s)) ∧
      (∀ f : InFrame, strayInFrame f = true ↔
        (f.kind ∈ [0x01#8, 0x02#8, 0x03#8, 0x04#8, 0x05#8] ∧ f.stream = 0#4) ∨
        (f.kind = 0x01#8 ∧ f.payload.length ≠ 10) ∨ (f.kind = 0x02#8 ∧ f.payload.length ≠ 4) ∨
        ((f.kind = 0x04#8 ∨ f.kind = 0x05#8) ∧ f.payload.length ≠ 0) ∨
        (f.kind ∈ [0x10#8, 0x11#8, 0x12#8] ∧ f.stream ≠ 0#4) ∨
        f.kind ∉ [0x01#8, 0x02#8, 0x03#8, 0x04#8, 0x05#8, 0x10#8, 0x11#8, 0x12#8]) ∧
      ∀ (f : InFrame) (s : State), strayInFrame f = true → s.jli.restart = none →
        ∃ t, exec (.strayFrame f) s = .next t ∧
          LinesOnly { s.silenceRule with
            jli := { s.silenceRule.jli with strayFrames := min 65535 (s.silenceRule.jli.strayFrames + 1) } } t

/-- The transmit list takes 256 frames, ALERT frames below 192, and loses its oldest as it is sent (R167). Derived
from 10_the_job_link_and_management.md R167, R172. What rests on the model's choices, assumption log 7, 13, is named
in its text: With an empty list it changes nothing (model's choice, assumption log 7), nor with no frame left before
the reset, a state that no run reaches (model's choice, assumption log 13). -/
def Obligations.TransmitListRule : Prop :=
  ∀ s : State,
      (∀ f, s.jli.tx.length < 256 → s.hand f = { s with jli := { s.jli with tx := s.jli.tx ++ [f] } }) ∧
      (∀ f, 256 ≤ s.jli.tx.length →
        s.hand f = { s with jli := { s.jli with linkErrors := min 65535 (s.jli.linkErrors + 1) } }) ∧
      (∀ raised e, s.jli.tx.length < 192 → s.handAlert raised e = { s with jli := { s.jli with
        tx := s.jli.tx ++ [.alert raised e.key e.active e.count e.firstTime e.lastTime] } }) ∧
      (∀ raised e, 192 ≤ s.jli.tx.length →
        s.handAlert raised e = { s with arl := { s.arl with dropped := min 65535 (s.arl.dropped + 1) } }) ∧
      (∀ f rest, s.jli.tx = f :: rest → s.jli.restart = none →
        exec .frameSent s = .next { s with jli := { s.jli with tx := rest } }) ∧
      (∀ f rest n, s.jli.tx = f :: rest → s.jli.restart = some (n + 2) →
        exec .frameSent s = .next { s with jli := { s.jli with tx := rest, restart := some (n + 1) } }) ∧
      (∀ f rest, s.jli.tx = f :: rest → s.jli.restart = some 1 →
        ∃ t, exec .frameSent s = .next t ∧ SetByReset s t .restart ∧ KeptByReset s t) ∧
      (s.jli.tx = [] → exec .frameSent s = .next s) ∧
      (s.jli.restart = some 0 → exec .frameSent s = .next s)

/-- The silence rule takes a valid frame first; DEVICE-CONFIG sets its timer, whose expiry makes the part UNATTENDED
(R174, R176). Derived from 10_the_job_link_and_management.md R166, R169, R174, R176, 03_pools_and_dispatch.md R47,
R65. What rests on the model's choices, assumption log 7, is named in its text: A timer that is not running or not due
does nothing (model's choice, assumption log 7). -/
def Obligations.SilenceRule : Prop :=
  (∀ (c : Instr) (s : State), isFrame c = true → c.wf = true → s.jli.restart = none → exec c s = exec c s.silenceRule) ∧
      (∀ s : State, s.mgu.attended = true → s.silenceRule = { s with mgu := { s.mgu with
        timer := if 0 < s.mgu.timeout then some (s.now + BitVec.ofNat 32 (s.mgu.timeout * 1000)) else none } }) ∧
      (∀ s : State, s.mgu.attended = false → s.mgu.holdAction = false →
        s.silenceRule = { s with mgu := s.silenceRule.mgu }.clear (deviceKey .unattended)) ∧
      (∀ s : State, s.mgu.attended = false →
        s.silenceRule.mgu = { s.mgu with
          attended := true
          timer := if 0 < s.mgu.timeout then some (s.now + BitVec.ofNat 32 (s.mgu.timeout * 1000)) else none } ∧
        DispatchOnly ({ s with mgu := s.silenceRule.mgu }.clear (deviceKey .unattended)) s.silenceRule) ∧
      (∀ s : State, s.mgu.attended = false → s.mgu.holdAction = true →
        s.silenceRule = (List.finRange 128).foldl State.tryPrinting
          ((List.finRange 16).foldl State.runArbiter
            ({ s with mgu := s.silenceRule.mgu }.clear (deviceKey .unattended)))) ∧
      (∀ (s u : State) (token : Byte) (c : DeviceConfigEntry), s.jli.restart = none → u = s.silenceRule →
        ∃ t, exec (.deviceConfigWrite token 0#16 [c]) s = .next t ∧ LinesOnly (({ u with
          mgu := { u.mgu with
            timeout := c.timeout.toNat
            holdAction := c.action == 1#8
            timer := if 0 < c.timeout.toNat then some (u.now + BitVec.ofNat 32 (c.timeout.toNat * 1000)) else none }
          arl := { u.arl with
            officeBeacon := if h : c.beacon.toNat < 8 then some ⟨c.beacon.toNat, h⟩ else none } } : State).hand
          (.commandReply token 0#8 .ok [1#8])) t) ∧
      ∀ s : State,
        (∀ expiry, s.mgu.timer = some expiry → reached s.now expiry = true →
          ∃ t, exec .silenceTimerExpiry s = .next t ∧ t.mgu = { s.mgu with attended := false, timer := none } ∧
            t.unattendedHold = s.mgu.holdAction ∧
            LinesOnly ({ s with mgu := { s.mgu with attended := false, timer := none } }.raiseAt
              { kind := .device, index := 0, cls := .unattended } true s.now) t) ∧
        (s.mgu.timer = none → exec .silenceTimerExpiry s = .next s) ∧
        (∀ expiry, s.mgu.timer = some expiry → reached s.now expiry = false → exec .silenceTimerExpiry s = .next s)

/-- A frame's bytes pass the receiver and read back as the frame; every received run is a well-formed command. Derived
from 10_the_job_link_and_management.md R165, R166, R168, R169, R177, R178. -/
def Obligations.FramesRoundTripAndMakeCommands : Prop :=
  (∀ (kind : Byte) (stream : BitVec 4) (payload : List Byte), payload.length ≤ 1024 →
        frameFault (frameBytes kind (stream.zeroExtend 8) payload) = false ∧
        readFrame (frameBytes kind (stream.zeroExtend 8) payload) = { kind := kind, stream := stream, payload := payload }) ∧
      ∀ bytes : List Byte, (receivedCommand bytes).wf = true

/-- Job frames on an IDLE or a DISCARD stream (R4). Derived from 01_jobs_and_the_spool.md R4,
10_the_job_link_and_management.md R166. -/
def Obligations.JobFramesOnIdleAndDiscardStreams : Prop :=
  ∀ (s u : State) (i : Fin 15) (c : Instr), s.jli.restart = none → u = s.silenceRule → c.wf = true →
      (u.stream i = .idle →
        ((∃ d, c = .sheet (streamNumber i) d) ∨ (∃ bytes, c = .data (streamNumber i) bytes) ∨
          c = .jobClose (streamNumber i) ∨ c = .jobAbort (streamNumber i)) →
        ∃ t, exec c s = .next t ∧
          LinesOnly { u with jli := { u.jli with strayFrames := min 65535 (u.jli.strayFrames + 1) } } t) ∧
      (u.stream i = .discard →
        ((∃ r, c = .jobOpen (streamNumber i) r) ∨ (∃ d, c = .sheet (streamNumber i) d) ∨
          ∃ bytes, c = .data (streamNumber i) bytes) →
        ∃ t, exec c s = .next t ∧ LinesOnly u t) ∧
      (u.stream i = .discard → (c = .jobClose (streamNumber i) ∨ c = .jobAbort (streamNumber i)) →
        ∃ t, exec c s = .next t ∧ LinesOnly { u with spm := { u.spm with streams := put u.spm.streams i .idle } } t)

/-- A JOB_OPEN that passes the seven checks fills the lowest FREE slot (R38 to R40). Derived from
02_routing_and_admission.md R31, R32, R33, R35, R38, R39, R40, 01_jobs_and_the_spool.md R5. -/
def Obligations.JobOpenIsAdmitted : Prop :=
  ∀ (s u : State) (i : Fin 15) (r : OpenRequest) (a : Fin 512) (j : Fin 128),
      s.jli.restart = none → u = s.silenceRule → u.stream i = .idle →
      (∀ n, 1 ≤ n → n ≤ 7 → AdmissionPasses u r n) → ChargedNumber (u.routeOf r) r = some a.val →
      u.job j = none → (∀ k, k < j → u.job k ≠ none) →
      ∃ t, exec (.jobOpen (streamNumber i) r) s = .next t ∧
        LinesOnly { u with
          spm := { u.spm with
            jobs := put u.spm.jobs j (some
              { phase := .spooling
                tag := r.tag
                stream := some i
                isOpen := true
                route := r.queueTag
                pool := (u.routeOf r).pool
                account := a
                tariffClass := (u.routeOf r).tariffClass
                bank := u.chg.current
                priority := match r.priority with
                  | some n => ⟨min n.toNat 3, by omega⟩
                  | none => (u.routeOf r).priority
                arrival := u.rcl.arrival
                needs := r.needs
                copies := if r.copies.toNat = 0 then 1 else min r.copies.toNat 99
                sheets := 0
                sheetList := []
                releasePos := 0
                confirmPos := 0
                holds := { operator := false, arrival := (u.routeOf r).holdOnArrival, budget := false }
                drain := none
                stalled := false
                printer := none
                lastPrinter := none
                chargeTotal := 0
                sheetsLost := 0
                startThreshold := (u.routeOf r).startThreshold
                ending := none })
            streams := put u.spm.streams i (.opened j) }
          rcl := { u.rcl with arrival := u.rcl.arrival + 1#32 }
          acm := { u.acm with
            accounts := put u.acm.accounts a { u.account a with bound := (u.account a).bound + 1 } }
          chg := { u.chg with
            bound := put u.chg.bound u.chg.current (u.chg.bound.get u.chg.current + 1) } } t

/-- A JOB_OPEN is refused with the cause of the first check that fails (R32), and takes no state (R37). Derived from
02_routing_and_admission.md R31, R32, R33, R34, R35, R36, R37, 01_jobs_and_the_spool.md R5, R24. -/
def Obligations.JobOpenIsRefusedByTheFirstFailingCheck : Prop :=
  ∀ (s u : State) (i : Fin 15) (r : OpenRequest) (n : Nat),
      s.jli.restart = none → u = s.silenceRule → u.stream i = .idle →
      1 ≤ n → n ≤ 7 → (∀ m, 1 ≤ m → m < n → AdmissionPasses u r m) → ¬AdmissionPasses u r n →
      ∃ w t, exec (.jobOpen (streamNumber i) r) s = .next t ∧
        w = u.hand (.jobReport
          { tag := r.tag
            outcome := .refused
            cause := admissionCause n
            account := if (u.routeOf r).valid then ChargedNumber (u.routeOf r) r else none
            sheets := 0
            copies := if r.copies.toNat = 0 then 1 else min r.copies.toNat 99
            delivered := 0
            sheetsLost := 0
            chargeTotal := 0
            lastPrinter := none }) ∧
        LinesOnly { w with spm := { w.spm with streams := put w.spm.streams i .discard } } t

/-- A JOB_OPEN on an OPEN stream cancels the bound job first and is then taken as on an IDLE one (R4, R5). Derived
from 01_jobs_and_the_spool.md R4, R5, 02_routing_and_admission.md R36,
08_interrupted_printing_jams_lost_printers_and_canc.md R145. What rests on the model's choices, assumption log 43, is
named in its text: Where that job is PRINTING, also one that drains, on a LOST printer with sheets in its window, it
ends at once with its report the first frame handed over, without the gate retry and the drain end of R63: the model's
choice (assumption log 43). -/
def Obligations.JobOpenOnAnOpenStream : Prop :=
  ∀ (s u w : State) (i : Fin 15) (r : OpenRequest) (j : Fin 128) (x : Job),
      s.jli.restart = none → u = s.silenceRule → u.stream i = .opened j → u.job j = some x → x.phase ≠ .cancelling →
      w = u.cancelJob j .cancelled .streamReopened →
      exec (.jobOpen (streamNumber i) r) s =
          exec (.jobOpen (streamNumber i) r) { w with spm := { w.spm with streams := put w.spm.streams i .idle } } ∧
        Cancelled u w j x .cancelled .streamReopened ∧ PrintingOnly u w

/-- A SHEET or DATA that cannot be taken ends its job from the stream, as ERROR or DAMAGED (R9, R14, R15). Derived
from 01_jobs_and_the_spool.md R9, R10, R11, R14, R15, R23, 08_interrupted_printing_jams_lost_printers_and_canc.md
R145. What rests on the model's choices, assumption log 43, is named in its text: Where that job is PRINTING, also one
that drains, on a LOST printer with sheets in its window, it ends at once with its report the first frame handed over,
without the gate retry and the drain end of R63: the model's choice (assumption log 43). -/
def Obligations.FaultyFramesEndTheJob : Prop :=
  ∀ (s u : State) (i : Fin 15) (j : Fin 128) (x : Job),
      s.jli.restart = none → u = s.silenceRule → u.stream i = .opened j → u.job j = some x → x.phase ≠ .cancelling →
      (∀ (d : SheetDecl) (cause : Cause),
        ((d.sides ≠ 1#8 ∧ d.sides ≠ 2#8 ∧ cause = .badSheet) ∨
          ((d.sides = 1#8 ∨ d.sides = 2#8) ∧ cause = .sheetExceeds ∧
            ((x.needs.colour = false ∧ (d.colour1 = true ∨ (d.sides = 2#8 ∧ d.colour2 = true))) ∨
              (x.needs.duplex = false ∧ d.sides = 2#8) ∨ x.needs.sizeMask.getLsbD d.sizeClass.toNat = false ∨
              x.needs.mediaMask.getLsbD d.media.toNat = false))) →
        ∃ v t, exec (.sheet (streamNumber i) d) s = .next t ∧ LinesOnly v t ∧ Cancelled u v j x .error cause ∧
          PrintingOnly { u with spm := { u.spm with streams := put u.spm.streams i .discard } } v) ∧
      (∀ (c : Instr) (cause : Cause) (w : State),
        ((∃ d, c = .sheet (streamNumber i) d ∧ sheetFault x.needs d = none ∧ 16384 ≤ u.spm.descs.length ∧
            cause = .noDescriptor) ∨
          ∃ bytes n d, c = .data (streamNumber i) bytes ∧ c.wf = true ∧ bytes ≠ [] ∧ u.lastIncomplete x = some (n, d) ∧
            ((16777216 < d.byteLen + bytes.length ∧ cause = .sheetTooLarge) ∨
              (d.byteLen + bytes.length ≤ 16777216 ∧ cause = .noBlock ∧
                u.spm.freeList.length < (d.byteLen + bytes.length + 4095) / 4096 - (d.byteLen + 4095) / 4096))) →
        w = u.raiseAt { kind := .jobTag, index := x.tag.toNat, cls := .jobDamaged } false u.now →
        ∃ v t, exec c s = .next t ∧ LinesOnly v t ∧ Cancelled w v j x .damaged cause ∧
          PrintingOnly { w with spm := { w.spm with streams := put w.spm.streams i .discard } } v ∧
          v.arl.queue.filter (hasKey (damagedKey x.tag)) = w.arl.queue.filter (hasKey (damagedKey x.tag)) ∧
          w.jli.tx <+: v.jli.tx)

/-- A SHEET takes the lowest free descriptor and completes the sheet before it (R6, R10, R18). Derived from
01_jobs_and_the_spool.md R6, R9, R10, R18, R19. -/
def Obligations.SheetIsTaken : Prop :=
  ∀ (s u : State) (i : Fin 15) (j : Fin 128) (x : Job) (d : SheetDecl) (n : Nat) (y : SheetDesc),
      s.jli.restart = none → u = s.silenceRule → u.stream i = .opened j → u.job j = some x → SpoolOk u →
      sheetFault x.needs d = none → n < 16384 → findDesc u.spm.descs n = none →
      (∀ k, k < n → findDesc u.spm.descs k ≠ none) →
      y = { sides := d.sides.toNat
            sizeClass := Fin.ofNat 4 d.sizeClass.toNat
            media := Fin.ofNat 4 d.media.toNat
            ink1 := if d.colour1 then .colour else .mono
            ink2 := if d.sides = 2#8 then some (if d.colour2 then .colour else .mono) else none
            byteLen := 0
            complete := false
            blocks := [] } →
      (u.lastIncomplete x = none →
        ∃ t, exec (.sheet (streamNumber i) d) s = .next t ∧
          LinesOnly { u with spm := { u.spm with
            descs := putDesc u.spm.descs n y
            jobs := put u.spm.jobs j (some { x with sheetList := x.sheetList ++ [n] }) } } t) ∧
      ∀ m z w, u.lastIncomplete x = some (m, z) →
        w = { u with spm := { u.spm with
          descs := putDesc u.spm.descs m { z with complete := true }
          jobs := put u.spm.jobs j (some { x with sheets := x.sheets + 1 }) } } →
        ∃ v x' t, exec (.sheet (streamNumber i) d) s = .next t ∧ DispatchOnly w v ∧ v.job j = some x' ∧
          LinesOnly { v with spm := { v.spm with
            descs := putDesc v.spm.descs n y
            jobs := put v.spm.jobs j (some { x' with sheetList := x'.sheetList ++ [n] }) } } t ∧
          ((x.phase = .queued ∨ x.phase = .held ∨
            (x.phase = .spooling ∧ (x.startThreshold = 0 ∨ x.sheets + 1 ≠ x.startThreshold))) → v = w) ∧
          (x.phase = .spooling → 0 < x.startThreshold → x.sheets + 1 = x.startThreshold →
            (noHolds x.holds = false → x' = { x with sheets := x.sheets + 1, phase := .held }) ∧
            (noHolds x.holds = true → x'.phase ≠ .spooling))

/-- A DATA goes to the last sheet's image, in blocks from the head of the free list (R7, R11). Derived from
01_jobs_and_the_spool.md R4, R7, R11, R16, 10_the_job_link_and_management.md R166. -/
def Obligations.DataIsStored : Prop :=
  ∀ (s u : State) (i : Fin 15) (j : Fin 128) (x : Job) (bytes : List Byte),
      s.jli.restart = none → u = s.silenceRule → u.stream i = .opened j → u.job j = some x →
      (Instr.data (streamNumber i) bytes).wf = true →
      (u.lastIncomplete x = none → ∃ t, exec (.data (streamNumber i) bytes) s = .next t ∧
        LinesOnly { u with jli := { u.jli with strayFrames := min 65535 (u.jli.strayFrames + 1) } } t) ∧
      ∀ n d, u.lastIncomplete x = some (n, d) →
        (bytes = [] → ∃ t, exec (.data (streamNumber i) bytes) s = .next t ∧ LinesOnly u t) ∧
        (SpoolOk u → Memory.wf u.spm.dram = true → bytes ≠ [] → d.byteLen + bytes.length ≤ 16777216 → ∀ need blocks,
          need = (d.byteLen + bytes.length + 4095) / 4096 - (d.byteLen + 4095) / 4096 →
          need ≤ u.spm.freeList.length → blocks = d.blocks ++ u.spm.freeList.take need →
          ∃ w t : State, exec (.data (streamNumber i) bytes) s = .next t ∧ LinesOnly w.applyWatermarks t ∧
            w = { u with spm := { u.spm with
              freeList := u.spm.freeList.drop need
              descs := putDesc u.spm.descs n { d with byteLen := d.byteLen + bytes.length, blocks := blocks }
              dram := w.spm.dram } } ∧
            (∀ k a b, imageAddress blocks (d.byteLen + k) = some a → bytes[k]? = some b → Memory.read w.spm.dram a = b) ∧
            (∀ a, (∀ k, k < bytes.length → imageAddress blocks (d.byteLen + k) ≠ some a) →
              Memory.read w.spm.dram a = Memory.read u.spm.dram a) ∧
            (d.blocks.length = (d.byteLen + 4095) / 4096 →
              ∀ k, k < bytes.length → ∃ a, imageAddress blocks (d.byteLen + k) = some a))

/-- JOB_CLOSE completes the last sheet, unbinds the stream and ends an empty job (R12, R18). Derived from
01_jobs_and_the_spool.md R12, R18, R19, R22. -/
def Obligations.JobCloseEndsTheInput : Prop :=
  ∀ (s u w : State) (i : Fin 15) (j : Fin 128) (x y : Job),
      s.jli.restart = none → u = s.silenceRule → u.stream i = .opened j → u.job j = some x → SpoolOk u →
      y = { x with
        isOpen := false
        stream := none
        sheets := if (u.lastIncomplete x).isSome then x.sheets + 1 else x.sheets } →
      w = { u with spm := { u.spm with
        streams := put u.spm.streams i .idle
        jobs := put u.spm.jobs j (some y)
        descs := match u.lastIncomplete x with
          | some (n, d) => putDesc u.spm.descs n { d with complete := true }
          | none => u.spm.descs } } →
      (y.sheets = 0 → (∀ p, x.printer = some p → (u.disp p).assigned = some j) →
        ∃ v t, exec (.jobClose (streamNumber i)) s = .next t ∧ LinesOnly v t ∧ v.job j = none ∧
        HandedFirst u (.jobReport (reportOf y .completed .none)) v ∧ PrintingOnly w v) ∧
      (y.sheets ≠ 0 → ∃ v y' t, exec (.jobClose (streamNumber i)) s = .next t ∧ LinesOnly v t ∧ DispatchOnly w v ∧
        v.job j = some y' ∧
        ((x.phase = .queued ∨ x.phase = .held) → v = w) ∧
        (x.phase = .spooling → noHolds x.holds = false → v = { w with spm := { w.spm with
          jobs := put w.spm.jobs j (some { y with phase := .held }) } }) ∧
        (x.phase = .spooling → noHolds x.holds = true → y'.phase ≠ .spooling))

/-- JOB_ABORT and CANCEL_JOB take the cancellation path (R145 to R148). Derived from
08_interrupted_printing_jams_lost_printers_and_canc.md R145, R146, R147, R148, 01_jobs_and_the_spool.md R13, R23. What
rests on the model's choices, assumption log 43, is named in its text: A job in SPOOLING, QUEUED, HELD, or PRINTING on
an empty window ends at once; one with sheets in its window enters CANCELLING with needs-drop set and its window kept;
on a LOST printer the window is lost and the job ends at once with its report the first frame handed over, also one
that drains, without the gate retry and the drain end of R63: the model's choice (assumption log 43). -/
def Obligations.CancellationPath : Prop :=
  ∀ s u : State, s.jli.restart = none → u = s.silenceRule →
      (∀ token tag, (∀ k y, u.job k = some y → y.tag ≠ tag) →
        ∃ t, exec (.cancelJob token tag) s = .next t ∧
          LinesOnly (u.hand (.commandReply token 1#8 .unknownJob [])) t) ∧
      ∀ (j : Fin 128) (x : Job), u.job j = some x →
      (∀ i : Fin 15, u.stream i = .opened j → x.phase ≠ .cancelling →
        ∃ v t, exec (.jobAbort (streamNumber i)) s = .next t ∧ LinesOnly v t ∧ Cancelled u v j x .cancelled .aborted ∧
          PrintingOnly { u with spm := { u.spm with streams := put u.spm.streams i .idle } } v) ∧
      (∀ token, (∀ k y, u.job k = some y → y.tag = x.tag → k = j) →
        (x.phase = .cancelling → ∃ t, exec (.cancelJob token x.tag) s = .next t ∧
          LinesOnly (u.hand (.commandReply token 1#8 .badState [])) t) ∧
        (x.phase ≠ .cancelling → ∃ v t, exec (.cancelJob token x.tag) s = .next t ∧
          LinesOnly (v.hand (.commandReply token 1#8 .ok [])) t ∧ Cancelled u v j x .cancelled .operator ∧
          PrintingOnly { u with spm := { u.spm with streams := match x.stream with
            | some i => put u.spm.streams i .discard
            | none => u.spm.streams } } v))

/-- The end of a job reports it, and frees its blocks, descriptors, slot and bound counts (R22, R24). Derived from
01_jobs_and_the_spool.md R8, R22, R24, 06_charging_arithmetic_and_tariff_banks.md R109, 07_accounts_and_meters.md
R121. -/
def Obligations.JobEndFreesWhatTheJobHeld : Prop :=
  ∀ (s v : State) (j : Fin 128) (x : Job) (o : JobOutcome) (c : Cause), s.job j = some x → SpoolOk s →
      v = s.endJob j o c →
      v.job j = none ∧
        HandedFirst s (.jobReport
          { tag := x.tag
            outcome := o
            cause := c
            account := some x.account.val
            sheets := x.sheets
            copies := x.copies
            delivered := x.confirmPos
            sheetsLost := x.sheetsLost
            chargeTotal := x.chargeTotal
            lastPrinter := x.lastPrinter }) v ∧
        v.spm.freeList = s.spm.freeList ++ x.sheetList.flatMap (fun n =>
          match findDesc s.spm.descs n with
          | some d => d.blocks
          | none => []) ∧
        (∀ n, findDesc v.spm.descs n = if n ∈ x.sheetList then none else findDesc s.spm.descs n) ∧
        (v.account x.account).bound = (s.account x.account).bound - 1 ∧
        v.chg.bound.get x.bank = s.chg.bound.get x.bank - 1 ∧ j ∉ (v.pool x.pool).queue ∧ PrintingOnly s v

/-- The watermarks: PAUSE below 2048 free blocks, RESUME at 4096 or more (R16). Derived from 01_jobs_and_the_spool.md
R7, R16. -/
def Obligations.WatermarksPauseAndResume : Prop :=
  ∀ (s w : State) (n : Nat), n = s.spm.freeList.length →
      s.freeBlocks = n ∧
      (s.spm.paused = false → n < 2048 → w = s.hand (.pause n) →
        s.applyWatermarks = ({ w with spm := { w.spm with paused := true } } : State).raiseAt
          { kind := .device, index := 0, cls := .spoolLow } true s.now) ∧
      (s.spm.paused = true → 4096 ≤ n → w = s.hand (.resume n) →
        s.applyWatermarks = ({ w with spm := { w.spm with paused := false } } : State).clear
          { kind := .device, index := 0, cls := .spoolLow }) ∧
      (s.spm.paused = false → 2048 ≤ n → s.applyWatermarks = s) ∧
      (s.spm.paused = true → n < 4096 → s.applyWatermarks = s)

/-- TABLE_READ answers as many whole entries as fit, each as it stands, and the bytes of an entry (R170, R171, R175).
Derived from 10_the_job_link_and_management.md R169, R170, R171, R175, 01_jobs_and_the_spool.md R24,
03_pools_and_dispatch.md R42, 04_drop_lines.md R72, 05_the_drop_protocol_and_printer_records.md R90,
07_accounts_and_meters.md R133, 09_alert_queue_beacons_and_sense_inputs.md R152. What rests on the model's choices,
assumption log 15, 16, is named in its text: A count of 0 or above 32 is refused MALFORMED, then an unknown table
BAD_TABLE, then a range past the table's end BAD_INDEX, each with count 0 and no entries; that such a reply repeats
the table id and first index asked for is inferred (assumption log 16). How the fields of a PRINTER and the flags of
an ALERT-QUEUE entry fill their bytes, and that a stopped stall timer reads as absent, is the model's choice
(assumption log 15). -/
def Obligations.TableReadsReturnTheEntries : Prop :=
  (∀ (s u : State) (token table : Byte) (first : Half) (count : Byte), s.jli.restart = none → u = s.silenceRule →
        ((count.toNat = 0 ∨ 32 < count.toNat) → ∃ t, exec (.tableRead token table first count) s = .next t ∧
          LinesOnly (u.hand (.readReply token .malformed table first 0 [])) t) ∧
        (1 ≤ count.toNat → count.toNat ≤ 32 →
          (tableShape table = none → ∃ t, exec (.tableRead token table first count) s = .next t ∧
            LinesOnly (u.hand (.readReply token .badTable table first 0 [])) t) ∧
          ∀ size entry, tableShape table = some (size, entry) →
            (size < first.toNat + count.toNat → ∃ t, exec (.tableRead token table first count) s = .next t ∧
              LinesOnly (u.hand (.readReply token .badIndex table first 0 [])) t) ∧
            (first.toNat + count.toNat ≤ size → ∃ (es : List (List Byte)) (t : State),
              exec (.tableRead token table first count) s = .next t ∧
              LinesOnly (u.hand (.readReply token .ok table first es.length es.flatten)) t ∧
              es.length ≤ count.toNat ∧ es.flatten.length ≤ 1018 ∧
              (∀ k, k < es.length → u.readEntry table (first.toNat + k) = es[k]?) ∧
              (es.length < count.toNat → ∀ b, u.readEntry table (first.toNat + es.length) = some b →
                1018 < es.flatten.length + b.length) ∧
              ((∀ k, (u.pool k).queue.length ≤ 128) → 1 ≤ es.length)))) ∧
      ∀ s : State,
        (∀ j x, s.job j = some x → ∃ bytes, s.readEntry 16#8 j.val = some bytes ∧ bytes.length = 44 ∧
          ∀ absent : Option Nat → Byte, absent none = 0xFF#8 → (∀ n, absent (some n) = BitVec.ofNat 8 n) →
            bytes = [BitVec.ofNat 8 ([Phase.spooling, .queued, .held, .printing, .cancelling].idxOf x.phase + 1)] ++
              beBytes 2 x.tag.toNat ++
              [absent (x.stream.map fun i => i.val + 1), if x.isOpen then 1#8 else 0#8, x.route,
                BitVec.ofNat 8 x.pool.val] ++ beBytes 2 x.account.val ++
              [BitVec.ofNat 8 x.tariffClass.val, BitVec.ofNat 8 x.bank.val, BitVec.ofNat 8 x.priority.val] ++
              beBytes 4 x.arrival.toNat ++
              [(if x.needs.colour then 1#8 else 0#8) ||| (if x.needs.duplex then 2#8 else 0#8),
                x.needs.sizeMask.zeroExtend 8, x.needs.mediaMask.zeroExtend 8, BitVec.ofNat 8 x.copies] ++
              beBytes 2 x.sheets ++ beBytes 4 x.releasePos ++ beBytes 4 x.confirmPos ++
              [(if x.holds.operator then 1#8 else 0#8) ||| (if x.holds.arrival then 2#8 else 0#8) |||
                  (if x.holds.budget then 4#8 else 0#8),
                absent (x.drain.map fun r => [DrainReason.hold, .budget, .service].idxOf r),
                if x.stalled then 1#8 else 0#8, absent (x.printer.map Fin.val), absent (x.lastPrinter.map Fin.val)] ++
              beBytes 4 x.chargeTotal ++ beBytes 2 x.sheetsLost ++
              [BitVec.ofNat 8 x.startThreshold,
                absent (x.ending.map fun e => [JobOutcome.completed, .cancelled, .damaged, .error, .refused].idxOf e.1),
                absent (x.ending.map fun e => [Cause.none, .operator, .aborted, .streamReopened, .noBlock, .sheetTooLarge,
                  .noDescriptor, .sheetExceeds, .badSheet, .duplicateTag, .noRoute, .accountMissing, .accountInvalid,
                  .notPermitted, .noCapablePrinter, .noJobSlot].idxOf e.2)]) ∧
        (∀ j, s.job j = none → ∃ bytes, s.readEntry 16#8 j.val = some bytes ∧ bytes.length = 44 ∧
          ∀ i b, bytes[i]? = some b → b = if i ∈ [3, 31, 33, 34, 42, 43] then 0xFF#8 else 0#8) ∧
        (∀ k (x : Pool) (tags : List Half), x = s.pool k →
          (x.queue.map fun j => (s.job j).map Job.tag) = tags.map some →
          s.readEntry 2#8 k.val = some ([if x.enabled then 1#8 else 0#8] ++ beBytes 2 x.reroute ++
            [BitVec.ofNat 8 x.pointer.val, BitVec.ofNat 8 x.queue.length] ++
            (tags.map fun g => beBytes 2 g.toNat).flatten)) ∧
        (∀ p (r : Printer), r = s.printer p → ∃ bytes, s.readEntry 4#8 p.val = some bytes ∧ bytes.length = 24 ∧
          ∀ absent : Option Nat → Byte, absent none = 0xFF#8 → (∀ n, absent (some n) = BitVec.ofNat 8 n) →
            bytes = [(if r.config.configured then 1#8 else 0#8) ||| (if r.config.colour then 2#8 else 0#8) |||
                (if r.config.duplex then 4#8 else 0#8) ||| (if r.inService then 0#8 else 8#8) |||
                (if r.needsDrop then 16#8 else 0#8),
              absent (r.config.pool.map Fin.val), r.config.mediaMask ++ r.config.sizeMask,
              BitVec.ofNat 8 r.config.limit, BitVec.ofNat 8 ([LinkState.unknown, .answering, .lost].idxOf r.link),
              BitVec.ofNat 8 r.missed,
              absent (r.condition.map fun c =>
                [Condition.ready, .warming, .jam, .doorOpen, .trayEmpty, .tonerOut].idxOf c),
              BitVec.ofNat 8 r.room, r.nextFeed, absent (r.dropFrom.map BitVec.toNat)] ++ beBytes 4 r.pollDue.toNat ++
              (match (s.disp p).stall with
                | some expiry => beBytes 4 expiry.toNat
                | none => List.replicate 4 0xFF#8) ++
              beBytes 2 r.unmatched ++
              (match r.stage with
                | some .start => [0#8, 0#8, 0#8]
                | some (.data n) => beBytes 3 (n + 1)
                | none => List.replicate 3 0xFF#8) ++ [BitVec.ofNat 8 r.naks]) ∧
        (∀ (i : Nat) (e : AlertEntry), i < 64 → s.arl.queue[i]? = some e →
          ∃ bytes kind cls, s.readEntry 17#8 i = some bytes ∧ bytes.length = 15 ∧
            sourceOfCode kind = some e.key.kind ∧ classOfCode cls = some e.key.cls ∧
            bytes = [BitVec.ofNat 8 kind] ++ beBytes 2 e.key.index ++
              [BitVec.ofNat 8 cls, BitVec.ofNat 8 (severity e.key.cls),
                (if e.active then 1#8 else 0#8) ||| (if e.acked then 2#8 else 0#8) ||| (if e.sent then 4#8 else 0#8)] ++
              beBytes 4 e.firstTime.toNat ++ beBytes 4 e.lastTime.toNat ++ [BitVec.ofNat 8 e.count]) ∧
        (∀ i : Nat, i < 64 → s.arl.queue.length ≤ i → s.readEntry 17#8 i = some (List.replicate 15 0#8)) ∧
        (∀ (p : Fin 32) (m : Meters), m = s.acm.meters.get p → s.readEntry 18#8 p.val = some
          (beBytes 4 m.sheets.value ++ [BitVec.ofNat 8 m.sheets.rolls] ++ beBytes 4 m.mono.value ++
            [BitVec.ofNat 8 m.mono.rolls] ++ beBytes 4 m.colour.value ++ [BitVec.ofNat 8 m.colour.rolls])) ∧
        (∀ q (x : Port), x = s.port q → s.readEntry 19#8 q.val = some
          ([BitVec.ofNat 8 ([LineState.disabled, .idle, .transmitting, .awaiting, .receiving, .recovering, .faulted].idxOf
              x.line)] ++ beBytes 2 x.noise ++ beBytes 2 x.framing ++ beBytes 2 x.contention ++
            beBytes 2 x.protocolErrors ++ [x.attention.zeroExtend 8, BitVec.ofNat 8 x.control.length,
              BitVec.ofNat 8 x.lastDrop.val, if x.restartPending then 1#8 else 0#8])) ∧
        s.readEntry 20#8 0 = some
          ([BitVec.ofNat 8 ([ResetCause.powerOn, .resetLine, .restart].idxOf s.mgu.cause)] ++
            beBytes 2 s.spm.freeList.length ++ beBytes 2 (16384 - s.spm.descs.length) ++
            [BitVec.ofNat 8 ((List.finRange 128).filter fun j => (s.job j).isSome).length] ++
            beBytes 2 s.jli.linkErrors ++ beBytes 2 s.jli.strayFrames ++ beBytes 2 s.arl.dropped ++
            [if s.mgu.attended then 0#8 else 1#8, BitVec.ofNat 8 s.chg.current.val,
              BitVec.ofNat 8 (s.chg.bound.get 0), BitVec.ofNat 8 (s.chg.bound.get 1)] ++ beBytes 4 s.now.toNat)

/-- An entry read and written back is the entry: ROUTE, PORT, TARIFF, ACCOUNT, ALERT-SETUP, DEVICE-CONFIG. Derived
from 10_the_job_link_and_management.md R171, R177, 06_charging_arithmetic_and_tariff_banks.md R107, 04_drop_lines.md
R70, 07_accounts_and_meters.md R117, 09_alert_queue_beacons_and_sense_inputs.md R164. -/
def Obligations.EntriesReadAsTheyAreWritten : Prop :=
  (∀ x : Route, x.startThreshold ≤ 255 → (routeBytes x).length = 7 ∧ storedRoute (readRouteEntry (routeBytes x)) = x) ∧
      (∀ x : PortConfig, PortConfigOk x → (portBytes x).length = 5 ∧ storedPort (readPortEntry (portBytes x)) = x) ∧
      (∀ c : TariffClass, (tariffBytes c).length = 26 ∧ readTariffClass (tariffBytes c) = c) ∧
      (∀ a : Account, AccountOk a → (accountBytes a).length = 34 ∧
        ∀ old, storedAccount old (readAccountEntry (accountBytes a)) =
          { a with reserved := old.reserved, bound := old.bound }) ∧
      (∀ a : Arl, (halfAt (setupBytes a 0) 0).truncate 12 = a.mask) ∧
      (∀ (a : Arl) (p : Fin 32), beaconOrNone (halfAt (setupBytes a (1 + p.val)) 0).toNat = a.printerBeacon.get p ∧
        storedMode (halfAt (setupBytes a (42 + p.val)) 0) = (a.sense.get p).mode) ∧
      (∀ (a : Arl) (q : Fin 8), beaconOrNone (halfAt (setupBytes a (33 + q.val)) 0).toNat = a.portBeacon.get q) ∧
      (∀ a : Arl, beaconOrNone (halfAt (setupBytes a 41) 0).toNat = a.officeBeacon) ∧
      ∀ s : State, s.mgu.timeout ≤ 255 → s.deviceConfigBytes.length = 3 ∧
        (readDeviceConfigEntry s.deviceConfigBytes).timeout.toNat = s.mgu.timeout ∧
        ((readDeviceConfigEntry s.deviceConfigBytes).action == 1#8) = s.mgu.holdAction ∧
        beaconOrNone (readDeviceConfigEntry s.deviceConfigBytes).beacon.toNat = s.arl.officeBeacon

/-- TABLE_WRITE is refused by the first test that fails, and else is the typed write of its table (R169). Derived from
10_the_job_link_and_management.md R169, R171. -/
def Obligations.RawTableWritesAreTestedInOrder : Prop :=
  ∀ (s u : State) (token table : Byte) (first : Half) (count : Byte) (bytes : List Byte),
      s.jli.restart = none → u = s.silenceRule →
      ((count.toNat = 0 ∨ 32 < count.toNat) → ∃ t, exec (.tableWrite token table first count bytes) s = .next t ∧
        LinesOnly (u.hand (.commandReply token 0#8 .malformed [0#8])) t) ∧
      (1 ≤ count.toNat → count.toNat ≤ 32 →
        ((tableShape table = none ∨ ∃ size, tableShape table = some (size, none)) →
          ∃ t, exec (.tableWrite token table first count bytes) s = .next t ∧
            LinesOnly (u.hand (.commandReply token 0#8 .badTable [0#8])) t) ∧
        ∀ size entry, tableShape table = some (size, some entry) →
          (size < first.toNat + count.toNat → ∃ t, exec (.tableWrite token table first count bytes) s = .next t ∧
            LinesOnly (u.hand (.commandReply token 0#8 .badIndex [0#8])) t) ∧
          (first.toNat + count.toNat ≤ size → bytes.length ≠ count.toNat * entry →
            ∃ t, exec (.tableWrite token table first count bytes) s = .next t ∧
              LinesOnly (u.hand (.commandReply token 0#8 .malformed [0#8])) t) ∧
          (first.toNat + count.toNat ≤ size → bytes.length = count.toNat * entry →
            (∀ e, writeCommand token table first count bytes ≠ .tableWrite token table first count e) ∧
            ∃ t, exec (.tableWrite token table first count bytes) s = .next t ∧
              exec (writeCommand token table first count bytes) s = .next t))

/-- A table write applies its entries in index order until one is refused, and then answers (R169). Derived from
10_the_job_link_and_management.md R168, R169. -/
def Obligations.WritesApplyInIndexOrder : Prop :=
  ∀ (s u : State) (token : Byte) (first : Half), s.jli.restart = none → u = s.silenceRule →
      (∀ l, (Instr.routeWrite token first l).wf = true → ∃ t, exec (.routeWrite token first l) s = .next t ∧
        AppliedInOrder State.writeRoute u token first l t) ∧
      (∀ l, (Instr.poolWrite token first l).wf = true → ∃ t, exec (.poolWrite token first l) s = .next t ∧
        AppliedInOrder State.writePool u token first l t) ∧
      (∀ l, (Instr.portWrite token first l).wf = true → ∃ t, exec (.portWrite token first l) s = .next t ∧
        AppliedInOrder State.writePort u token first l t) ∧
      (∀ l, (Instr.printerWrite token first l).wf = true → ∃ t, exec (.printerWrite token first l) s = .next t ∧
        AppliedInOrder State.writePrinter u token first l t) ∧
      (∀ l, (Instr.accountWrite token first l).wf = true → ∃ t, exec (.accountWrite token first l) s = .next t ∧
        AppliedInOrder State.writeAccount u token first l t) ∧
      (∀ l, (Instr.alertSetupWrite token first l).wf = true → ∃ t, exec (.alertSetupWrite token first l) s = .next t ∧
        AppliedInOrder State.writeSetup u token first l t) ∧
      (∀ l, (Instr.deviceConfigWrite token first l).wf = true → ∃ t, exec (.deviceConfigWrite token first l) s = .next t ∧
        AppliedInOrder State.writeDeviceConfig u token first l t)

/-- A ROUTE write stores the route clamped, its interlocks tested on the clamped values (R28). States R28. -/
def Obligations.RouteIsStoredClamped : Prop :=
  ∀ (s u : State) (token : Byte) (r : Fin 256) (e : RouteEntry) (x : Route), s.jli.restart = none → u = s.silenceRule →
      x = { valid := e.valid
            pool := ⟨min e.pool.toNat 15, by omega⟩
            tariffClass := ⟨min e.tariffClass.toNat 15, by omega⟩
            fromJob := e.fromJob
            fixedAccount := ⟨min e.fixedAccount.toNat 511, by omega⟩
            priority := ⟨min e.priority.toNat 3, by omega⟩
            startThreshold := e.startThreshold.toNat
            holdOnArrival := e.holdOnArrival
            colour := e.colour
            duplex := e.duplex } →
      ∃ t, exec (.routeWrite token (indexOf r.val) [e]) s = .next t ∧
        ((x.valid = false ∨
            ((u.pool x.pool).enabled = true ∧ (x.fromJob = true ∨ (u.account x.fixedAccount).valid = true))) →
          LinesOnly (({ u with rcl := { u.rcl with routes := put u.rcl.routes r x } } : State).hand
            (.commandReply token 0#8 .ok [1#8])) t ∧
          t.readEntry 1#8 r.val = some (routeBytes x) ∧ storedRoute (readRouteEntry (routeBytes x)) = x) ∧
        (x.valid = true →
          ((u.pool x.pool).enabled = false ∨ (x.fromJob = false ∧ (u.account x.fixedAccount).valid = false)) →
          LinesOnly (u.hand (.commandReply token 0#8 .interlock [0#8])) t)

/-- A POOL write: the timeout clamped, the pointer and queue kept, a disable refused while the pool is named (R44).
Derived from 03_pools_and_dispatch.md R42, R44, 10_the_job_link_and_management.md R169. -/
def Obligations.PoolWrites : Prop :=
  ∀ (s u : State) (token : Byte) (k : Fin 16) (e : PoolEntry), s.jli.restart = none → u = s.silenceRule →
      ((e.enabled = true ∨
          ((∀ r, (u.route r).valid = true → (u.route r).pool ≠ k) ∧ (∀ j x, u.job j = some x → x.pool ≠ k) ∧
            ∀ p, (u.printer p).config.configured = true → (u.printer p).config.pool ≠ some k)) →
        ∃ t, exec (.poolWrite token (indexOf k.val) [e]) s = .next t ∧
          LinesOnly (({ u with
            dsc := { u.dsc with
              pools := put u.dsc.pools k
                { enabled := e.enabled
                  reroute := min e.reroute.toNat 3600
                  pointer := (u.pool k).pointer
                  queue := (u.pool k).queue } } } : State).hand (.commandReply token 0#8 .ok [1#8])) t) ∧
      (e.enabled = false →
        ((∃ r, (u.route r).valid = true ∧ (u.route r).pool = k) ∨ (∃ j x, u.job j = some x ∧ x.pool = k) ∨
          ∃ p, (u.printer p).config.configured = true ∧ (u.printer p).config.pool = some k) →
        ∃ t, exec (.poolWrite token (indexOf k.val) [e]) s = .next t ∧
          LinesOnly (u.hand (.commandReply token 0#8 .interlock [0#8])) t)

/-- A PORT write: clamped, held back by an assigned printer, and in use at once outside an exchange (R70, R71).
Derived from 04_drop_lines.md R69, R70, R71, R73, R80, 05_the_drop_protocol_and_printer_records.md R93,
10_the_job_link_and_management.md R169. What rests on the model's choices, assumption log 42, 45, is named in its
text: A rate code above 5, 8 to 255 too, is stored as 5: for those the model's choice (assumption log 45). That the
port is enabled is told by its stored record, also while a write waits for the end of an exchange: the model's choice
(assumption log 42). -/
def Obligations.PortWrites : Prop :=
  ∀ (s u : State) (token : Byte) (q : Fin 8) (e : PortEntry) (c : PortConfig) (x : Port),
      s.jli.restart = none → u = s.silenceRule → x = u.port q →
      c = { enabled := e.enabled
            rate := min e.rate.toNat 5
            window := max 1 (min e.window.toNat 20)
            poll := max 20 (min e.poll.toNat 1000) } →
      (x.config.enabled = true → (∃ d, (u.disp (printerAt q d)).assigned ≠ none) →
        (c.enabled = false ∨ c.rate ≠ x.config.rate ∨ c.window ≠ x.config.window) →
        ∃ t, exec (.portWrite token (indexOf q.val) [e]) s = .next t ∧
          LinesOnly (u.hand (.commandReply token 0#8 .interlock [0#8])) t) ∧
      ((x.config.enabled = false ∨ (∀ d, (u.disp (printerAt q d)).assigned = none) ∨
          (c.enabled = true ∧ c.rate = x.config.rate ∧ c.window = x.config.window)) →
        ∃ v t : State, exec (.portWrite token (indexOf q.val) [e]) s = .next t ∧
          LinesOnly (v.hand (.commandReply token 0#8 .ok [1#8])) t ∧
          ((x.line = .transmitting ∨ x.line = .awaiting ∨ x.line = .receiving ∨
              (x.line = .recovering ∧ x.exchange ≠ none)) →
            v = { u with dlc := put u.dlc q { x with config := c } }) ∧
          (((c.enabled = true ∧
              (x.line = .idle ∨ x.line = .faulted ∨ (x.line = .recovering ∧ x.exchange = none))) ∨
              (c.enabled = false ∧ x.line = .disabled)) →
            v = { u with dlc := put u.dlc q { x with config := c, rateInUse := c.rate, windowInUse := c.window } }) ∧
          (c.enabled = true → x.line = .disabled →
            v = { u with dlc := put u.dlc q { x with
              config := c
              rateInUse := c.rate
              windowInUse := c.window
              line := .recovering
              rx := { mode := .resync, idleFlag := false, ones := 0, startNoisy := false }
              exchange := some lineResetExchange
              reply := []
              restartPending := false
              windowExpiry := none
              recoverExpiry := some (u.now + 50#32)
              restExpiry := none } }) ∧
          (c.enabled = false → AlertsOk u.arl →
            (x.line = .idle ∨ x.line = .faulted ∨ (x.line = .recovering ∧ x.exchange = none)) →
            PrintingOnly { u with dlc := put u.dlc q { x with
              config := c
              rateInUse := c.rate
              windowInUse := c.window
              line := .disabled
              rx := { mode := .resync, idleFlag := false, ones := 0, startNoisy := false }
              attention := 0#4
              control := []
              restartPending := false
              exchange := none
              reply := []
              discarding := false
              windowExpiry := none
              recoverExpiry := none
              restExpiry := none } } v ∧
            (∀ d, (u.printer (printerAt q d)).config.configured = true → v.printer (printerAt q d) =
              { u.printer (printerAt q d) with link := .unknown, missed := 0, condition := none, room := 0 }) ∧
            ∀ a ∈ v.arl.queue, (a.key = portFaultKey q ∨
                ∃ d cls, (u.printer (printerAt q d)).config.configured = true ∧ a.key = printerKey (printerAt q d) cls ∧
                  cls ∈ [AlertClass.jam, .doorOpen, .trayEmpty, .tonerOut, .printerLost]) →
              a.active = false))

/-- PRINTER writes (R88, R89), ADJUST and CLOSE_PERIOD (R128 to R131), and PRINTER_SERVICE (R55). Derived from
05_the_drop_protocol_and_printer_records.md R88, R89, 03_pools_and_dispatch.md R47, R53, R54, R55,
07_accounts_and_meters.md R128, R129, R130, R131, 10_the_job_link_and_management.md R169, R172, R178. What rests on
the model's choices, assumption log 20, 23, 42, is named in its text: Every other is stored and answered OK; only
dispatch acts on it: newly configured, the link is UNKNOWN with no misses, no condition, no room, and the poll due at
once on a port enabled by its stored record (model's choice, assumption log 42); unconfigured, the same, needs-drop
clear, the drop's control blocks and attention gone, its five alerts not active; else only the configuration changes,
and can feed and the offer follow. Else ADJUST adds to the balance, saturating, and answers it; CLOSE_PERIOD answers
the period counters and sets them to 0; CLOSE_PERIOD_ALL answers the sums over the valid accounts and their number,
and sets the counters of those to 0; each then makes an account change for what it names, as
AccountChangeReachesItsJobs has it (its inner order inferred, assumption log 20). OUT: with no job, the service field
is OUT; a second time, nothing; with a PRINTING job, leaving-service is set and the job drains for SERVICE (a
displaced BUDGET drain is tested), on an empty window the drain ends at once and the printer is OUT without the job
(the order inferred, assumption log 23); with a CANCELLING job leaving-service is set. -/
def Obligations.PrinterAndAccountRequests : Prop :=
  ∀ (s u : State) (token : Byte), s.jli.restart = none → u = s.silenceRule →
      (∀ (p : Fin 32) (e : PrinterEntry) (c : PrinterConfig) (x : Printer), x = u.printer p →
        c = { configured := e.configured
              pool := if h : e.pool.toNat < 16 then some ⟨e.pool.toNat, h⟩ else none
              colour := e.colour
              duplex := e.duplex
              sizeMask := e.sizeMask
              mediaMask := e.mediaMask
              limit := max 1 (min e.limit.toNat 8) } →
        (((u.disp p).assigned ≠ none ∨ ∃ k, c.configured = true ∧ c.pool = some k ∧ (u.pool k).enabled = false) →
          ∃ t, exec (.printerWrite token (indexOf p.val) [e]) s = .next t ∧
            LinesOnly (u.hand (.commandReply token 0#8 .interlock [0#8])) t) ∧
        ((u.disp p).assigned = none → (∀ k, c.configured = true → c.pool = some k → (u.pool k).enabled = true) →
          ∃ w v t : State, exec (.printerWrite token (indexOf p.val) [e]) s = .next t ∧
            LinesOnly (v.hand (.commandReply token 0#8 .ok [1#8])) t ∧ DispatchOnly w v ∧
            (c.configured = x.config.configured → w = { u with pra := put u.pra p { x with config := c } } ∧
              v = (w.refreshFeed p).offerPrinter p ∧
              v.printer p = { x with
                config := c
                inService := (v.printer p).inService
                nextFeed := (v.printer p).nextFeed
                stage := (v.printer p).stage
                naks := (v.printer p).naks }) ∧
            (c.configured = true → x.config.configured = false →
              w = { u with pra := put u.pra p { x with
                config := c
                link := .unknown
                missed := 0
                condition := none
                room := 0
                pollDue := if (u.port (portOf p)).config.enabled then u.now else x.pollDue } } ∧
              v.printer p = w.printer p) ∧
            (c.configured = false → x.config.configured = true →
              w = { u with
                pra := put u.pra p { x with
                  config := c
                  link := .unknown
                  missed := 0
                  condition := none
                  room := 0
                  needsDrop := false
                  dropFrom := none }
                dlc := put u.dlc (portOf p) { u.port (portOf p) with
                  control := (u.port (portOf p)).control.filter fun b => b.drop != dropOf p
                  attention := (u.port (portOf p)).attention &&& ~~~(1#4 <<< (dropOf p).val) } } ∧
              v.printer p = w.printer p ∧
              (AlertsOk u.arl → ∀ a ∈ v.arl.queue, ∀ cls ∈ [AlertClass.jam, .doorOpen, .trayEmpty, .tonerOut, .printerLost],
                a.key = printerKey p cls → a.active = false)))) ∧
      (∀ (n : Half) (amount : BitVec 32), (∀ a : Fin 512, a.val = n.toNat → (u.account a).valid = false) →
        (∃ t, exec (.adjust token n amount) s = .next t ∧ LinesOnly (u.hand (.commandReply token 4#8 .badIndex [])) t) ∧
        ∃ t, exec (.closePeriod token n) s = .next t ∧ LinesOnly (u.hand (.commandReply token 5#8 .badIndex [])) t) ∧
      (∀ (a : Fin 512) (amount : BitVec 32) (z : Int) (w : State), (u.account a).valid = true →
        z = max (-2147483648) (min 2147483647 ((u.account a).balance + amount.toInt)) →
        w = { u with acm := { u.acm with accounts := put u.acm.accounts a { u.account a with balance := z } } } →
        ∃ t, exec (.adjust token (indexOf a.val) amount) s = .next t ∧ DispatchOnly w (w.accountChange a) ∧
          LinesOnly ((w.accountChange a).hand (.commandReply token 4#8 .ok (beBytes 4 (BitVec.ofInt 32 z).toNat))) t) ∧
      (∀ (a : Fin 512) (w : State), (u.account a).valid = true →
        w = { u with acm := { u.acm with accounts := put u.acm.accounts a { u.account a with
          periodSheets := 0, periodMono := 0, periodColour := 0, periodCharge := 0 } } } →
        ∃ t, exec (.closePeriod token (indexOf a.val)) s = .next t ∧ DispatchOnly w (w.accountChange a) ∧
          LinesOnly ((w.accountChange a).hand (.commandReply token 5#8 .ok
            (beBytes 4 (u.account a).periodSheets ++ beBytes 4 (u.account a).periodMono ++
              beBytes 4 (u.account a).periodColour ++ beBytes 4 (u.account a).periodCharge))) t) ∧
      (∀ l : List (Fin 512), l = (List.finRange 512).filter (fun a => (u.account a).valid) →
        ∃ w t : State, exec (.closePeriodAll token) s = .next t ∧
          w = { u with acm := { u.acm with accounts := w.acm.accounts } } ∧
          (∀ a, w.account a = if (u.account a).valid then { u.account a with
            periodSheets := 0, periodMono := 0, periodColour := 0, periodCharge := 0 } else u.account a) ∧
          DispatchOnly w (l.foldl State.accountChange w) ∧
          LinesOnly ((l.foldl State.accountChange w).hand (.commandReply token 5#8 .ok
            (beBytes 8 (l.map fun a => (u.account a).periodSheets).sum ++
              beBytes 8 (l.map fun a => (u.account a).periodMono).sum ++
              beBytes 8 (l.map fun a => (u.account a).periodColour).sum ++
              beBytes 8 (l.map fun a => (u.account a).periodCharge).sum ++ beBytes 2 l.length))) t) ∧
      (∀ n : Byte, 32 ≤ n.toNat →
        (∃ t, exec (.printerServiceOut token n) s = .next t ∧ LinesOnly (u.hand (.commandReply token 8#8 .badIndex [])) t) ∧
        ∃ t, exec (.printerServiceIn token n) s = .next t ∧ LinesOnly (u.hand (.commandReply token 8#8 .badIndex [])) t) ∧
      ∀ (n : Byte) (p : Fin 32) (d : Dispatch), p.val = n.toNat → d = u.disp p →
        (∃ v t : State, exec (.printerServiceOut token n) s = .next t ∧ LinesOnly (v.hand (.commandReply token 8#8 .ok [])) t ∧
          (d.assigned = none → v = { u with pra := put u.pra p { u.printer p with inService := false } }) ∧
          (d.assigned ≠ none → d.leaving = true → v = u) ∧
          ∀ j x w, d.assigned = some j → d.leaving = false → u.job j = some x →
            w = { u with
              dsc := { u.dsc with printers := put u.dsc.printers p { d with leaving := true } }
              spm := { u.spm with jobs := put u.spm.jobs j (some { x with drain := some .service }) } } →
            (x.phase = .cancelling →
              v = { u with dsc := { u.dsc with printers := put u.dsc.printers p { d with leaving := true } } }) ∧
            (x.phase = .printing → d.window ≠ [] → v = if x.drain = some .budget then w.budgetTest x.account else w) ∧
            (x.phase = .printing → d.window = [] →
              v = (if x.drain = some .budget then w.budgetTest x.account else w).endDrain j p ∧ DispatchOnly w v ∧
              (v.printer p).inService = false ∧ (v.disp p).assigned = none ∧ (v.disp p).leaving = false)) ∧
        ∃ v t : State, exec (.printerServiceIn token n) s = .next t ∧ LinesOnly (v.hand (.commandReply token 8#8 .ok [])) t ∧
          (((d.assigned = none ∧ (u.printer p).inService = true) ∨ (d.assigned ≠ none ∧ d.leaving = false)) → v = u) ∧
          (d.assigned = none → (u.printer p).inService = false →
            DispatchOnly { u with pra := put u.pra p { u.printer p with inService := true } } v ∧
            v = ({ u with pra := put u.pra p { u.printer p with inService := true } } : State).offerPrinter p ∧
            (d.leaving = false → (v.printer p).inService = true)) ∧
          ∀ j x w y, d.assigned = some j → d.leaving = true → u.job j = some x →
            w = { u with dsc := { u.dsc with printers := put u.dsc.printers p { d with leaving := false } } } →
            y = { w with spm := { w.spm with jobs := put w.spm.jobs j (some { x with drain := none }) } } →
            (¬(x.phase = .printing ∧ x.drain = some .service) → v = w) ∧
            (x.phase = .printing → x.drain = some .service → x.holds.operator = true →
              v = { w with spm := { w.spm with jobs := put w.spm.jobs j (some { x with drain := some .hold }) } }) ∧
            (x.phase = .printing → x.drain = some .service → x.holds.operator = false →
              v = y.tryReleases j ∧ DispatchOnly y v ∧ (v.disp p).leaving = false ∧
              ∃ z, v.job j = some z ∧ z.drain ≠ some .service)

/-- An ACCOUNT write: clamped, reserved and bound kept, an invalidation refused while the account is held (R119,
R120). Derived from 07_accounts_and_meters.md R117, R119, R120, R131, 10_the_job_link_and_management.md R169. -/
def Obligations.AccountWrites : Prop :=
  ∀ (s u : State) (token : Byte) (a : Fin 512) (e : AccountEntry) (w : State), s.jli.restart = none → u = s.silenceRule →
      w = { u with
        acm := { u.acm with
          accounts := put u.acm.accounts a
            { valid := e.valid
              blocked := e.blocked
              unlimited := e.unlimited
              balance := e.balance.toInt
              overdraft := min e.overdraft.toNat 2147483647
              reserved := (u.account a).reserved
              threshold := if e.threshold = 0xFFFFFFFF#32 then none else some (min e.threshold.toNat 16777215)
              periodSheets := e.periodSheets.toNat
              periodMono := e.periodMono.toNat
              periodColour := e.periodColour.toNat
              periodCharge := e.periodCharge.toNat
              bound := (u.account a).bound } } } →
      (e.valid = false →
        (0 < (u.account a).bound ∨
          ∃ r, (u.route r).valid = true ∧ (u.route r).fromJob = false ∧ (u.route r).fixedAccount = a) →
        ∃ t, exec (.accountWrite token (indexOf a.val) [e]) s = .next t ∧
          LinesOnly (u.hand (.commandReply token 0#8 .interlock [0#8])) t) ∧
      (e.valid = false → (u.account a).bound = 0 →
        (∀ r, (u.route r).valid = true → (u.route r).fromJob = false → (u.route r).fixedAccount ≠ a) →
        ∃ t, exec (.accountWrite token (indexOf a.val) [e]) s = .next t ∧
          LinesOnly (w.hand (.commandReply token 0#8 .ok [1#8])) t) ∧
      (e.valid = true → ∃ t, exec (.accountWrite token (indexOf a.val) [e]) s = .next t ∧
        DispatchOnly w (w.accountChange a) ∧
        LinesOnly ((w.accountChange a).hand (.commandReply token 0#8 .ok [1#8])) t)

/-- ALERT-SETUP writes (R156, R158, R163, R164), and the sense inputs, one sample of each at a tick (R161, R162).
Derived from 09_alert_queue_beacons_and_sense_inputs.md R156, R158, R161, R162, R163, R164,
08_interrupted_printing_jams_lost_printers_and_canc.md R134, 10_the_job_link_and_management.md R169. What rests on the
model's choices, assumption log 7, 15, 28, is named in its text: Model's choice (assumption logs 7, 15 and 28): an
entry is one 16-bit number; the filters sample in slot order; at a filter that has sampled, or does not stand at its
third sample, these two change nothing, and a tick's one sample is of the levels that stand then. -/
def Obligations.AlertSetupAndSenseInputs : Prop :=
  (∀ (s u : State) (token : Byte) (e : Half), s.jli.restart = none → u = s.silenceRule →
        (∃ v t : State, exec (.alertSetupWrite token 0#16 [e]) s = .next t ∧
          LinesOnly (v.hand (.commandReply token 0#8 .ok [1#8])) t ∧
          v = { u with
            arl := { u.arl with mask := e.truncate 12, queue := v.arl.queue, dropped := v.arl.dropped }
            jli := { u.jli with tx := v.jli.tx } } ∧
          ∀ fresh : AlertEntry → Bool, (∀ a, fresh a = (enabledIn (e.truncate 12) a.key.cls &&
              !enabledIn u.arl.mask a.key.cls && !a.acked && !a.sent)) → AlertsOk u.arl →
            u.jli.tx.length + (u.arl.queue.filter fresh).length ≤ 192 →
            v.arl.queue = u.arl.queue.map (fun a => if fresh a then { a with sent := true } else a) ∧
            v.arl.dropped = u.arl.dropped ∧
            v.jli.tx = u.jli.tx ++ (u.arl.queue.filter fresh).map fun a =>
              .alert true a.key a.active a.count a.firstTime a.lastTime) ∧
        (∀ b, b = (if h : e.toNat < 8 then some ⟨e.toNat, h⟩ else none) →
          (∀ p : Fin 32, ∃ t, exec (.alertSetupWrite token (indexOf (1 + p.val)) [e]) s = .next t ∧
            LinesOnly (({ u with arl := { u.arl with printerBeacon := put u.arl.printerBeacon p b } } : State).hand
              (.commandReply token 0#8 .ok [1#8])) t) ∧
          (∀ q : Fin 8, ∃ t, exec (.alertSetupWrite token (indexOf (33 + q.val)) [e]) s = .next t ∧
            LinesOnly (({ u with arl := { u.arl with portBeacon := put u.arl.portBeacon q b } } : State).hand
              (.commandReply token 0#8 .ok [1#8])) t) ∧
          ∃ t, exec (.alertSetupWrite token 41#16 [e]) s = .next t ∧
            LinesOnly (({ u with arl := { u.arl with officeBeacon := b } } : State).hand
              (.commandReply token 0#8 .ok [1#8])) t) ∧
        ∀ (p : Fin 32) (mode : SenseMode) (x : Sense),
          mode = (if e = 1#16 then .edge else if e = 2#16 then .level else .off) → x = u.sense p →
          ∃ v t : State, exec (.alertSetupWrite token (indexOf (42 + p.val)) [e]) s = .next t ∧
            LinesOnly (v.hand (.commandReply token 0#8 .ok [1#8])) t ∧
            (x.mode = mode → v = u) ∧
            (x.mode ≠ mode → (x.mode = .level → x.active = false) → (mode = .level → x.high = true) →
              v = { u with arl := { u.arl with sense := put u.arl.sense p { x with mode := mode } } }) ∧
            (x.mode = .level → mode ≠ .level → x.active = true → v =
              (({ u with arl := { u.arl with sense := put u.arl.sense p { x with mode := mode, active := false } } } :
                State).clear (printerKey p .senseJam)).refreshFeed p) ∧
            (x.mode ≠ .level → mode = .level → x.high = false → v =
              (({ u with arl := { u.arl with sense := put u.arl.sense p { x with mode := mode, active := true } } } :
                State).raiseAt (printerKey p .senseJam) true u.now).refreshFeed p)) ∧
      (∀ (s : State) (levels : BitVec 32), ∃ t, exec (.senseSample levels) s = .next t ∧ EventOnly s t ∧
        t.senseLines = levels ∧
        LinesOnly ((List.finRange 32).foldl (State.takeSample levels) { s with senseLines := levels }) t ∧
        ∀ p x, x = s.sense p → t.sense p =
          if x.sampled = s.now then x
          else if levels.getLsbD p.val = x.high then { x with run := 0, sampled := s.now }
          else if x.run < 2 then { x with run := x.run + 1, sampled := s.now }
          else if x.high then
            { x with
              high := false, run := 0, stamp := s.now, sampled := s.now, active := (x.mode == .level) || x.active }
          else { x with high := true, run := 0, sampled := s.now, active := (x.mode != .level) && x.active }) ∧
      ∀ (s : State) (p : Fin 32) (x fall rise : Sense), x = s.sense p →
        fall = { x with high := false, run := 0, stamp := s.now, sampled := s.now } →
        rise = { x with high := true, run := 0, sampled := s.now } →
        (∀ levels : BitVec 32,
          (x.sampled = s.now → State.takeSample levels s p = s) ∧
          (x.sampled ≠ s.now → levels.getLsbD p.val = x.high → State.takeSample levels s p =
            { s with arl := { s.arl with sense := put s.arl.sense p { x with run := 0, sampled := s.now } } }) ∧
          (x.sampled ≠ s.now → levels.getLsbD p.val ≠ x.high → x.run < 2 → State.takeSample levels s p =
            { s with arl := { s.arl with sense := put s.arl.sense p { x with run := x.run + 1, sampled := s.now } } }) ∧
          (x.sampled ≠ s.now → x.high = true → levels.getLsbD p.val = false → 2 ≤ x.run →
            ChangeTaken { s with arl := { s.arl with sense := put s.arl.sense p fall } } (State.takeSample levels s p) p fall) ∧
          (x.sampled ≠ s.now → x.high = false → levels.getLsbD p.val = true → 2 ≤ x.run →
            ChangeTaken { s with arl := { s.arl with sense := put s.arl.sense p rise } } (State.takeSample levels s p) p rise)) ∧
        (x.sampled ≠ s.now → x.high = true → x.run = 2 → ∃ v t, exec (.fallingChange p) s = .next t ∧ LinesOnly v t ∧
          ChangeTaken { s with
            senseLines := s.senseLines &&& ~~~(1#32 <<< p.val)
            arl := { s.arl with sense := put s.arl.sense p fall } } v p fall) ∧
        (x.sampled ≠ s.now → x.high = false → x.run = 2 → ∃ v t, exec (.risingChange p) s = .next t ∧ LinesOnly v t ∧
          ChangeTaken { s with
            senseLines := s.senseLines ||| (1#32 <<< p.val)
            arl := { s.arl with sense := put s.arl.sense p rise } } v p rise) ∧
        ((x.sampled = s.now ∨ x.high = false ∨ x.run ≠ 2) → exec (.fallingChange p) s = .next s) ∧
        ((x.sampled = s.now ∨ x.high = true ∨ x.run ≠ 2) → exec (.risingChange p) s = .next s) ∧
        ∀ levels, .senseSample levels ∈ s.dueEvents ↔ levels = s.senseLines

/-- A tariff bank is written in full or not at all (R110). Derived from 06_charging_arithmetic_and_tariff_banks.md
R106, R107, R108, R110, 10_the_job_link_and_management.md R169. -/
def Obligations.TariffBankWrites : Prop :=
  ∀ (s u : State) (token : Byte) (b : Fin 2) (first : Half) (l : List TariffClass),
      s.jli.restart = none → u = s.silenceRule → (Instr.tariffWrite token b first l).wf = true →
      (u.chg.current = b → ∃ t, exec (.tariffWrite token b first l) s = .next t ∧
        LinesOnly (u.hand (.commandReply token 0#8 .bankCurrent [0#8])) t) ∧
      (u.chg.current ≠ b → 0 < u.chg.bound.get b → ∃ t, exec (.tariffWrite token b first l) s = .next t ∧
        LinesOnly (u.hand (.commandReply token 0#8 .bankBound [0#8])) t) ∧
      (u.chg.current ≠ b → u.chg.bound.get b = 0 → ∃ v t : State, exec (.tariffWrite token b first l) s = .next t ∧
        LinesOnly (v.hand (.commandReply token 0#8 .ok [BitVec.ofNat 8 l.length])) t ∧
        v = { u with chg := { u.chg with banks := v.chg.banks } } ∧
        ∀ (b' : Fin 2) (k : Fin 16), (v.chg.banks.get b').get k =
          if b' = b ∧ first.toNat ≤ k.val ∧ k.val < first.toNat + l.length then
            match l[k.val - first.toNat]? with
            | some c => { c with
                rebate := if 100 < c.rebate.toNat then 100#8 else c.rebate
                tier := if 100 < c.tier.toNat then 100#8 else c.tier }
            | none => (u.chg.banks.get b').get k
          else (u.chg.banks.get b').get k)

/-- HOLD_JOB and RELEASE_JOB, by the phase of the job (R51, R52). Derived from 03_pools_and_dispatch.md R46, R51, R52,
R53, R54, R60, 10_the_job_link_and_management.md R172. -/
def Obligations.HoldAndRelease : Prop :=
  ∀ (s u : State) (token : Byte) (tag : Half), s.jli.restart = none → u = s.silenceRule →
      ((∀ k y, u.job k = some y → y.tag ≠ tag) →
        (∃ t, exec (.holdJob token tag) s = .next t ∧ LinesOnly (u.hand (.commandReply token 2#8 .unknownJob [])) t) ∧
        ∃ t, exec (.releaseJob token tag) s = .next t ∧ LinesOnly (u.hand (.commandReply token 3#8 .unknownJob [])) t) ∧
      ∀ (j : Fin 128) (x h r : Job), u.job j = some x → x.tag = tag → (∀ k y, u.job k = some y → y.tag = tag → k = j) →
        h = { x with holds := { x.holds with operator := true } } →
        r = { x with holds := { operator := false, arrival := false, budget := false } } →
        (x.phase = .cancelling →
          (∃ t, exec (.holdJob token tag) s = .next t ∧ LinesOnly (u.hand (.commandReply token 2#8 .badState [])) t) ∧
          ∃ t, exec (.releaseJob token tag) s = .next t ∧ LinesOnly (u.hand (.commandReply token 3#8 .badState [])) t) ∧
        (x.phase ≠ .cancelling →
          (∃ v t : State, exec (.holdJob token tag) s = .next t ∧ LinesOnly (v.hand (.commandReply token 2#8 .ok [])) t ∧
            ((x.phase = .spooling ∨ x.phase = .held) →
              v = { u with spm := { u.spm with jobs := put u.spm.jobs j (some h) } }) ∧
            (x.phase = .queued → v = { u with
              spm := { u.spm with jobs := put u.spm.jobs j (some { h with phase := .held }) }
              dsc := { u.dsc with
                pools := put u.dsc.pools x.pool
                  { u.pool x.pool with queue := (u.pool x.pool).queue.filter fun k => k != j } } }) ∧
            ∀ p w, x.phase = .printing → x.printer = some p →
              w = { u with
                spm := { u.spm with
                  jobs := put u.spm.jobs j
                    (some { h with drain := if x.drain = some .service then some .service else some .hold }) } } →
              ((u.disp p).window ≠ [] → x.drain ≠ some .budget → v = w) ∧
              ((u.disp p).window ≠ [] → x.drain = some .budget → v = w ∨ v = w.clear (budgetKey x.account)) ∧
              ((u.disp p).window = [] → DispatchOnly w v ∧ ((∀ k, j ∉ (u.pool k).queue) →
                v.job j = some { h with phase := .held, drain := none, stalled := false, printer := none }))) ∧
          ∃ v t : State, exec (.releaseJob token tag) s = .next t ∧ LinesOnly (v.hand (.commandReply token 3#8 .ok [])) t ∧
            DispatchOnly { u with spm := { u.spm with jobs := put u.spm.jobs j (some r) } } v ∧
            ((x.phase = .spooling ∨ x.phase = .queued ∨ (x.phase = .printing ∧ x.drain ≠ some .hold)) →
              v = { u with spm := { u.spm with jobs := put u.spm.jobs j (some r) } }) ∧
            (x.phase = .held → ∃ y, v.job j = some y ∧ y.holds.operator = false ∧ y.holds.arrival = false ∧ (y.phase = .held →
              y.holds = { operator := false, arrival := false, budget := true })) ∧
            (x.phase = .printing → x.drain = some .hold → ∃ y, v.job j = some y ∧ y.drain ≠ some .hold ∧
              y.holds.operator = false ∧ y.holds.arrival = false))

/-- The pool arbiter and what follows it: assignment, releases, gate failure, can feed and the stall timer (R47 to
R49, R56 to R60, R134 to R137). Derived from 03_pools_and_dispatch.md R47, R48, R49, R56, R57, R58, R59, R60,
08_interrupted_printing_jams_lost_printers_and_canc.md R134, R136, R137, 05_the_drop_protocol_and_printer_records.md
R94. What rests on the model's choices, assumption log 20, 23, 29, is named in its text: A failing gate makes the job
drain for BUDGET and raises BUDGET_HOLD; on an empty window the job is HELD with BUDGET and off its printer, which is
offered only afterwards, by what tried the releases (this order: inferred, assumption log 23). A retried gate that
passes removes the drain and tests the condition (when, is inferred: assumption log 20). When can feed differs from
the result last handed on, which the model stores (assumption log 29), it has changed: to false, a PRINTING job is
stalled and, as for a CANCELLING one, the stopped stall timer starts if the pool's timeout is above 0; to true, the
timer stops and the job's releases are tried, or the printer is offered. -/
def Obligations.ArbiterAssignsReleasesAndFeeds : Prop :=
  ∀ (s : State) (k : Fin 16) (p : Fin 32) (r : Printer) (d : Dispatch), r = s.printer p → d = s.disp p →
      (s.available p = true ↔ r.config.configured = true ∧ r.config.pool ≠ none ∧ r.inService = true ∧ r.link = .answering ∧
        r.condition = some .ready ∧ (s.sense p).active = false ∧ d.assigned = none ∧ r.needsDrop = false ∧
        (s.mgu.attended = true ∨ s.mgu.holdAction = false)) ∧
      (s.canFeed p = true ↔ r.config.configured = true ∧ r.condition = some .ready ∧ r.link = .answering ∧
        (s.port (portOf p)).line ≠ .disabled ∧ (s.port (portOf p)).line ≠ .faulted ∧ (s.sense p).active = false) ∧
      (∀ j, s.pick k = some (p, j) ↔ FirstServable s k p j ∧ ∀ p' j', FirstServable s k p' j' →
        roundDistance (s.pool k).pointer p ≤ roundDistance (s.pool k).pointer p') ∧
      (s.pick k = none ↔ ∀ p' j', ¬FirstServable s k p' j') ∧
      (((s.pool k).enabled = false ∨ s.pick k = none) → s.runArbiter k = s) ∧
      (∀ j, (s.pool k).enabled = true → (s.pool k).queue.Nodup → s.pick k = some (p, j) →
        s.runArbiter k = ((({ s with dsc := { s.dsc with
          pools := put s.dsc.pools k { s.pool k with pointer := p } } } : State).assign k p j).runArbiter k)) ∧
      (s.available p = true → r.config.pool = some k → s.offerPrinter p = s.runArbiter k) ∧
      (s.available p = false → s.offerPrinter p = s) ∧
      (∀ j x, s.job j = some x → s.assign k p j = State.releaseLoop (r.config.limit + 1) j { s with
        dsc := { s.dsc with
          pools := put s.dsc.pools k { s.pool k with queue := (s.pool k).queue.filter fun i => i != j }
          printers := put s.dsc.printers p { d with assigned := some j, window := [] } }
        spm := { s.spm with jobs := put s.spm.jobs j (some { x with
          phase := .printing, printer := some p, lastPrinter := some p, drain := none, stalled := false }) } }) ∧
      (∀ x : Job,
        (x.isOpen = true → nextPosition x = if x.releasePos < x.sheets then some (1, x.releasePos + 1) else none) ∧
        (x.isOpen = false → x.releasePos < x.copies * x.sheets → ∃ c n, nextPosition x = some (c, n) ∧ 1 ≤ c ∧ c ≤ x.copies ∧
          1 ≤ n ∧ n ≤ x.sheets ∧ (c - 1) * x.sheets + n = x.releasePos + 1) ∧
        (x.isOpen = false → x.copies * x.sheets ≤ x.releasePos → nextPosition x = none) ∧
        (nextPosition x = none → s.nextEstimate x = none) ∧
        ∀ pos y, nextPosition x = some pos → s.sheetDesc x pos.2 = some y →
          s.nextEstimate x = some (pos, estimate (s.jobClass x) y.sides y.sizeClass y.media)) ∧
      (∀ (j : Fin 128) (x : Job), s.job j = some x → x.printer = some p →
        (s.mayRelease x p = true ↔ x.phase = .printing ∧ x.drain = none ∧ x.stalled = false ∧
          (s.mgu.attended = true ∨ s.mgu.holdAction = false) ∧ s.canFeed p = true ∧ d.window.length < r.config.limit) ∧
        (∀ t, t = State.releaseLoop (r.config.limit + 1) j s →
          (∀ y, t.job j = some y → y.printer = some p → t.mayRelease y p = true → t.nextEstimate y = none) ∧
          s.tryReleases j = if (t.disp p).assigned = some j then t else t.offerPrinter p) ∧
        (∀ n, (s.mayRelease x p = false ∨ s.nextEstimate x = none) → State.releaseLoop n j s = s) ∧
        (∀ n pos e, s.mayRelease x p = true → s.nextEstimate x = some (pos, e) →
          State.releaseLoop (n + 1) j s =
            if gatePasses (s.account x.account) e then State.releaseLoop n j (s.release j p x.account pos e)
            else s.gateFailed j p x.account) ∧
        (∀ pos e, s.release j p x.account pos e = { s with
          acm := { s.acm with
            accounts := put s.acm.accounts x.account
              { s.account x.account with reserved := (s.account x.account).reserved + e } }
          dsc := { s.dsc with printers := put s.dsc.printers p { d with
            window := d.window ++
              [{ feed := r.nextFeed, job := j, copy := pos.1, sheet := pos.2, estimate := e, sent := false }] } }
          pra := put s.pra p { r with
            nextFeed := r.nextFeed + 1#8
            stage := if d.window.all (fun y => y.sent) then some .start else r.stage
            naks := if d.window.all (fun y => y.sent) then 0 else r.naks }
          spm := { s.spm with jobs := put s.spm.jobs j (some { x with releasePos := x.releasePos + 1 }) } }) ∧
        (∀ w v, w = ({ s with spm := { s.spm with jobs := put s.spm.jobs j (some { x with drain := some .budget }) } } :
            State).raiseAt (budgetKey x.account) true s.now → v = s.gateFailed j p x.account →
          (d.window ≠ [] → v = w) ∧
          (d.window = [] → v.arl = w.arl ∧ v.jli = w.jli ∧
            v.disp p = { d with assigned := none, stall := none, leaving := false } ∧
            v.printer p = { r with inService := r.inService && !d.leaving } ∧
            v.job j = some { x with
              phase := .held
              holds := { x.holds with budget := true }
              drain := none
              stalled := false
              printer := none })) ∧
        (∀ pos e, x.phase = .printing → x.drain = some .budget → s.nextEstimate x = some (pos, e) →
          s.retryGate j =
            if gatePasses (s.account x.account) e then
              ({ s with spm := { s.spm with jobs := put s.spm.jobs j (some { x with drain := none }) } } :
                State).budgetTest x.account
            else s)) ∧
      (∀ a, ((∃ j x, s.job j = some x ∧ x.account = a ∧ ((x.phase = .held ∧ x.holds.budget = true) ∨
          (x.phase = .printing ∧ x.drain = some .budget))) → s.budgetTest a = s) ∧
        ((∀ j x, s.job j = some x → x.account = a → ¬(x.phase = .held ∧ x.holds.budget = true) ∧
          ¬(x.phase = .printing ∧ x.drain = some .budget)) → s.budgetTest a = s.clear (budgetKey a))) ∧
      (s.canFeed p = d.feeds → s.refreshFeed p = s) ∧
      (s.canFeed p = false → d.feeds = true →
        (d.assigned = none → s.refreshFeed p =
          { s with dsc := { s.dsc with printers := put s.dsc.printers p { d with feeds := false } } }) ∧
        ∀ j x w, d.assigned = some j → s.job j = some x →
          w = { s with dsc := { s.dsc with printers := put s.dsc.printers p { d with
            feeds := false
            stall := if d.stall = none ∧ 0 < (s.pool x.pool).reroute then
              some (s.now + BitVec.ofNat 32 ((s.pool x.pool).reroute * 1000)) else d.stall } } } →
          (x.phase = .printing → s.refreshFeed p =
            { w with spm := { w.spm with jobs := put w.spm.jobs j (some { x with stalled := true }) } }) ∧
          (x.phase = .cancelling → s.refreshFeed p = w)) ∧
      ∀ w, s.canFeed p = true → d.feeds = false →
        w = { s with dsc := { s.dsc with printers := put s.dsc.printers p { d with feeds := true, stall := none } } } →
        (d.assigned = none → s.refreshFeed p = w.offerPrinter p) ∧
        ∀ j x, d.assigned = some j → s.job j = some x →
          (x.phase = .printing → s.refreshFeed p =
            ({ w with spm := { w.spm with jobs := put w.spm.jobs j (some { x with stalled := false }) } } :
              State).tryReleases j) ∧
          (x.phase ≠ .printing → s.refreshFeed p = w)

/-- An account change clears BUDGET from the HELD jobs of the account and requeues them, and retries the gate of those
that drain for it (R60, R131). Derived from 03_pools_and_dispatch.md R45, R60, 07_accounts_and_meters.md R131. What
rests on the model's choices, assumption log 20, is named in its text: Where it is the only job of the account that
holds or drains for BUDGET: the hold is cleared, the condition cleared, the job requeued and the condition tested
again (in this order: inferred, assumption log 20). Where a job that drains for BUDGET on its printer is the only one:
if the gate for its next position passes, the drain is removed, the condition cleared, releases are tried for it, and
the condition tested again; if it fails, or there is no next position, nothing changes (when the condition is tested
is inferred: assumption log 20). -/
def Obligations.AccountChangeReachesItsJobs : Prop :=
  ∀ (s : State) (a : Fin 512), DispatchOnly s (s.accountChange a) ∧
      (∀ j x, s.job j = some x → x.account = a → x.phase = .held → x.holds.budget = true →
        (x.holds.operator = true ∨ x.holds.arrival = true) → (∀ k, j ∉ (s.pool k).queue) →
        (s.accountChange a).job j = some { x with holds := { x.holds with budget := false } }) ∧
      (AlertsOk s.arl →
        (∀ j x, s.job j = some x → x.account = a →
          ¬(x.phase = .held ∧ x.holds.budget = true) ∧ ¬(x.phase = .printing ∧ x.drain = some .budget)) →
        s.accountChange a = s.clear { kind := .account, index := a.val, cls := .budgetHold }) ∧
      (∀ j x, s.job j = some x → x.account = a → x.phase = .held →
        x.holds = { operator := false, arrival := false, budget := true } → (∀ k, j ∉ (s.pool k).queue) →
        ∃ y, (s.accountChange a).job j = some y ∧
          (y.phase = .queued ∨ y.phase = .printing ∨ (y.phase = .held ∧ y.holds.budget = true))) ∧
      (∀ j x, s.job j = some x → x.account = a →
        (∀ k y, k ≠ j → s.job k = some y → y.account = a →
          ¬(y.phase = .held ∧ y.holds.budget = true) ∧ ¬(y.phase = .printing ∧ y.drain = some .budget)) →
        (∀ b, x.phase = .held → x.holds = { operator := false, arrival := false, budget := true } →
          b = ({ s with spm := { s.spm with jobs := put s.spm.jobs j (some
            { x with holds := { operator := false, arrival := false, budget := false } }) } } : State).clear (budgetKey a) →
          s.accountChange a = (b.requeue j).budgetTest a) ∧
        ∀ p b, x.phase = .printing → x.drain = some .budget → x.printer = some p → (s.disp p).assigned = some j →
          b = ({ s with spm := { s.spm with jobs := put s.spm.jobs j (some { x with drain := none }) } } :
            State).clear (budgetKey a) →
          (∀ pos n, s.nextEstimate x = some (pos, n) → gatePasses (s.account a) n = true →
            s.accountChange a = ((b.tryReleases j).budgetTest a).budgetTest a) ∧
          ((∀ pos n, s.nextEstimate x = some (pos, n) → gatePasses (s.account a) n = false) → s.accountChange a = s)) ∧
      ∀ j x, s.job j = some x → ∃ before after, (s.pool x.pool).queue = before ++ after ∧
        (∀ i y, i ∈ before → s.job i = some y → y.priority < x.priority ∨ (y.priority = x.priority ∧ y.arrival ≤ x.arrival)) ∧
        (∀ i y, after.head? = some i → s.job i = some y →
          x.priority < y.priority ∨ (y.priority = x.priority ∧ x.arrival < y.arrival)) ∧
        s.requeue j = ({ s with
          spm := { s.spm with jobs := put s.spm.jobs j (some { x with phase := .queued }) }
          dsc := { s.dsc with pools := put s.dsc.pools x.pool { s.pool x.pool with queue := before ++ j :: after } } } :
            State).runArbiter x.pool

/-- SWAP_TARIFF names the other bank; ACK_ALERT sets acked and removes an entry that is not active (R108, R155).
Derived from 06_charging_arithmetic_and_tariff_banks.md R108, 09_alert_queue_beacons_and_sense_inputs.md R155,
10_the_job_link_and_management.md R172. What rests on the model's choices, assumption log 32, is named in its text:
ACK_ALERT answers BAD_INDEX, with nothing changed, when the queue holds no entry for the key (or, model's choice of
assumption log 32, when a code names no source kind or class); otherwise it answers OK, and the entry is acked if it
is active and removed if it is not, the others keeping their order. -/
def Obligations.SwapAndAcknowledge : Prop :=
  ∀ (s u : State) (token : Byte), s.jli.restart = none → u = s.silenceRule →
      (∀ b : Fin 2, b ≠ u.chg.current → ∃ t, exec (.swapTariff token) s = .next t ∧
        LinesOnly (({ u with chg := { u.chg with current := b } } : State).hand
          (.commandReply token 6#8 .ok [BitVec.ofNat 8 b.val])) t) ∧
      ∀ (kind : Byte) (index : Half) (cls : Byte),
        ((sourceOfCode kind.toNat = none ∨ classOfCode cls.toNat = none ∨
            ∃ k c, sourceOfCode kind.toNat = some k ∧ classOfCode cls.toNat = some c ∧
              ∀ e ∈ u.arl.queue, e.key ≠ { kind := k, index := index.toNat, cls := c }) →
          ∃ t, exec (.ackAlert token kind index cls) s = .next t ∧
            LinesOnly (u.hand (.commandReply token 7#8 .badIndex [])) t) ∧
        ∀ k c e, sourceOfCode kind.toNat = some k → classOfCode cls.toNat = some c → AlertsOk u.arl →
          e ∈ u.arl.queue → e.key = { kind := k, index := index.toNat, cls := c } →
          ∃ t, exec (.ackAlert token kind index cls) s = .next t ∧
            LinesOnly (({ u with arl := { u.arl with
              queue :=
                if e.active then u.arl.queue.map fun x => if x.key = e.key then { x with acked := true } else x
                else u.arl.queue.filter fun x => x.key != e.key } } : State).hand
              (.commandReply token 7#8 .ok [])) t

/-- What an exchange's outcome does: ACK and NAK, failures, DROP-SHEETS and its committed field, a changed condition.
Derived from 04_drop_lines.md R74, R75, 05_the_drop_protocol_and_printer_records.md R87, R92, R95, R96, R97, R98,
R102, R103, R104, 08_interrupted_printing_jams_lost_printers_and_canc.md R148, R149, R150. What rests on the model's
choices, assumption log 17, 21, 34, is named in its text: An ACK leaves the link ANSWERING with no misses,
PRINTER_LOST cleared, can feed evaluated (then: inferred, assumption log 34) and the room taken; if its entry is still
the oldest SENDING one the NAK count is 0 and the next segment is due, or after the last block the entry is SENT and
the next SENDING one is due from START. A STATUS that answers DROP-SHEETS clears needs-drop, first of all (inferred,
assumption log 21), and is taken with its committed field. The same condition changes nothing; a new one is stored,
JAM then loses the window, which ends a CANCELLING job, the old alert is cleared and the new raised (this order:
inferred, assumption log 17), and can feed is evaluated. -/
def Obligations.OutcomesReachThePrinter : Prop :=
  (∀ (s w : State) (q : Fin 8) (x : Port) (e : Exchange) (o : ExchangeOutcome), x = s.port q → x.exchange = some e →
        x.config.enabled = true →
        (∀ (c : CharSamples) (d len : Byte) (reply : List Byte), x.line = .receiving → x.rx.mode = .inCharacter →
          charReport c = .character d false → reply = x.reply ++ [d] → reply[1]? = some len → len.toNat ≤ 250 →
          reply.length = len.toNat + 3 → w = { s with dlc := put s.dlc q (x.endCharacter c) } →
          o = (if crc8 (reply.take (len.toNat + 2)) = d then
            .replyOk (byteAt reply 0) ((reply.drop 2).take len.toNat) else .badReply) →
          ∃ y t, exec (.replyReceived q c) s = .next t ∧ LinesOnly { w.takeOutcome (printerAt q e.drop) e.kind o with
            dlc := put (w.takeOutcome (printerAt q e.drop) e.kind o).dlc q y } t) ∧
        (∀ expiry, x.line = .awaiting → x.windowExpiry = some expiry → reached s.now expiry = true →
          ∃ y t, exec (.responseWindowExpiry q) s = .next t ∧
            LinesOnly { s.takeOutcome (printerAt q e.drop) e.kind .noReply with
              dlc := put (s.takeOutcome (printerAt q e.drop) e.kind .noReply).dlc q y } t)) ∧
      (∀ (s : State) (p : Fin 32) (kind : BlockKind) (feed : Byte) (next : Option Nat),
        (s.printer p).config.configured = true →
        ((∃ noData, kind = .start feed noData ∧ next = if noData then none else some 0) ∨
          ∃ n last, kind = .data feed n last ∧ next = if last then none else some (n + 1)) →
        (∀ (room : Byte) (a b v : State),
          a = (({ s with pra := put s.pra p { s.printer p with link := .answering, missed := 0 } } : State).clear
            (printerKey p .printerLost)).refreshFeed p →
          b = { a with pra := put a.pra p { a.printer p with room := room.toNat } } →
          v = s.takeOutcome p kind (.replyOk 0x82#8 [room]) →
          ((oldestSending (b.disp p).window).map WindowEntry.feed ≠ some feed → v = b) ∧
          ((oldestSending (b.disp p).window).map WindowEntry.feed = some feed →
            (∀ n, next = some n →
              v = { b with pra := put b.pra p { b.printer p with naks := 0, stage := some (.data n) } }) ∧
            ∀ sent, next = none →
              sent = replaceFirst (fun e => !e.sent) (fun e => { e with sent := true }) (b.disp p).window →
              (oldestSending sent).map WindowEntry.feed ≠ some feed →
              v = { b with
                dsc := { b.dsc with printers := put b.dsc.printers p { b.disp p with window := sent } }
                pra := put b.pra p { b.printer p with
                  naks := 0
                  stage := if (oldestSending sent).isSome then some .start else none } })) ∧
        (∀ a v : State,
          a = (({ s with pra := put s.pra p { s.printer p with link := .answering } } : State).clear
            (printerKey p .printerLost)).refreshFeed p →
          v = s.takeOutcome p kind (.replyOk 0x83#8 []) →
          ((oldestSending (a.disp p).window).map WindowEntry.feed ≠ some feed → v = a) ∧
          ((oldestSending (a.disp p).window).map WindowEntry.feed = some feed →
            ((a.printer p).naks + 1 < 4 →
              v = { a with pra := put a.pra p { a.printer p with naks := (a.printer p).naks + 1 } }) ∧
            (4 ≤ (a.printer p).naks + 1 →
              v = ({ a with pra := put a.pra p { a.printer p with naks := 0 } } : State).exchangeFailed p))) ∧
        ∀ o, (∀ room, o ≠ .replyOk 0x82#8 [room]) → o ≠ .replyOk 0x83#8 [] → s.takeOutcome p kind o = s.exchangeFailed p) ∧
      ∀ (s : State) (p : Fin 32) (r : Printer), r = s.printer p →
        (r.missed + 1 < 3 → s.exchangeFailed p = { s with pra := put s.pra p { r with missed := r.missed + 1 } }) ∧
        (3 ≤ r.missed + 1 → r.link = .lost → s.exchangeFailed p = { s with pra := put s.pra p { r with missed := 3 } }) ∧
        (3 ≤ r.missed + 1 → r.link ≠ .lost → PrintingOnly s (s.exchangeFailed p) ∧
          ((s.exchangeFailed p).printer p).link = .lost ∧ ((s.exchangeFailed p).printer p).missed = 3 ∧
          (AlertsOk s.arl → ∀ a ∈ (s.exchangeFailed p).arl.queue, a.key = printerKey p .printerLost → a.active = true)) ∧
        (∀ j x out cause e rest, (s.disp p).assigned = some j → s.job j = some x → x.phase = .cancelling →
          x.ending = some (out, cause) → (s.disp p).window = e :: rest → e.job = j →
          (∀ v, 3 ≤ r.missed + 1 → r.link ≠ .lost → v = s.exchangeFailed p →
            v.job j = none ∧ (v.disp p).window = [] ∧ ToldToDrop s v p e.feed ∧
            HandedFirst (s.raiseAt (printerKey p .printerLost) true s.now) (.jobReport
              { reportOf x out cause with sheetsLost := min 65535 (x.sheetsLost + (rest.length + 1)) }) v) ∧
          ∀ v, r.condition ≠ some .jam → v = s.takeCondition p .jam →
            v.job j = none ∧ (v.disp p).window = [] ∧ (v.printer p).needsDrop = r.needsDrop ∧
            HandedFirst s (.jobReport
              { reportOf x out cause with sheetsLost := min 65535 (x.sheetsLost + (rest.length + 1)) }) v) ∧
        (r.config.configured = true →
          (∀ payload st, readStatus payload = some st → s.takeOutcome p .dropSheets (.replyOk 0x81#8 payload) =
            (({ s with pra := put s.pra p { r with needsDrop := false, dropFrom := none } } : State).takeStatus
              p st true).offerPrinter p) ∧
          ∀ o v, statusOf o = none → v = s.takeOutcome p .dropSheets o → PrintingOnly s v ∧
            (v.printer p).pollDue = s.now + BitVec.ofNat 32 (s.port (portOf p)).config.poll ∧
            (r.needsDrop = true → (s.port (portOf p)).line ≠ .disabled →
              { drop := dropOf p, waitDue := true } ∈ (v.port (portOf p)).control)) ∧
        (∀ committed, (∀ j x, (s.disp p).assigned = some j → s.job j = some x → x.phase ≠ .cancelling) →
          s.takeCommitted p committed = s) ∧
        (∀ j x out cause e rest committed v, (s.disp p).assigned = some j → s.job j = some x → x.phase = .cancelling →
          x.ending = some (out, cause) → (s.disp p).window = e :: rest → (∀ l ∈ e :: rest, l.job = j) →
          v = s.takeCommitted p committed → PrintingOnly s v ∧
          ((committed = none ∨ ∃ f, committed = some f ∧ rest.length < (f - e.feed).toNat ∧ 128 ≤ (f - e.feed).toNat) →
            v.job j = none ∧ HandedFirst s (.jobReport
              { reportOf x out cause with sheetsLost := min 65535 (x.sheetsLost + (rest.length + 1)) }) v) ∧
          ∀ f b, committed = some f → b = (f - e.feed).toNat →
            (b = rest.length → v = s) ∧
            (∀ l, rest[b]? = some l → (v.disp p).window = (e :: rest).take (b + 1) ∧
              v.job j = some { x with
                releasePos := ordinal x.sheets l.copy l.sheet - 1
                sheetsLost := min 65535 (x.sheetsLost + (rest.length - b)) } ∧
              (v.account x.account).reserved =
                (s.account x.account).reserved - ((rest.drop b).map WindowEntry.estimate).sum) ∧
            (rest.length < b → b < 128 → v = { s with dlc := put s.dlc (portOf p) { s.port (portOf p) with
              protocolErrors := min 65535 ((s.port (portOf p)).protocolErrors + 1) } })) ∧
        ∀ (c : Condition) (w v : State), v = s.takeCondition p c →
          w = { s with pra := put s.pra p { r with condition := some c } } →
          (r.condition = some c → v = s) ∧
          (r.condition ≠ some c →
            v = (((if c = .jam then w.lose p 0 else w).clearConditionAlert p r.condition).raiseConditionAlert
              p (some c)).refreshFeed p ∧
            ∀ e rest x, c = .jam → (s.disp p).window = e :: rest → s.job e.job = some x → x.phase = .printing →
              ∃ y, v.job e.job = some y ∧ y.sheetsLost = min 65535 (x.sheetsLost + (rest.length + 1)))

/-- PORT_RESTART starts a line reset, or waits for the exchange in flight (R81). Derived from 04_drop_lines.md R77,
R80, R81, 10_the_job_link_and_management.md R172. What rests on the model's choices, assumption log 12, 42, is named
in its text: A port above 7 is answered BAD_INDEX and one that is not enabled BAD_STATE, with nothing changed; it is
its stored record that tells, also while a write waits for the end of an exchange (model's choice, assumption log 42).
On a FAULTED or IDLE line a line reset starts: RECOVERING with its 50 ms limit, or TRANSMITTING if the line idle flag
is already set (model's choice, assumption log 12). -/
def Obligations.PortRestartByLineState : Prop :=
  ∀ (s u : State) (token n : Byte), s.jli.restart = none → u = s.silenceRule →
      (8 ≤ n.toNat → ∃ t, exec (.portRestart token n) s = .next t ∧
        LinesOnly (u.hand (.commandReply token 9#8 .badIndex [])) t) ∧
      ∀ (q : Fin 8) (x y : Port), q.val = n.toNat → x = u.port q →
        y = { x with
          exchange := some lineResetExchange, reply := [], restartPending := false, windowExpiry := none, restExpiry := none } →
        (x.config.enabled = false → ∃ t, exec (.portRestart token n) s = .next t ∧
          LinesOnly (u.hand (.commandReply token 9#8 .badState [])) t) ∧
        (x.config.enabled = true → ∃ z t, exec (.portRestart token n) s = .next t ∧
          LinesOnly (({ u with dlc := put u.dlc q z } : State).hand (.commandReply token 9#8 .ok [])) t ∧
          ((x.line = .faulted ∨ x.line = .idle) →
            z = if x.rx.idleFlag then { y with line := .transmitting, recoverExpiry := none }
              else { y with line := .recovering, recoverExpiry := some (u.now + 50#32) }) ∧
          (x.line = .recovering → x.exchange = none →
            z = if x.rx.idleFlag then { y with line := .transmitting, recoverExpiry := none } else y) ∧
          (∀ e, x.exchange = some e → x.line ≠ .faulted → x.line ≠ .idle →
            z = if e.kind = .lineReset then x else { x with restartPending := true }))

/-- Beacons show what is routed to them; BEACON_OVERRIDE and its expiry (R159, R160). Derived from
09_alert_queue_beacons_and_sense_inputs.md R159, R160, 10_the_job_link_and_management.md R172. What rests on the
model's choices, assumption log 7, 31, is named in its text: A beacon above 7 is answered BAD_INDEX; a pattern not
among the four MALFORMED (a request with both faults BAD_INDEX: model's choice, assumption log 31); nothing changes
then. BEACON_OVERRIDE_EXPIRY ends an override whose expiry is reached and changes nothing else; for one not running or
not due it changes nothing (model's choice, assumption log 7). -/
def Obligations.BeaconsAndOverrides : Prop :=
  ∀ s : State,
      (∀ b, (∀ o, s.arl.overrides.get b = some o → s.arl.pattern b = o.pattern) ∧
        ∀ routed : AlertEntry → Prop, (∀ e, routed e ↔ e ∈ s.arl.queue ∧ s.arl.beaconOf e.key = some b) →
          s.arl.overrides.get b = none →
          ((∃ e, routed e ∧ severity e.key.cls = 3 ∧ e.acked = false) → s.arl.pattern b = .fast) ∧
          ((∀ e, routed e → severity e.key.cls = 3 → e.acked = true) →
            ((∃ e, routed e ∧ severity e.key.cls = 2 ∧ e.acked = false) → s.arl.pattern b = .slow) ∧
            ((∀ e, routed e → severity e.key.cls = 2 → e.acked = true) →
              ((∃ e, routed e) → s.arl.pattern b = .steady) ∧ ((∀ e, ¬routed e) → s.arl.pattern b = .off)))) ∧
      (∀ b, (s.arl.pattern b = .off → s.lamp b = false) ∧ (s.arl.pattern b = .steady → s.lamp b = true) ∧
        (s.arl.pattern b = .slow → s.lamp b = decide (s.now.toNat % 1000 < 500)) ∧
        (s.arl.pattern b = .fast → s.lamp b = decide (s.now.toNat % 250 < 125))) ∧
      (∀ (u : State) (token beacon pattern : Byte) (seconds : Half), s.jli.restart = none → u = s.silenceRule →
        (8 ≤ beacon.toNat → ∃ t, exec (.beaconOverride token beacon pattern seconds) s = .next t ∧
          LinesOnly (u.hand (.commandReply token 10#8 .badIndex [])) t) ∧
        (beacon.toNat < 8 → 4 ≤ pattern.toNat → ∃ t, exec (.beaconOverride token beacon pattern seconds) s = .next t ∧
          LinesOnly (u.hand (.commandReply token 10#8 .malformed [])) t) ∧
        ∀ (b : Fin 8) (x : Pattern), b.val = beacon.toNat →
          [Pattern.off, .steady, .slow, .fast][pattern.toNat]? = some x →
          ∃ t, exec (.beaconOverride token beacon pattern seconds) s = .next t ∧
            LinesOnly (({ u with
              arl := { u.arl with
                overrides := put u.arl.overrides b
                  (if seconds.toNat = 0 then none
                    else some { pattern := x, expiry := u.now + BitVec.ofNat 32 (min seconds.toNat 3600 * 1000) }) } } :
              State).hand (.commandReply token 10#8 .ok [])) t) ∧
      (∀ b o, s.arl.overrides.get b = some o → reached s.now o.expiry = true →
        exec (.beaconOverrideExpiry b) s =
          .next { s with arl := { s.arl with overrides := put s.arl.overrides b none } }) ∧
      (∀ b, (∀ o, s.arl.overrides.get b = some o → reached s.now o.expiry = false) →
        exec (.beaconOverrideExpiry b) s = .next s)

/-- A raise creates, counts or re-announces an entry; a clear ends its condition (R153, R154, R157). Derived from
09_alert_queue_beacons_and_sense_inputs.md R152, R153, R154, R155, R156, R157, 10_the_job_link_and_management.md R167.
What rests on the model's choices, assumption log 26, is named in its text: A raise of a key with no entry, with fewer
than 64 in the queue, creates one at the newest end with count 1, both times the raise's, active for a condition, and
announces it where its class is enabled (that sent is set exactly where the transmit list takes the frame, also at a
raise of an acked entry, is inferred: assumption log 26). -/
def Obligations.AlertsAreRaisedAndCleared : Prop :=
  ∀ (s : State) (k : AlertKey) (on : Bool) (time : Time), AlertsOk s.arl →
      ((∀ e ∈ s.arl.queue, e.key ≠ k) → ∀ (n : AlertEntry) (w : State),
        n = { key := k
              active := on
              acked := false
              sent := enabledIn s.arl.mask k.cls && decide (s.jli.tx.length < 192)
              firstTime := time
              lastTime := time
              count := 1 } →
        (s.arl.queue.length < 64 → w = { s with arl := { s.arl with queue := s.arl.queue ++ [n] } } →
          s.raiseAt k on time = if enabledIn s.arl.mask k.cls then w.handAlert true n else w) ∧
        (∀ i x, s.arl.queue.length = 64 → s.arl.queue[i]? = some x → severity x.key.cls < severity k.cls →
          (∀ y ∈ s.arl.queue, severity x.key.cls ≤ severity y.key.cls) →
          (∀ i' y, i' < i → s.arl.queue[i']? = some y → severity x.key.cls < severity y.key.cls) →
          w = { s with arl := { s.arl with
            queue := s.arl.queue.eraseIdx i ++ [n], dropped := min 65535 (s.arl.dropped + 1) } } →
          s.raiseAt k on time = if enabledIn s.arl.mask k.cls then w.handAlert true n else w) ∧
        (s.arl.queue.length = 64 → (∀ y ∈ s.arl.queue, severity k.cls ≤ severity y.key.cls) →
          s.raiseAt k on time = { s with arl := { s.arl with dropped := min 65535 (s.arl.dropped + 1) } })) ∧
      (∀ e, e ∈ s.arl.queue → e.key = k → e.acked = false →
        s.raiseAt k on time = { s with arl := { s.arl with
          queue := s.arl.queue.map fun x =>
            if x.key = k then
              { x with active := x.active || on, lastTime := time, count := min 255 (x.count + 1) }
            else x } }) ∧
      (∀ e n w, e ∈ s.arl.queue → e.key = k → e.acked = true →
        n = { e with
          active := e.active || on
          acked := false
          sent := enabledIn s.arl.mask k.cls && decide (s.jli.tx.length < 192)
          lastTime := time
          count := min 255 (e.count + 1) } →
        w = { s with arl := { s.arl with queue := s.arl.queue.map fun x => if x.key = k then n else x } } →
        s.raiseAt k on time = if enabledIn s.arl.mask k.cls then w.handAlert true n else w) ∧
      (∀ e w, e ∈ s.arl.queue → e.key = k → e.active = true →
        w = (if enabledIn s.arl.mask k.cls then s.handAlert false { e with active := false } else s) →
        s.clear k = { w with arl := { w.arl with
          queue :=
            if e.acked then w.arl.queue.filter fun x => x.key != k
            else w.arl.queue.map fun x => if x.key = k then { x with active := false } else x } }) ∧
      ((∀ e ∈ s.arl.queue, e.key = k → e.active = false) → s.clear k = s)

/-- What the receiver's reports do to a line that takes no reply (R67 to R69, R82). Derived from 04_drop_lines.md R67,
R68, R69, R77, R79, R82. What rests on the model's choices, assumption log 7, 10, is named in its text: At the end of
a character on an IDLE, RECOVERING or FAULTED line: a noisy one raises the noise count by 1, saturating (at a framing
fault or a break too: inferred, assumption log 10); with a stop bit of 1 the receiver searches again; a framing fault
raises the framing count and enters RESYNC; a break enters RESYNC without counting, and puts every configured drop in
the attention set unless the line is FAULTED or the break is the part's own. LINE_IDLE, at a receiver that may report
it, sets the idle flag and ends a RECOVERING wait: TRANSMITTING with an exchange, IDLE without; at one that may not
report it, it changes nothing (model's choice, assumption log 7). -/
def Obligations.ReceiverReports : Prop :=
  ∀ (s : State) (q : Fin 8) (x : Port), x = s.port q →
      (∀ c : StartSamples, x.line ≠ .disabled → x.rx.mode = .searching → 3 ≤ c.ones →
        ((c.s3 = false ∧ c.s5 = false) ∨ (c.s3 = false ∧ c.s7 = false) ∨ (c.s5 = false ∧ c.s7 = false)) →
        exec (.startConfirmed q c) s = .next { s with dlc := put s.dlc q { x with
          rx := { mode := .inCharacter, idleFlag := false, ones := 0,
                  startNoisy := (c.s3 != c.s5) || (c.s5 != c.s7) }
          line := if x.line = .awaiting then .receiving else x.line
          windowExpiry := if x.line = .awaiting then none else x.windowExpiry } }) ∧
      (∀ (c : CharSamples) (y : Port), x.rx.mode = .inCharacter →
        (x.line = .idle ∨ x.line = .recovering ∨ x.line = .faulted) →
        y = { x with
          noise := if x.rx.startNoisy || (c.s8 != c.s9) || (c.s9 != c.s10) then min 65535 (x.noise + 1) else x.noise
          rx := { x.rx with mode := .resync, ones := 0, startNoisy := false } } →
        ((majorityBits c).getLsbD 9 = true → ∃ t, exec (.characterReceived q c) s = .next t ∧
          LinesOnly { s with dlc := put s.dlc q { y with rx := { y.rx with mode := .searching } } } t) ∧
        ((majorityBits c).getLsbD 9 = false → majorityBits c ≠ 0#10 → ∃ t, exec (.framingFault q c) s = .next t ∧
          LinesOnly { s with dlc := put s.dlc q { y with framing := min 65535 (x.framing + 1) } } t) ∧
        (majorityBits c = 0#10 → ∃ a t, exec (.breakReceived q c) s = .next t ∧
          LinesOnly { s with dlc := put s.dlc q { y with attention := a } } t ∧
          ((x.line = .faulted ∨ (x.line = .recovering ∧ x.discarding = true)) → a = x.attention) ∧
          ((x.line = .idle ∨ (x.line = .recovering ∧ x.discarding = false)) → ∀ d : Fin 4,
            a.getLsbD d.val = (x.attention.getLsbD d.val || (s.printer (printerAt q d)).config.configured)))) ∧
      ((x.line = .disabled ∨ x.rx.mode = .inCharacter ∨ x.rx.idleFlag = true) →
        ∃ t, exec (.lineIdle q) s = .next t ∧ LinesOnly s t) ∧
      ∀ y : Port, x.rx.mode ≠ .inCharacter → x.rx.idleFlag = false →
        y = { x with discarding := false, rx := { x.rx with mode := .searching, idleFlag := true, ones := 176 } } →
        ((x.line = .idle ∨ x.line = .transmitting ∨ x.line = .awaiting ∨ x.line = .faulted) →
          ∃ t, exec (.lineIdle q) s = .next t ∧ LinesOnly { s with dlc := put s.dlc q y } t) ∧
        (x.line = .recovering → ∃ t, exec (.lineIdle q) s = .next t ∧
          LinesOnly { s with dlc := put s.dlc q { y with
            line := if x.exchange.isSome then .transmitting else .idle
            recoverExpiry := none } } t)

/-- BLOCK_TRANSMITTED, RESPONSE_WINDOW_EXPIRY and REPLY_RECEIVED, and what ends a reply early (R74, R75, R80). Derived
from 04_drop_lines.md R74, R75, R76, R77, R80, R81, 05_the_drop_protocol_and_printer_records.md R91, R92, R93, R98.
What rests on the model's choices, assumption log 12, is named in its text: An expired window of a poll to a
configured printer with fewer than 2 misses counts a miss, sets its poll due time, takes stored rates into use, and
enters RECOVERING, or IDLE with the idle flag set (model's choice, assumption log 12). -/
def Obligations.ExchangesEnd : Prop :=
  ∀ (s : State) (q : Fin 8) (x : Port) (e : Exchange), x = s.port q → x.exchange = some e → x.config.enabled = true →
      (∀ (c : CharSamples) (ch : LineChar), x.line = .transmitting → x.rx.mode = .inCharacter →
        e.chars[e.echoed]? = some ch → e.echoed + 1 = e.chars.length → charReport c = .character ch.data ch.mark →
        (e.kind ≠ .lineReset → ∃ t, exec (.blockTransmitted q c) s = .next t ∧
          LinesOnly { s with dlc := put s.dlc q { x.endCharacter c with
            exchange := some { e with echoed := e.echoed + 1 }
            line := .awaiting
            windowExpiry := some (s.now + BitVec.ofNat 32 x.windowInUse) } } t) ∧
        (e.kind = .lineReset → ∃ v t, exec (.blockTransmitted q c) s = .next t ∧ LinesOnly v t ∧ EventOnly s v ∧
          (v.port q).line = .idle ∧ (v.port q).exchange = none ∧ (v.port q).attention = 0#4 ∧
          (∀ d, (s.printer (printerAt q d)).config.configured = true →
            (v.printer (printerAt q d)).link = .unknown ∧ (v.printer (printerAt q d)).missed = 0 ∧
            (v.printer (printerAt q d)).pollDue = s.now) ∧
          (AlertsOk s.arl → ∀ a ∈ v.arl.queue, a.key = portFaultKey q → a.active = false))) ∧
      (∀ expiry, x.line = .awaiting → x.windowExpiry = some expiry → reached s.now expiry = true →
        (∀ p r y, p = printerAt q e.drop → r = s.printer p → e.kind = .poll → r.config.configured = true →
          r.missed + 1 < 3 → x.restartPending = false →
          y = { x with
            exchange := none
            reply := []
            windowExpiry := none
            rateInUse := x.config.rate
            windowInUse := x.config.window
            line := if x.rx.idleFlag then .idle else .recovering
            recoverExpiry := if x.rx.idleFlag then none else some (s.now + 50#32) } →
          ∃ t, exec (.responseWindowExpiry q) s = .next t ∧ LinesOnly { s with
            dlc := put s.dlc q y
            pra := put s.pra p
              { r with missed := r.missed + 1, pollDue := s.now + BitVec.ofNat 32 x.config.poll } } t) ∧
        (x.restartPending = true → ∃ v t, exec (.responseWindowExpiry q) s = .next t ∧ LinesOnly v t ∧ EventOnly s v ∧
          (v.port q).exchange = some lineResetExchange ∧ (v.port q).restartPending = false ∧
          (v.port q).line = if x.rx.idleFlag then .transmitting else .recovering)) ∧
      (∀ (c : CharSamples) (d len : Byte) (reply : List Byte), x.line = .receiving → x.rx.mode = .inCharacter →
        x.restartPending = false → charReport c = .character d false → reply = x.reply ++ [d] → reply[1]? = some len →
        len.toNat ≤ 250 → reply.length = len.toNat + 3 →
        ∃ v t, exec (.replyReceived q c) s = .next t ∧ LinesOnly v t ∧ EventOnly s v ∧ (v.port q).exchange = none ∧
          (crc8 (reply.take (len.toNat + 2)) ≠ d →
            (v.port q).line = if x.rx.idleFlag then .idle else .recovering) ∧
          (crc8 (reply.take (len.toNat + 2)) = d → (v.port q).line = .idle ∧
            ∀ p st, p = printerAt q e.drop → (s.printer p).config.configured = true → e.kind = .poll →
              reply[0]? = some 0x81#8 → readStatus ((reply.drop 2).take len.toNat) = some st →
              (v.printer p).link = .answering ∧ (v.printer p).missed = 0 ∧ (v.printer p).room = st.room ∧
              (v.printer p).condition = some st.condition ∧
              (v.printer p).pollDue = s.now + BitVec.ofNat 32 x.config.poll)) ∧
      (∀ (c : CharSamples) (i : Instr), x.rx.mode = .inCharacter → x.restartPending = false →
        ((x.line = .receiving ∧ i = .framingFault q c ∧ charReport c = .framing) ∨
          (x.line = .receiving ∧ i = .characterReceived q c ∧ ∃ d mark, charReport c = .character d mark ∧
            (mark = true ∨ ∃ len, (x.reply ++ [d])[1]? = some len ∧ 250 < len.toNat)) ∨
          ((x.line = .receiving ∨ x.line = .awaiting) ∧ i = .breakReceived q c ∧ charReport c = .brk)) →
        ∃ v t, exec i s = .next t ∧ LinesOnly v t ∧ EventOnly s v ∧ (v.port q).exchange = none ∧
          (v.port q).line = (if x.rx.idleFlag then .idle else .recovering) ∧
          (charReport c = .brk → ∀ d : Fin 4, (s.printer (printerAt q d)).config.configured = true →
            (v.port q).attention.getLsbD d.val = true)) ∧
      (x.line = .receiving → x.rx.mode ≠ .inCharacter → x.rx.idleFlag = false → x.restartPending = false →
        ∃ v t, exec (.lineIdle q) s = .next t ∧ LinesOnly v t ∧ EventOnly s v ∧ (v.port q).exchange = none ∧
          (v.port q).line = .idle) ∧
      ∀ expiry p, x.line = .awaiting → x.windowExpiry = some expiry → reached s.now expiry = true → p = printerAt q e.drop →
        e.kind = .poll → (s.printer p).config.configured = true → 3 ≤ (s.printer p).missed + 1 →
        (s.printer p).link ≠ .lost → x.restartPending = false →
        ∃ v t, exec (.responseWindowExpiry q) s = .next t ∧ LinesOnly v t ∧ EventOnly s v ∧ (v.port q).exchange = none ∧
          (v.port q).line = (if x.rx.idleFlag then .idle else .recovering) ∧ (v.printer p).link = .lost ∧
          (v.printer p).missed = 3 ∧ (v.printer p).pollDue = s.now + BitVec.ofNat 32 x.config.poll ∧
          (AlertsOk s.arl → ∀ a ∈ v.arl.queue, a.key = printerKey p .printerLost → a.active = true)

/-- ECHO_MISMATCH and ECHO_TIMEOUT recover twice and then fault the port; RECOVERY_LIMIT_EXPIRY, FAULT_REST_EXPIRY.
Derived from 04_drop_lines.md R74, R77, R78, R79, R80, 05_the_drop_protocol_and_printer_records.md R93,
08_interrupted_printing_jams_lost_printers_and_canc.md R148, R150. What rests on the model's choices, assumption log
9, 12, is named in its text: Below 3 the line enters RECOVERING with its 50 ms limit, to begin the same exchange again
from its address character (the own break clears the idle flag: model's choice, assumption log 9). FAULT_REST_EXPIRY
starts a line reset, which transmits at once where the line idle flag is already set (inferred, assumption log 12). -/
def Obligations.ContentionsAndFaults : Prop :=
  ∀ (s : State) (q : Fin 8) (x : Port), x = s.port q →
      (∀ e y i, x.exchange = some e → x.line = .transmitting →
        ((i = .echoTimeout q ∧ y = x) ∨
          ∃ c ch, i = .echoMismatch q c ∧ x.rx.mode = .inCharacter ∧ y = x.endCharacter c ∧
            e.chars[e.echoed]? = some ch ∧ charReport c ≠ .character ch.data ch.mark) →
        (e.contentions + 1 < 3 → ∃ t, exec i s = .next t ∧ LinesOnly { s with dlc := put s.dlc q { y with
          contention := min 65535 (x.contention + 1)
          exchange := some { e with contentions := e.contentions + 1, echoed := 0 }
          discarding := true
          line := .recovering
          rx := { y.rx with idleFlag := false }
          recoverExpiry := some (s.now + 50#32) } } t) ∧
        (3 ≤ e.contentions + 1 → x.config.enabled = true → ∃ v t, exec i s = .next t ∧ LinesOnly v t ∧ EventOnly s v ∧
          (v.port q).line = .faulted ∧ (v.port q).exchange = none ∧ (v.port q).attention = 0#4 ∧
          (v.port q).restartPending = false ∧ (v.port q).restExpiry = some (s.now + 5000#32) ∧
          (v.port q).contention = min 65535 (x.contention + 1) ∧
          (∀ d, (s.printer (printerAt q d)).config.configured = true → (v.printer (printerAt q d)).link = .lost) ∧
          (AlertsOk s.arl → ∀ a ∈ v.arl.queue, a.key = portFaultKey q → a.active = true) ∧ CancellingSettled s v q)) ∧
      (∀ expiry, x.line = .recovering → x.recoverExpiry = some expiry → reached s.now expiry = true →
        x.config.enabled = true → ∃ v t, exec (.recoveryLimitExpiry q) s = .next t ∧ LinesOnly v t ∧ EventOnly s v ∧
          (v.port q).line = .faulted ∧ (v.port q).exchange = none ∧ (v.port q).attention = 0#4 ∧
          (v.port q).restartPending = false ∧ (v.port q).restExpiry = some (s.now + 5000#32) ∧
          (∀ d, (s.printer (printerAt q d)).config.configured = true → (v.printer (printerAt q d)).link = .lost) ∧
          (AlertsOk s.arl → ∀ a ∈ v.arl.queue, a.key = portFaultKey q → a.active = true) ∧ CancellingSettled s v q) ∧
      ∀ (expiry : Time) (y z : Port), x.line = .faulted → x.restExpiry = some expiry → reached s.now expiry = true →
        y = { x with
          exchange := some lineResetExchange, reply := [], restartPending := false, windowExpiry := none, restExpiry := none } →
        (x.rx.idleFlag = true → z = { y with line := .transmitting, recoverExpiry := none }) →
        (x.rx.idleFlag = false → z = { y with line := .recovering, recoverExpiry := some (s.now + 50#32) }) →
        ∃ t, exec (.faultRestExpiry q) s = .next t ∧ LinesOnly { s with dlc := put s.dlc q z } t

/-- The line arbiter's four classes, when polls and data exchanges are offered, and the block that is sent (R83, R91,
R94, R179). Derived from 04_drop_lines.md R83, 05_the_drop_protocol_and_printer_records.md R86, R91, R94, R103,
10_the_job_link_and_management.md R179. What rests on the model's choices, assumption log 3, 7, 27, 42, is named in
its text: On an IDLE line the lowest drop of the attention set for which no control block waits is polled and leaves
the set; with none, the oldest control block that is a candidate leaves the queue as DROP-SHEETS with the drop-from
feed (a free value where that is absent: assumption log 3); with none, of the offered polls with no control block
waiting the one due longest, the lowest among equals, is sent; with none, the first offered data exchange after the
last data drop; with none, nothing changes. POLL_DUE for an offered poll changes nothing but by the line arbiters, and
leaves an IDLE line TRANSMITTING; for one that is not offered it changes nothing (model's choice, assumption log 7). A
poll is offered when the printer is configured, its port enabled by the stored record (model's choice, assumption log
42) and the timestamp has reached its poll due time. The block sent is of the oldest SENDING entry: START with feed,
tag, copy, sheet, sides, size class, medium, ink flags (their places inferred, assumption log 27) and byte length;
DATA n with feed, n modulo 65536, last flag, and the up to 240 image bytes from byte 240 n on. -/
def Obligations.LineArbiterClasses : Prop :=
  ∀ (s : State) (q : Fin 8) (x : Port), x = s.port q →
      (x.line ≠ .idle → s.serviceLine q = s) ∧
      (x.line = .idle →
        (∀ d : Fin 4, x.attention.getLsbD d.val = true → x.controlWaits d = false →
          (∀ d' : Fin 4, d' < d → x.attention.getLsbD d'.val = true → x.controlWaits d' = true) →
          s.serviceLine q = { s with dlc := put s.dlc q { x with
            attention := x.attention &&& ~~~(1#4 <<< d.val)
            line := .transmitting
            reply := []
            exchange := some
              { kind := .poll
                drop := d
                chars := blockCharacters (BitVec.ofNat 8 d.val) 0x01#8 []
                echoed := 0
                contentions := 0 } } }) ∧
        ((∀ d : Fin 4, x.attention.getLsbD d.val = true → x.controlWaits d = true) →
          (∀ (i : Nat) (b : ControlBlock), x.control[i]? = some b →
            (b.waitDue = false ∨ reached s.now (s.printer (printerAt q b.drop)).pollDue = true) →
            (∀ (i' : Nat) (b' : ControlBlock), i' < i → x.control[i']? = some b' → b'.waitDue = true ∧
              reached s.now (s.printer (printerAt q b'.drop)).pollDue = false) →
            ∃ f : Byte, (∀ g, (s.printer (printerAt q b.drop)).dropFrom = some g → f = g) ∧
              s.serviceLine q = { s with
                choices := if (s.printer (printerAt q b.drop)).dropFrom.isNone then s.choices + 1 else s.choices
                dlc := put s.dlc q { x with
                  control := x.control.filter fun (y : ControlBlock) => y.drop != b.drop
                  line := .transmitting
                  reply := []
                  exchange := some
                    { kind := .dropSheets
                      drop := b.drop
                      chars := blockCharacters (BitVec.ofNat 8 b.drop.val) 0x04#8 [f]
                      echoed := 0
                      contentions := 0 } } }) ∧
          ((∀ b ∈ x.control, b.waitDue = true ∧ reached s.now (s.printer (printerAt q b.drop)).pollDue = false) →
            (∀ d : Fin 4, s.pollOffered (printerAt q d) = true → x.controlWaits d = false →
              (∀ d' : Fin 4, s.pollOffered (printerAt q d') = true → x.controlWaits d' = false →
                s.overdue q d' ≤ s.overdue q d ∧ (d' < d → s.overdue q d' < s.overdue q d)) →
              s.serviceLine q = { s with dlc := put s.dlc q { x with
                line := .transmitting
                reply := []
                exchange := some
                  { kind := .poll
                    drop := d
                    chars := blockCharacters (BitVec.ofNat 8 d.val) 0x01#8 []
                    echoed := 0
                    contentions := 0 } } }) ∧
            ((∀ d : Fin 4, s.pollOffered (printerAt q d) = true → x.controlWaits d = true) →
              (∀ (n : Nat) (d : Fin 4) kind code payload, n < 4 → d.val = (x.lastDrop.val + 1 + n) % 4 →
                s.dataOffered (printerAt q d) = true → s.dataBlock (printerAt q d) = some (kind, code, payload) →
                x.controlWaits d = false →
                (∀ (m : Nat) (d' : Fin 4), m < n → d'.val = (x.lastDrop.val + 1 + m) % 4 →
                  s.dataOffered (printerAt q d') = true → s.dataBlock (printerAt q d') = none ∨ x.controlWaits d' = true) →
                s.serviceLine q = { s with
                  pra := if code = 0x03#8 then put s.pra (printerAt q d)
                    { s.printer (printerAt q d) with room := (s.printer (printerAt q d)).room - 1 } else s.pra
                  dlc := put s.dlc q { x with
                    lastDrop := d
                    line := .transmitting
                    reply := []
                    exchange := some
                      { kind := kind
                        drop := d
                        chars := blockCharacters (BitVec.ofNat 8 d.val) code payload
                        echoed := 0
                        contentions := 0 } } }) ∧
              ((∀ d : Fin 4, s.dataOffered (printerAt q d) = true →
                s.dataBlock (printerAt q d) = none ∨ x.controlWaits d = true) → s.serviceLine q = s))))) ∧
      ∀ p, portOf p = q →
        (s.pollOffered p = true → ∃ t, exec (.pollDue p) s = .next t ∧ LinesOnly s t ∧
          (x.line = .idle → (t.port q).line = .transmitting)) ∧
        (s.pollOffered p = false → exec (.pollDue p) s = .next s) ∧
        (s.pollOffered p = true ↔ (s.printer p).config.configured = true ∧ x.config.enabled = true ∧
          (s.now - (s.printer p).pollDue).toNat < 2147483648) ∧
        (s.dataOffered p = true ↔ (s.printer p).config.configured = true ∧ (∃ e ∈ (s.disp p).window, e.sent = false) ∧
          (s.printer p).link = .answering ∧ s.canFeed p = true ∧ (s.printer p).needsDrop = false ∧
          ((s.printer p).stage = some .start ∨ ∃ n, (s.printer p).stage = some (.data n) ∧ 1 ≤ (s.printer p).room)) ∧
        (∀ (before after : List WindowEntry) (e : WindowEntry) (y : Job) (d : SheetDesc),
          (s.disp p).window = before ++ e :: after → (∀ b ∈ before, b.sent = true) → e.sent = false →
          s.job e.job = some y → s.sheetDesc y e.sheet = some d →
          ((s.printer p).stage = some .start → ∃ payload, payload.length = 14 ∧
            payload = [e.feed] ++ beBytes 2 y.tag.toNat ++ [BitVec.ofNat 8 e.copy] ++ beBytes 2 e.sheet ++
              [BitVec.ofNat 8 d.sides, BitVec.ofNat 8 d.sizeClass.val, BitVec.ofNat 8 d.media.val,
                (if d.ink1 = .colour then 1#8 else 0#8) ||| (if d.ink2 = some .colour then 2#8 else 0#8)] ++
              beBytes 4 d.byteLen ∧
            s.dataBlock p = some (.start e.feed (d.byteLen == 0), 0x02#8, payload)) ∧
          ∀ n last, (s.printer p).stage = some (.data n) → (last = true ↔ d.byteLen ≤ 240 * (n + 1)) →
            ∃ image : List Byte, image.length = min 240 (d.byteLen - 240 * n) ∧
              (∀ (i : Nat) (block : Fin 32768), i < image.length → d.blocks[(240 * n + i) / 4096]? = some block →
                image[i]? = some (Memory.read s.spm.dram (4096 * block.val + (240 * n + i) % 4096))) ∧
              s.dataBlock p = some (.data e.feed n last, 0x03#8,
                [e.feed] ++ beBytes 2 (n % 65536) ++ [if last then 1#8 else 0#8] ++ image)) ∧
        ∀ (address kind : Byte) (payload : List Byte), blockCharacters address kind payload =
          { data := address, mark := true } ::
            ([kind, BitVec.ofNat 8 payload.length] ++ payload ++
              [crc8 ([kind, BitVec.ofNat 8 payload.length] ++ payload)]).map fun b => { data := b, mark := false }

/-- Every step keeps queues, windows, job positions, bindings and reserved amounts in agreement (R1, R3, R45, R46,
R49, R61, R123). Derived from 01_jobs_and_the_spool.md R1, R3, 03_pools_and_dispatch.md R45, R46, R49, R55, R56, R58,
R61, 07_accounts_and_meters.md R123, 10_the_job_link_and_management.md R172. -/
def Obligations.DispatchInvariant : Prop :=
  ∀ s t : State, DispatchOk s → step s = .next t → DispatchOk t ∧ ∀ a, (t.account a).reserved ≤ 4294967295

/-- STALL_TIMER_EXPIRY loses the window, tells the printer to drop it, and takes the job off the printer (R138).
Derived from 08_interrupted_printing_jams_lost_printers_and_canc.md R136, R138, 03_pools_and_dispatch.md R50, R54,
R60, R63, 05_the_drop_protocol_and_printer_records.md R103. What rests on the model's choices, assumption log 7, 18,
19, 23, is named in its text: With a PRINTING job and entries in the window: every entry is lost, the printer has no
job, no entry and no timer, and the job's sheets lost have risen by the entries; STALL_REROUTED is raised after the
loss and the retry of a BUDGET drain's gate, and before the rest (inferred, assumption log 19). With the link not LOST
needs-drop is set with the oldest feed number, the earlier kept, and a DROP-SHEETS waits unless the port is DISABLED,
before the Dispatch Scheduler acts (inferred, assumption log 18); with the link LOST needs-drop is as it was. A job
with no drain reason, or whose BUDGET drain a passing gate removes, is in its pool's queue, or on another printer, or
held again for its budget; the same where a drain ends with no hold left; where a drain ends and a hold is left
(BUDGET after a BUDGET drain) the job is HELD with its holds, unassigned first (inferred, assumption log 23). With no
expiry running or reached nothing changes (model's choice, assumption log 7). -/
def Obligations.StallTimerExpiry : Prop :=
  ∀ (s : State) (p : Fin 32) (d : Dispatch) (r : Printer), d = s.disp p → r = s.printer p →
      (∀ expiry, d.stall = some expiry → reached s.now expiry = true →
        (∀ w : State, d.window = [] → w = ({ s with dsc := { s.dsc with
            printers := put s.dsc.printers p { d with stall := none } } } : State).raiseAt (printerKey p .stallRerouted)
              false s.now →
          (d.assigned = none → ∃ t, exec (.stallTimerExpiry p) s = .next t ∧ LinesOnly w t) ∧
          ∀ j x, d.assigned = some j → s.job j = some x → x.phase = .printing → x.drain = none →
            ∃ t, exec (.stallTimerExpiry p) s = .next t ∧ LinesOnly ((({ w with
              dsc := { w.dsc with
                printers := put w.dsc.printers p { d with assigned := none, stall := none, leaving := false } }
              pra := put w.pra p { r with inService := r.inService && !d.leaving }
              spm := { w.spm with
                jobs := put w.spm.jobs j (some { x with printer := none, drain := none, stalled := false }) } } :
              State).offerPrinter p).requeue j) t) ∧
        (∀ j x e rest lost, d.assigned = some j → s.job j = some x → d.window = e :: rest → e.job = j →
          lost = { x with
            releasePos := ordinal x.sheets e.copy e.sheet - 1
            sheetsLost := min 65535 (x.sheetsLost + (rest.length + 1)) } →
          (∀ (pass : Bool) (w : State) (h : Holds), x.phase = .printing →
            (pass = true ↔ x.drain = some .budget ∧ ∃ pos n, s.nextEstimate lost = some (pos, n) ∧
              gatePasses { s.account x.account with
                reserved := (s.account x.account).reserved - ((e :: rest).map WindowEntry.estimate).sum } n = true) →
            w = (if pass then
              ({ s with spm := { s.spm with jobs := put s.spm.jobs j (some { x with drain := none }) } } :
                State).budgetTest x.account else s).raiseAt (printerKey p .stallRerouted) false s.now →
            h = (if x.drain = some .budget then { x.holds with budget := true } else x.holds) →
            ∃ v y t, exec (.stallTimerExpiry p) s = .next t ∧ LinesOnly v t ∧ PrintingOnly s v ∧
              (r.link = .lost → (v.printer p).needsDrop = r.needsDrop ∧ (v.printer p).dropFrom = r.dropFrom) ∧
              (r.link ≠ .lost → ToldToDrop s v p e.feed) ∧
              (v.disp p).assigned = none ∧ (v.disp p).window = [] ∧ (v.disp p).stall = none ∧
              v.job j = some y ∧ y.printer ≠ some p ∧ y.sheetsLost = lost.sheetsLost ∧
              v.arl.queue.filter (hasKey (printerKey p .stallRerouted)) =
                w.arl.queue.filter (hasKey (printerKey p .stallRerouted)) ∧ w.jli.tx <+: v.jli.tx ∧
              ((x.drain = none ∨ pass = true ∨ noHolds h = true) →
                y.phase = .queued ∨ y.phase = .printing ∨ (y.phase = .held ∧ y.holds.budget = true)) ∧
              (x.drain ≠ none → pass = false → noHolds h = false →
                y = { lost with phase := .held, holds := h, drain := none, printer := none, stalled := false })) ∧
          ∀ out cause, x.phase = .cancelling → x.ending = some (out, cause) →
            ∃ v t, exec (.stallTimerExpiry p) s = .next t ∧ LinesOnly v t ∧ PrintingOnly s v ∧ v.job j = none ∧
              (r.link = .lost → (v.printer p).needsDrop = r.needsDrop ∧ (v.printer p).dropFrom = r.dropFrom) ∧
              (r.link ≠ .lost → ToldToDrop s v p e.feed) ∧
              HandedFirst (s.raiseAt (printerKey p .stallRerouted) false s.now) (.jobReport (reportOf lost out cause)) v) ∧
        ∀ j x out cause, d.assigned = some j → s.job j = some x → d.window = [] → x.phase = .cancelling →
          x.ending = some (out, cause) →
          ∃ v t, exec (.stallTimerExpiry p) s = .next t ∧ LinesOnly v t ∧ PrintingOnly s v ∧ v.job j = none ∧
            HandedFirst (s.raiseAt (printerKey p .stallRerouted) false s.now) (.jobReport (reportOf x out cause)) v) ∧
      ((∀ expiry, d.stall = some expiry → reached s.now expiry = false) → exec (.stallTimerExpiry p) s = .next s)

/-- A STATUS is taken in order; a delivery record is a delivery, charged and metered, or unmatched, or a protocol
error (R98 to R101, R124). Derived from 05_the_drop_protocol_and_printer_records.md R91, R98, R99, R100, R101, R104,
08_interrupted_printing_jams_lost_printers_and_canc.md R150, 03_pools_and_dispatch.md R62, 07_accounts_and_meters.md
R124, R132, 01_jobs_and_the_spool.md R20, R23. What rests on the model's choices, assumption log 18, 34, is named in
its text: Otherwise the port's protocol-error count rises; with an empty window nothing else changes; with entries of
a live job needs-drop is set, and a PRINTING job has lost them all: its sheets lost rise by their number, and a drain
for HOLD or SERVICE leaves the window empty (needs-drop set before the Dispatch Scheduler acts on the loss: inferred,
assumption log 18); a CANCELLING job loses them all and ends. A STATUS is taken in order: the link ANSWERING with no
misses, PRINTER_LOST cleared and can feed evaluated (then: inferred, assumption log 34), the room, the delivery
records one by one, the committed field where it answers DROP-SHEETS, the condition, the poll due time. -/
def Obligations.DeliveryRecordsAreTaken : Prop :=
  (∀ (s v : State) (p : Fin 32) (r : DeliveryRecord) (a : Nat), r.printed.length ≤ 2 →
        a = ((match (s.disp p).window with
          | e :: _ => e.feed
          | [] => (s.printer p).nextFeed) - r.feed).toNat → v = State.takeRecord p s r →
        PrintingOnly s v ∧
        (1 ≤ a → a ≤ 128 → v = { s with
          pra := put s.pra p { s.printer p with unmatched := min 65535 ((s.printer p).unmatched + 1) } }) ∧
        (∀ e rest x d c n, a = 0 → (s.disp p).window = e :: rest → s.job e.job = some x → s.sheetDesc x e.sheet = some d →
          c = charge (s.jobClass x) d.sizeClass d.media (r.printed.take d.sides) (tierApplies (s.account x.account)) →
          n = s.account x.account →
          (v.account x.account).balance = max (-2147483648) (min 2147483647 (n.balance - (c : Int))) ∧
          (v.account x.account).periodSheets = min 4294967295 (n.periodSheets + 1) ∧
          (v.account x.account).periodMono =
            min 4294967295 (n.periodMono + ((r.printed.take d.sides).filter (fun k => k == .mono)).length) ∧
          (v.account x.account).periodColour =
            min 4294967295 (n.periodColour + ((r.printed.take d.sides).filter (fun k => k == .colour)).length) ∧
          (v.account x.account).periodCharge = min 4294967295 (n.periodCharge + c) ∧
          v.acm.meters.get p = raiseMeters (s.acm.meters.get p) (r.printed.take d.sides) ∧
          ((x.phase = .printing ∧ x.isOpen = false ∧ x.confirmPos + 1 = x.copies * x.sheets) → v.job e.job = none) ∧
          ((x.phase = .printing ∧ ¬(x.isOpen = false ∧ x.confirmPos + 1 = x.copies * x.sheets)) →
            ∃ y, v.job e.job = some y ∧ y.confirmPos = x.confirmPos + 1 ∧
              y.chargeTotal = min 4294967295 (x.chargeTotal + c)) ∧
          (x.phase = .cancelling → rest ≠ [] →
            v.job e.job = some { x with
              confirmPos := x.confirmPos + 1, chargeTotal := min 4294967295 (x.chargeTotal + c) } ∧
            (v.account x.account).reserved = n.reserved - e.estimate) ∧
          (x.phase = .cancelling → rest = [] → x.ending ≠ none → v.job e.job = none)) ∧
        (∀ j x out cause e rest, 128 < a → (s.disp p).window = e :: rest → e.job = j → s.job j = some x →
          x.phase = .cancelling → x.ending = some (out, cause) →
          v.job j = none ∧ (v.disp p).window = [] ∧ ToldToDrop s v p e.feed ∧ HandedFirst s (.jobReport
            { reportOf x out cause with sheetsLost := min 65535 (x.sheetsLost + (rest.length + 1)) }) v) ∧
        (a = 0 ∨ 128 < a →
          (∀ y : Port, (s.disp p).window = [] → y = { s.port (portOf p) with
            protocolErrors := min 65535 ((s.port (portOf p)).protocolErrors + 1) } →
            v = { s with dlc := put s.dlc (portOf p) y }) ∧
          (128 < a → ∀ e rest x, (s.disp p).window = e :: rest → s.job e.job = some x →
            (v.port (portOf p)).protocolErrors = min 65535 ((s.port (portOf p)).protocolErrors + 1) ∧
            (v.printer p).needsDrop = true ∧
            (x.phase = .printing → (∃ y, v.job e.job = some y ∧ y.sheetsLost = min 65535 (x.sheetsLost + (rest.length + 1))) ∧
              (x.drain = some .hold ∨ x.drain = some .service → (v.disp p).window = []))))) ∧
      ∀ (s : State) (p : Fin 32),
        (∀ (st : Status) (drop : Bool) (a b c d v : State),
          a = (({ s with pra := put s.pra p { s.printer p with link := .answering, missed := 0 } } : State).clear
            (printerKey p .printerLost)).refreshFeed p →
          b = st.records.foldl (State.takeRecord p) { a with pra := put a.pra p { a.printer p with room := st.room } } →
          c = (if drop then b.takeCommitted p st.committed else b) → d = c.takeCondition p st.condition →
          v = { d with
            pra := put d.pra p
              { d.printer p with pollDue := s.now + BitVec.ofNat 32 (s.port (portOf p)).config.poll } } →
          s.takeStatus p st drop = v) ∧
        ((s.printer p).config.configured = true →
          (∀ payload st, readStatus payload = some st →
            s.takeOutcome p .poll (.replyOk 0x81#8 payload) = s.takeStatus p st false) ∧
          ∀ o v, statusOf o = none → v = s.exchangeFailed p → s.takeOutcome p .poll o = { v with
            pra := put v.pra p
              { v.printer p with pollDue := s.now + BitVec.ofNat 32 (s.port (portOf p)).config.poll } })

/-- The estimate of a sheet (R112). States R112. -/
def Obligations.EstimateOfASheet : Prop :=
  ∀ (c : TariffClass) (z m : Fin 4) (rmax : Nat),
      rmax = max (c.rates.get ⟨2 * z.val, by omega⟩).toNat (c.rates.get ⟨2 * z.val + 1, by omega⟩).toNat →
      estimate c 1 z m = rmax + (c.surcharges.get m).toNat ∧
      estimate c 2 z m = rmax + (rmax * (100 - c.rebate.toNat) + 50) / 100 + (c.surcharges.get m).toNat ∧
      (∀ d tier, estimate { c with tier := tier } d z m = estimate c d z m) ∧
      ∀ d, estimate c d z m ≤ 196605

/-- The side total of a delivered sheet (R113). States R113. -/
def Obligations.SideTotalOfASheet : Prop :=
  ∀ (c : TariffClass) (z : Fin 4) (rate : Ink → Nat),
      rate .mono = (c.rates.get ⟨2 * z.val, by omega⟩).toNat → rate .colour = (c.rates.get ⟨2 * z.val + 1, by omega⟩).toNat →
      (∀ k1 k2, sideTotal c z [k1, k2] =
        max (rate k1) (rate k2) + (min (rate k1) (rate k2) * (100 - c.rebate.toNat) + 50) / 100) ∧
      (∀ k, sideTotal c z [k] = rate k) ∧ sideTotal c z [] = 0 ∧
      (∀ k1 k2, sideTotal c z [k1, k2] = sideTotal c z [k2, k1]) ∧
      (∀ k1 k2, c.rebate = 0#8 → sideTotal c z [k1, k2] = rate k1 + rate k2) ∧
      ∀ k1 k2, c.rebate = 100#8 → sideTotal c z [k1, k2] = max (rate k1) (rate k2)

/-- Rounding and ranges of the charge arithmetic (R115), and no charge above its estimate (R116). States R115, R116.
-/
def Obligations.ChargeStaysInItsRangeAndUnderTheEstimate : Prop :=
  ∀ (c : TariffClass) (z m : Fin 4), c.rebate.toNat ≤ 100 → c.tier.toNat ≤ 100 →
      (∀ x p, percentOf x p = (x * p + 50) / 100 ∧ (x * p % 100 = 50 → percentOf x p = x * p / 100 + 1)) ∧
      (∀ k, rateOf c z k ≤ 65535 ∧ rebated c (rateOf c z k) ≤ 65535 ∧
        rateOf c z k * (100 - c.rebate.toNat) + 50 ≤ 6553550) ∧
      (∀ printed : List Ink, sideTotal c z printed ≤ 131070 ∧ sideTotal c z printed + surchargeOf c m ≤ 196605 ∧
        (sideTotal c z printed + surchargeOf c m) * c.tier.toNat + 50 ≤ 19660550 ∧
        ∀ tier, charge c z m printed tier ≤ 196605) ∧
      (∀ d, estimate c d z m ≤ 196605) ∧
      ∀ (d : Nat) (printed : List Ink) (tier : Bool), d = 1 ∨ d = 2 → charge c z m (printed.take d) tier ≤ estimate c d z m

/-- The gate test, the tier of a charge and the rollover of a meter (R114, R122, R132). Derived from
06_charging_arithmetic_and_tariff_banks.md R114, 07_accounts_and_meters.md R122, R132. -/
def Obligations.GateTierAndMeterRules : Prop :=
  (∀ (a : Account) (e : Nat), gatePasses a e = true ↔ a.blocked = false ∧
        (a.unlimited = true ∨ a.balance - (a.reserved : Int) - (e : Int) ≥ -(a.overdraft : Int))) ∧
      (∀ a : Account, tierApplies a = true ↔ ∃ n, a.threshold = some n ∧ n ≤ a.periodSheets) ∧
      (∀ (c : TariffClass) (z m : Fin 4) (printed : List Ink) (total : Nat),
        total = sideTotal c z printed + (c.surcharges.get m).toNat →
        charge c z m printed true = (total * c.tier.toNat + 50) / 100 ∧ charge c z m printed false = total) ∧
      ∀ (m : Meter) (n : Nat), MeterOk m → n ≤ 2 →
        (m.value + n < 1000000000 → raiseMeter m n = { m with value := m.value + n }) ∧
        (1000000000 ≤ m.value + n → raiseMeter m n =
          { value := m.value + n - 1000000000, rolls := if m.rolls = 255 then 0 else m.rolls + 1 })

/-- No event of a line, a printer, a stall timer or a sense input touches configuration, streams, tariffs or DRAM.
Derived from 04_drop_lines.md R84, 05_the_drop_protocol_and_printer_records.md R93,
08_interrupted_printing_jams_lost_printers_and_canc.md R134, 09_alert_queue_beacons_and_sense_inputs.md R162,
95_what_each_step_holds.md. -/
def Obligations.EventsChangeOnlyTheirOwn : Prop :=
  ∀ (c : Instr) (s : State), isEvent c = true → ∃ t, exec c s = .next t ∧ EventOnly s t

/-- Every step keeps the alert queue legal, the transmit list and counts in range and the DRAM in its form. Derived
from 09_alert_queue_beacons_and_sense_inputs.md R152, R153, R155, 10_the_job_link_and_management.md R165, R166, R167,
01_jobs_and_the_spool.md R7. -/
def Obligations.AlertLinkAndDramInvariant : Prop :=
  ∀ s t : State, AlertsOk s.arl → LinkOk s.jli → Memory.wf s.spm.dram = true → step s = .next t →
      AlertsOk t.arl ∧ LinkOk t.jli ∧ Memory.wf t.spm.dram = true

/-- Every step keeps the law of routes, pools, printers, accounts and bound counts (R29, R44, R88, R109, R121).
Derived from 02_routing_and_admission.md R29, R39, 03_pools_and_dispatch.md R44,
05_the_drop_protocol_and_printer_records.md R88, 06_charging_arithmetic_and_tariff_banks.md R109,
07_accounts_and_meters.md R119, R121. -/
def Obligations.RouteAndBindingInvariant : Prop :=
  ∀ s t : State, RoutesOk s → MembersOk s → BoundOk s → step s = .next t → RoutesOk t ∧ MembersOk t ∧ BoundOk t

/-- Every step keeps the listed fields of the tables and records in the ranges the spec gives them. Derived from
01_jobs_and_the_spool.md R1, 02_routing_and_admission.md R26, 03_pools_and_dispatch.md R42, 04_drop_lines.md R70, R72,
R83, 05_the_drop_protocol_and_printer_records.md R88, R90, R96, 06_charging_arithmetic_and_tariff_banks.md R106,
07_accounts_and_meters.md R117, R132, 09_alert_queue_beacons_and_sense_inputs.md R161,
10_the_job_link_and_management.md R174. -/
def Obligations.FieldRangesInvariant : Prop :=
  ∀ s t : State, RangesOk s → step s = .next t → RangesOk t

/-- Every step keeps each block free once or in one sheet once, and each descriptor in one job once (R6, R7). Derived
from 01_jobs_and_the_spool.md R6, R7, R8, R22. -/
def Obligations.SpoolInvariant : Prop :=
  ∀ s t : State, SpoolOk s → step s = .next t → SpoolOk t

/-- The machine right after power-on meets the invariants that every step keeps. Derived from 01_jobs_and_the_spool.md
R25, 02_routing_and_admission.md R27, R29, 03_pools_and_dispatch.md R43, 09_alert_queue_beacons_and_sense_inputs.md
R152, 10_the_job_link_and_management.md R167, 00_scope.md section 0.7.7. -/
def Obligations.ResetMeetsTheInvariants : Prop :=
  AlertsOk State.reset.arl ∧ LinkOk State.reset.jli ∧ Memory.wf State.reset.spm.dram = true ∧ RoutesOk State.reset ∧
      MembersOk State.reset ∧ BoundOk State.reset ∧ RangesOk State.reset ∧ SpoolOk State.reset ∧ DispatchOk State.reset
end

