-- ==== Sys2Proof/Laws/State.lean ====
section
/-!
SUPPORT. One lemma for each field under each update of `Machine/Ops.lean`, each true by `rfl`; what a reader reads after an
update; and what a table holds after one of its entries is replaced.
-/

namespace Sys2Proof.Machine

/-! ### Tables -/

theorem put_get_same {α : Type} {n : Nat} (v : Vector α n) (i : Fin n) (x : α) : (put v i x).get i = x :=
  Vector.getElem_set_self i.isLt

theorem put_get_other {α : Type} {n : Nat} (v : Vector α n) (i j : Fin n) (x : α) (h : j ≠ i) :
    (put v i x).get j = v.get j :=
  Vector.getElem_set_ne i.isLt j.isLt (fun e => h (Fin.ext e.symm))

@[simp] theorem put_get {α : Type} {n : Nat} (v : Vector α n) (i j : Fin n) (x : α) :
    (put v i x).get j = if j = i then x else v.get j := by
  by_cases h : j = i
  · subst h; simp [put_get_same]
  · simp [h, put_get_other]

@[simp] theorem put_put {α : Type} {n : Nat} (v : Vector α n) (i : Fin n) (x y : α) : put (put v i x) i y = put v i y := by
  simp [put]

theorem get_replicate {α : Type} {n : Nat} (x : α) (i : Fin n) : (Vector.replicate n x).get i = x := by
  simp [Vector.get]

theorem get_map {α β : Type} {n : Nat} (f : α → β) (v : Vector α n) (i : Fin n) : (v.map f).get i = f (v.get i) := by
  simp [Vector.get]

theorem put_toList {α : Type} {n : Nat} (v : Vector α n) (i : Fin n) (x : α) : (put v i x).toList = v.toList.set i.val x := by
  obtain ⟨a, h⟩ := v
  exact Array.toList_set a i.val x (by rw [h]; exact i.isLt)

theorem toList_get {α : Type} {n : Nat} (v : Vector α n) (i : Fin n) : v.toList[i.val]? = some (v.get i) := by
  simp [Vector.get]

theorem countP_set {α : Type} (f : α → Bool) : ∀ (l : List α) (i : Nat) (x y : α), l[i]? = some y →
    (l.set i x).countP f + (if f y then 1 else 0) = l.countP f + (if f x then 1 else 0)
  | [], _, _, _, h => by simp at h
  | a :: l, 0, x, y, h => by
    simp only [List.getElem?_cons_zero, Option.some.injEq] at h
    subst h
    simp only [List.set_cons_zero, List.countP_cons]
    omega
  | a :: l, i + 1, x, y, h => by
    simp only [List.getElem?_cons_succ] at h
    have := countP_set f l i x y h
    simp only [List.set_cons_succ, List.countP_cons]
    omega

/-- How many entries of a table have a property, after one is replaced. -/
theorem countP_put {α : Type} {n : Nat} (f : α → Bool) (v : Vector α n) (i : Fin n) (x : α) :
    (put v i x).toList.countP f + (if f (v.get i) then 1 else 0) = v.toList.countP f + (if f x then 1 else 0) := by
  rw [put_toList]
  exact countP_set f _ _ _ _ (toList_get v i)

theorem flatMap_set {α β : Type} (f : α → List β) : ∀ (l : List α) (i : Nat) (x y : α), l[i]? = some y →
    ((l.set i x).flatMap f ++ f y).Perm (l.flatMap f ++ f x)
  | [], _, _, _, h => by simp at h
  | a :: l, 0, x, y, h => by
    simp only [List.getElem?_cons_zero, Option.some.injEq] at h
    subst h
    simp only [List.set_cons_zero, List.flatMap_cons]
    rw [List.append_assoc]
    exact (List.perm_append_comm (l₁ := f x)).trans (List.perm_append_comm.append_right _)
  | a :: l, i + 1, x, y, h => by
    simp only [List.getElem?_cons_succ] at h
    simp only [List.set_cons_succ, List.flatMap_cons, List.append_assoc]
    exact List.Perm.append_left _ (flatMap_set f l i x y h)

/-- What the entries of a table hold together, after one is replaced. -/
theorem flatMap_put {α β : Type} {n : Nat} (f : α → List β) (v : Vector α n) (i : Fin n) (x : α) :
    ((put v i x).toList.flatMap f ++ f (v.get i)).Perm (v.toList.flatMap f ++ f x) := by
  rw [put_toList]
  exact flatMap_set f _ _ _ _ (toList_get v i)

theorem mem_toList {α : Type} {n : Nat} (v : Vector α n) (i : Fin n) : v.get i ∈ v.toList :=
  List.mem_of_getElem? (toList_get v i)

theorem any_false_get {α : Type} {n : Nat} {f : α → Bool} {v : Vector α n} (h : v.toList.any f = false) (i : Fin n) :
    f (v.get i) = false := by
  rw [List.any_eq_false] at h
  simpa using h (v.get i) (mem_toList v i)
/-- Two tables with the same entries are the same. -/
theorem table_ext {α : Type} {n : Nat} {u v : Vector α n} (h : ∀ i, u.get i = v.get i) : u = v := by
  apply Vector.ext
  intro i hi
  simpa [Vector.get] using h ⟨i, hi⟩

namespace State

variable (s : State)


/-! ### setJob -/

@[simp] theorem setJob_jli (j : Fin 128) (o : Option Job) : (s.setJob j o).jli = s.jli := rfl
@[simp] theorem setJob_mgu (j : Fin 128) (o : Option Job) : (s.setJob j o).mgu = s.mgu := rfl
@[simp] theorem setJob_rcl (j : Fin 128) (o : Option Job) : (s.setJob j o).rcl = s.rcl := rfl
@[simp] theorem setJob_jobs (j : Fin 128) (o : Option Job) : (s.setJob j o).spm.jobs = put s.spm.jobs j o := rfl
@[simp] theorem setJob_streams (j : Fin 128) (o : Option Job) : (s.setJob j o).spm.streams = s.spm.streams := rfl
@[simp] theorem setJob_descs (j : Fin 128) (o : Option Job) : (s.setJob j o).spm.descs = s.spm.descs := rfl
@[simp] theorem setJob_freeList (j : Fin 128) (o : Option Job) : (s.setJob j o).spm.freeList = s.spm.freeList := rfl
@[simp] theorem setJob_paused (j : Fin 128) (o : Option Job) : (s.setJob j o).spm.paused = s.spm.paused := rfl
@[simp] theorem setJob_dram (j : Fin 128) (o : Option Job) : (s.setJob j o).spm.dram = s.spm.dram := rfl
@[simp] theorem setJob_dsc (j : Fin 128) (o : Option Job) : (s.setJob j o).dsc = s.dsc := rfl
@[simp] theorem setJob_dlc (j : Fin 128) (o : Option Job) : (s.setJob j o).dlc = s.dlc := rfl
@[simp] theorem setJob_pra (j : Fin 128) (o : Option Job) : (s.setJob j o).pra = s.pra := rfl
@[simp] theorem setJob_chg (j : Fin 128) (o : Option Job) : (s.setJob j o).chg = s.chg := rfl
@[simp] theorem setJob_acm (j : Fin 128) (o : Option Job) : (s.setJob j o).acm = s.acm := rfl
@[simp] theorem setJob_arl (j : Fin 128) (o : Option Job) : (s.setJob j o).arl = s.arl := rfl
@[simp] theorem setJob_now (j : Fin 128) (o : Option Job) : (s.setJob j o).now = s.now := rfl
@[simp] theorem setJob_senseLines (j : Fin 128) (o : Option Job) : (s.setJob j o).senseLines = s.senseLines := rfl
@[simp] theorem setJob_choices (j : Fin 128) (o : Option Job) : (s.setJob j o).choices = s.choices := rfl
@[simp] theorem setJob_pending (j : Fin 128) (o : Option Job) : (s.setJob j o).pending = s.pending := rfl
@[simp] theorem job_setJob (j : Fin 128) (o : Option Job) (i : Fin 128) : (s.setJob j o).job i = if i = j then o else s.job i := put_get _ _ _ _
@[simp] theorem disp_setJob (j : Fin 128) (o : Option Job) (i : Fin 32) : (s.setJob j o).disp i = s.disp i := rfl
@[simp] theorem pool_setJob (j : Fin 128) (o : Option Job) (i : Fin 16) : (s.setJob j o).pool i = s.pool i := rfl
@[simp] theorem printer_setJob (j : Fin 128) (o : Option Job) (i : Fin 32) : (s.setJob j o).printer i = s.printer i := rfl
@[simp] theorem port_setJob (j : Fin 128) (o : Option Job) (i : Fin 8) : (s.setJob j o).port i = s.port i := rfl
@[simp] theorem account_setJob (j : Fin 128) (o : Option Job) (i : Fin 512) : (s.setJob j o).account i = s.account i := rfl
@[simp] theorem route_setJob (j : Fin 128) (o : Option Job) (i : Fin 256) : (s.setJob j o).route i = s.route i := rfl
@[simp] theorem stream_setJob (j : Fin 128) (o : Option Job) (i : Fin 15) : (s.setJob j o).stream i = s.stream i := rfl
@[simp] theorem sense_setJob (j : Fin 128) (o : Option Job) (i : Fin 32) : (s.setJob j o).sense i = s.sense i := rfl
@[simp] theorem freeBlocks_setJob (j : Fin 128) (o : Option Job) : (s.setJob j o).freeBlocks = s.freeBlocks := rfl
@[simp] theorem freeDescriptors_setJob (j : Fin 128) (o : Option Job) : (s.setJob j o).freeDescriptors = s.freeDescriptors := rfl

/-! ### setStream -/

@[simp] theorem setStream_jli (m : Fin 15) (x : StreamState) : (s.setStream m x).jli = s.jli := rfl
@[simp] theorem setStream_mgu (m : Fin 15) (x : StreamState) : (s.setStream m x).mgu = s.mgu := rfl
@[simp] theorem setStream_rcl (m : Fin 15) (x : StreamState) : (s.setStream m x).rcl = s.rcl := rfl
@[simp] theorem setStream_jobs (m : Fin 15) (x : StreamState) : (s.setStream m x).spm.jobs = s.spm.jobs := rfl
@[simp] theorem setStream_streams (m : Fin 15) (x : StreamState) : (s.setStream m x).spm.streams = put s.spm.streams m x := rfl
@[simp] theorem setStream_descs (m : Fin 15) (x : StreamState) : (s.setStream m x).spm.descs = s.spm.descs := rfl
@[simp] theorem setStream_freeList (m : Fin 15) (x : StreamState) : (s.setStream m x).spm.freeList = s.spm.freeList := rfl
@[simp] theorem setStream_paused (m : Fin 15) (x : StreamState) : (s.setStream m x).spm.paused = s.spm.paused := rfl
@[simp] theorem setStream_dram (m : Fin 15) (x : StreamState) : (s.setStream m x).spm.dram = s.spm.dram := rfl
@[simp] theorem setStream_dsc (m : Fin 15) (x : StreamState) : (s.setStream m x).dsc = s.dsc := rfl
@[simp] theorem setStream_dlc (m : Fin 15) (x : StreamState) : (s.setStream m x).dlc = s.dlc := rfl
@[simp] theorem setStream_pra (m : Fin 15) (x : StreamState) : (s.setStream m x).pra = s.pra := rfl
@[simp] theorem setStream_chg (m : Fin 15) (x : StreamState) : (s.setStream m x).chg = s.chg := rfl
@[simp] theorem setStream_acm (m : Fin 15) (x : StreamState) : (s.setStream m x).acm = s.acm := rfl
@[simp] theorem setStream_arl (m : Fin 15) (x : StreamState) : (s.setStream m x).arl = s.arl := rfl
@[simp] theorem setStream_now (m : Fin 15) (x : StreamState) : (s.setStream m x).now = s.now := rfl
@[simp] theorem setStream_senseLines (m : Fin 15) (x : StreamState) : (s.setStream m x).senseLines = s.senseLines := rfl
@[simp] theorem setStream_choices (m : Fin 15) (x : StreamState) : (s.setStream m x).choices = s.choices := rfl
@[simp] theorem setStream_pending (m : Fin 15) (x : StreamState) : (s.setStream m x).pending = s.pending := rfl
@[simp] theorem job_setStream (m : Fin 15) (x : StreamState) (i : Fin 128) : (s.setStream m x).job i = s.job i := rfl
@[simp] theorem disp_setStream (m : Fin 15) (x : StreamState) (i : Fin 32) : (s.setStream m x).disp i = s.disp i := rfl
@[simp] theorem pool_setStream (m : Fin 15) (x : StreamState) (i : Fin 16) : (s.setStream m x).pool i = s.pool i := rfl
@[simp] theorem printer_setStream (m : Fin 15) (x : StreamState) (i : Fin 32) : (s.setStream m x).printer i = s.printer i := rfl
@[simp] theorem port_setStream (m : Fin 15) (x : StreamState) (i : Fin 8) : (s.setStream m x).port i = s.port i := rfl
@[simp] theorem account_setStream (m : Fin 15) (x : StreamState) (i : Fin 512) : (s.setStream m x).account i = s.account i := rfl
@[simp] theorem route_setStream (m : Fin 15) (x : StreamState) (i : Fin 256) : (s.setStream m x).route i = s.route i := rfl
@[simp] theorem stream_setStream (m : Fin 15) (x : StreamState) (i : Fin 15) : (s.setStream m x).stream i = if i = m then x else s.stream i := put_get _ _ _ _
@[simp] theorem sense_setStream (m : Fin 15) (x : StreamState) (i : Fin 32) : (s.setStream m x).sense i = s.sense i := rfl
@[simp] theorem freeBlocks_setStream (m : Fin 15) (x : StreamState) : (s.setStream m x).freeBlocks = s.freeBlocks := rfl
@[simp] theorem freeDescriptors_setStream (m : Fin 15) (x : StreamState) : (s.setStream m x).freeDescriptors = s.freeDescriptors := rfl

/-! ### setDescs -/

@[simp] theorem setDescs_jli (l : List (Nat × SheetDesc)) : (s.setDescs l).jli = s.jli := rfl
@[simp] theorem setDescs_mgu (l : List (Nat × SheetDesc)) : (s.setDescs l).mgu = s.mgu := rfl
@[simp] theorem setDescs_rcl (l : List (Nat × SheetDesc)) : (s.setDescs l).rcl = s.rcl := rfl
@[simp] theorem setDescs_jobs (l : List (Nat × SheetDesc)) : (s.setDescs l).spm.jobs = s.spm.jobs := rfl
@[simp] theorem setDescs_streams (l : List (Nat × SheetDesc)) : (s.setDescs l).spm.streams = s.spm.streams := rfl
@[simp] theorem setDescs_descs (l : List (Nat × SheetDesc)) : (s.setDescs l).spm.descs = l := rfl
@[simp] theorem setDescs_freeList (l : List (Nat × SheetDesc)) : (s.setDescs l).spm.freeList = s.spm.freeList := rfl
@[simp] theorem setDescs_paused (l : List (Nat × SheetDesc)) : (s.setDescs l).spm.paused = s.spm.paused := rfl
@[simp] theorem setDescs_dram (l : List (Nat × SheetDesc)) : (s.setDescs l).spm.dram = s.spm.dram := rfl
@[simp] theorem setDescs_dsc (l : List (Nat × SheetDesc)) : (s.setDescs l).dsc = s.dsc := rfl
@[simp] theorem setDescs_dlc (l : List (Nat × SheetDesc)) : (s.setDescs l).dlc = s.dlc := rfl
@[simp] theorem setDescs_pra (l : List (Nat × SheetDesc)) : (s.setDescs l).pra = s.pra := rfl
@[simp] theorem setDescs_chg (l : List (Nat × SheetDesc)) : (s.setDescs l).chg = s.chg := rfl
@[simp] theorem setDescs_acm (l : List (Nat × SheetDesc)) : (s.setDescs l).acm = s.acm := rfl
@[simp] theorem setDescs_arl (l : List (Nat × SheetDesc)) : (s.setDescs l).arl = s.arl := rfl
@[simp] theorem setDescs_now (l : List (Nat × SheetDesc)) : (s.setDescs l).now = s.now := rfl
@[simp] theorem setDescs_senseLines (l : List (Nat × SheetDesc)) : (s.setDescs l).senseLines = s.senseLines := rfl
@[simp] theorem setDescs_choices (l : List (Nat × SheetDesc)) : (s.setDescs l).choices = s.choices := rfl
@[simp] theorem setDescs_pending (l : List (Nat × SheetDesc)) : (s.setDescs l).pending = s.pending := rfl
@[simp] theorem job_setDescs (l : List (Nat × SheetDesc)) (i : Fin 128) : (s.setDescs l).job i = s.job i := rfl
@[simp] theorem disp_setDescs (l : List (Nat × SheetDesc)) (i : Fin 32) : (s.setDescs l).disp i = s.disp i := rfl
@[simp] theorem pool_setDescs (l : List (Nat × SheetDesc)) (i : Fin 16) : (s.setDescs l).pool i = s.pool i := rfl
@[simp] theorem printer_setDescs (l : List (Nat × SheetDesc)) (i : Fin 32) : (s.setDescs l).printer i = s.printer i := rfl
@[simp] theorem port_setDescs (l : List (Nat × SheetDesc)) (i : Fin 8) : (s.setDescs l).port i = s.port i := rfl
@[simp] theorem account_setDescs (l : List (Nat × SheetDesc)) (i : Fin 512) : (s.setDescs l).account i = s.account i := rfl
@[simp] theorem route_setDescs (l : List (Nat × SheetDesc)) (i : Fin 256) : (s.setDescs l).route i = s.route i := rfl
@[simp] theorem stream_setDescs (l : List (Nat × SheetDesc)) (i : Fin 15) : (s.setDescs l).stream i = s.stream i := rfl
@[simp] theorem sense_setDescs (l : List (Nat × SheetDesc)) (i : Fin 32) : (s.setDescs l).sense i = s.sense i := rfl
@[simp] theorem freeBlocks_setDescs (l : List (Nat × SheetDesc)) : (s.setDescs l).freeBlocks = s.freeBlocks := rfl
@[simp] theorem freeDescriptors_setDescs (l : List (Nat × SheetDesc)) : (s.setDescs l).freeDescriptors = Config.sheetDescriptors - l.length := rfl

/-! ### setFreeList -/

@[simp] theorem setFreeList_jli (l : List (Fin 32768)) : (s.setFreeList l).jli = s.jli := rfl
@[simp] theorem setFreeList_mgu (l : List (Fin 32768)) : (s.setFreeList l).mgu = s.mgu := rfl
@[simp] theorem setFreeList_rcl (l : List (Fin 32768)) : (s.setFreeList l).rcl = s.rcl := rfl
@[simp] theorem setFreeList_jobs (l : List (Fin 32768)) : (s.setFreeList l).spm.jobs = s.spm.jobs := rfl
@[simp] theorem setFreeList_streams (l : List (Fin 32768)) : (s.setFreeList l).spm.streams = s.spm.streams := rfl
@[simp] theorem setFreeList_descs (l : List (Fin 32768)) : (s.setFreeList l).spm.descs = s.spm.descs := rfl
@[simp] theorem setFreeList_freeList (l : List (Fin 32768)) : (s.setFreeList l).spm.freeList = l := rfl
@[simp] theorem setFreeList_paused (l : List (Fin 32768)) : (s.setFreeList l).spm.paused = s.spm.paused := rfl
@[simp] theorem setFreeList_dram (l : List (Fin 32768)) : (s.setFreeList l).spm.dram = s.spm.dram := rfl
@[simp] theorem setFreeList_dsc (l : List (Fin 32768)) : (s.setFreeList l).dsc = s.dsc := rfl
@[simp] theorem setFreeList_dlc (l : List (Fin 32768)) : (s.setFreeList l).dlc = s.dlc := rfl
@[simp] theorem setFreeList_pra (l : List (Fin 32768)) : (s.setFreeList l).pra = s.pra := rfl
@[simp] theorem setFreeList_chg (l : List (Fin 32768)) : (s.setFreeList l).chg = s.chg := rfl
@[simp] theorem setFreeList_acm (l : List (Fin 32768)) : (s.setFreeList l).acm = s.acm := rfl
@[simp] theorem setFreeList_arl (l : List (Fin 32768)) : (s.setFreeList l).arl = s.arl := rfl
@[simp] theorem setFreeList_now (l : List (Fin 32768)) : (s.setFreeList l).now = s.now := rfl
@[simp] theorem setFreeList_senseLines (l : List (Fin 32768)) : (s.setFreeList l).senseLines = s.senseLines := rfl
@[simp] theorem setFreeList_choices (l : List (Fin 32768)) : (s.setFreeList l).choices = s.choices := rfl
@[simp] theorem setFreeList_pending (l : List (Fin 32768)) : (s.setFreeList l).pending = s.pending := rfl
@[simp] theorem job_setFreeList (l : List (Fin 32768)) (i : Fin 128) : (s.setFreeList l).job i = s.job i := rfl
@[simp] theorem disp_setFreeList (l : List (Fin 32768)) (i : Fin 32) : (s.setFreeList l).disp i = s.disp i := rfl
@[simp] theorem pool_setFreeList (l : List (Fin 32768)) (i : Fin 16) : (s.setFreeList l).pool i = s.pool i := rfl
@[simp] theorem printer_setFreeList (l : List (Fin 32768)) (i : Fin 32) : (s.setFreeList l).printer i = s.printer i := rfl
@[simp] theorem port_setFreeList (l : List (Fin 32768)) (i : Fin 8) : (s.setFreeList l).port i = s.port i := rfl
@[simp] theorem account_setFreeList (l : List (Fin 32768)) (i : Fin 512) : (s.setFreeList l).account i = s.account i := rfl
@[simp] theorem route_setFreeList (l : List (Fin 32768)) (i : Fin 256) : (s.setFreeList l).route i = s.route i := rfl
@[simp] theorem stream_setFreeList (l : List (Fin 32768)) (i : Fin 15) : (s.setFreeList l).stream i = s.stream i := rfl
@[simp] theorem sense_setFreeList (l : List (Fin 32768)) (i : Fin 32) : (s.setFreeList l).sense i = s.sense i := rfl
@[simp] theorem freeBlocks_setFreeList (l : List (Fin 32768)) : (s.setFreeList l).freeBlocks = countUp l 0 := rfl
@[simp] theorem freeDescriptors_setFreeList (l : List (Fin 32768)) : (s.setFreeList l).freeDescriptors = s.freeDescriptors := rfl

/-! ### setPaused -/

@[simp] theorem setPaused_jli (b : Bool) : (s.setPaused b).jli = s.jli := rfl
@[simp] theorem setPaused_mgu (b : Bool) : (s.setPaused b).mgu = s.mgu := rfl
@[simp] theorem setPaused_rcl (b : Bool) : (s.setPaused b).rcl = s.rcl := rfl
@[simp] theorem setPaused_jobs (b : Bool) : (s.setPaused b).spm.jobs = s.spm.jobs := rfl
@[simp] theorem setPaused_streams (b : Bool) : (s.setPaused b).spm.streams = s.spm.streams := rfl
@[simp] theorem setPaused_descs (b : Bool) : (s.setPaused b).spm.descs = s.spm.descs := rfl
@[simp] theorem setPaused_freeList (b : Bool) : (s.setPaused b).spm.freeList = s.spm.freeList := rfl
@[simp] theorem setPaused_paused (b : Bool) : (s.setPaused b).spm.paused = b := rfl
@[simp] theorem setPaused_dram (b : Bool) : (s.setPaused b).spm.dram = s.spm.dram := rfl
@[simp] theorem setPaused_dsc (b : Bool) : (s.setPaused b).dsc = s.dsc := rfl
@[simp] theorem setPaused_dlc (b : Bool) : (s.setPaused b).dlc = s.dlc := rfl
@[simp] theorem setPaused_pra (b : Bool) : (s.setPaused b).pra = s.pra := rfl
@[simp] theorem setPaused_chg (b : Bool) : (s.setPaused b).chg = s.chg := rfl
@[simp] theorem setPaused_acm (b : Bool) : (s.setPaused b).acm = s.acm := rfl
@[simp] theorem setPaused_arl (b : Bool) : (s.setPaused b).arl = s.arl := rfl
@[simp] theorem setPaused_now (b : Bool) : (s.setPaused b).now = s.now := rfl
@[simp] theorem setPaused_senseLines (b : Bool) : (s.setPaused b).senseLines = s.senseLines := rfl
@[simp] theorem setPaused_choices (b : Bool) : (s.setPaused b).choices = s.choices := rfl
@[simp] theorem setPaused_pending (b : Bool) : (s.setPaused b).pending = s.pending := rfl
@[simp] theorem job_setPaused (b : Bool) (i : Fin 128) : (s.setPaused b).job i = s.job i := rfl
@[simp] theorem disp_setPaused (b : Bool) (i : Fin 32) : (s.setPaused b).disp i = s.disp i := rfl
@[simp] theorem pool_setPaused (b : Bool) (i : Fin 16) : (s.setPaused b).pool i = s.pool i := rfl
@[simp] theorem printer_setPaused (b : Bool) (i : Fin 32) : (s.setPaused b).printer i = s.printer i := rfl
@[simp] theorem port_setPaused (b : Bool) (i : Fin 8) : (s.setPaused b).port i = s.port i := rfl
@[simp] theorem account_setPaused (b : Bool) (i : Fin 512) : (s.setPaused b).account i = s.account i := rfl
@[simp] theorem route_setPaused (b : Bool) (i : Fin 256) : (s.setPaused b).route i = s.route i := rfl
@[simp] theorem stream_setPaused (b : Bool) (i : Fin 15) : (s.setPaused b).stream i = s.stream i := rfl
@[simp] theorem sense_setPaused (b : Bool) (i : Fin 32) : (s.setPaused b).sense i = s.sense i := rfl
@[simp] theorem freeBlocks_setPaused (b : Bool) : (s.setPaused b).freeBlocks = s.freeBlocks := rfl
@[simp] theorem freeDescriptors_setPaused (b : Bool) : (s.setPaused b).freeDescriptors = s.freeDescriptors := rfl

/-! ### writeDram -/

@[simp] theorem writeDram_jli (blocks : List (Fin 32768)) (pos : Nat) (bytes : List Byte) : (s.writeDram blocks pos bytes).jli = s.jli := rfl
@[simp] theorem writeDram_mgu (blocks : List (Fin 32768)) (pos : Nat) (bytes : List Byte) : (s.writeDram blocks pos bytes).mgu = s.mgu := rfl
@[simp] theorem writeDram_rcl (blocks : List (Fin 32768)) (pos : Nat) (bytes : List Byte) : (s.writeDram blocks pos bytes).rcl = s.rcl := rfl
@[simp] theorem writeDram_jobs (blocks : List (Fin 32768)) (pos : Nat) (bytes : List Byte) : (s.writeDram blocks pos bytes).spm.jobs = s.spm.jobs := rfl
@[simp] theorem writeDram_streams (blocks : List (Fin 32768)) (pos : Nat) (bytes : List Byte) : (s.writeDram blocks pos bytes).spm.streams = s.spm.streams := rfl
@[simp] theorem writeDram_descs (blocks : List (Fin 32768)) (pos : Nat) (bytes : List Byte) : (s.writeDram blocks pos bytes).spm.descs = s.spm.descs := rfl
@[simp] theorem writeDram_freeList (blocks : List (Fin 32768)) (pos : Nat) (bytes : List Byte) : (s.writeDram blocks pos bytes).spm.freeList = s.spm.freeList := rfl
@[simp] theorem writeDram_paused (blocks : List (Fin 32768)) (pos : Nat) (bytes : List Byte) : (s.writeDram blocks pos bytes).spm.paused = s.spm.paused := rfl
@[simp] theorem writeDram_dram (blocks : List (Fin 32768)) (pos : Nat) (bytes : List Byte) : (s.writeDram blocks pos bytes).spm.dram = writeImage blocks pos bytes s.spm.dram := rfl
@[simp] theorem writeDram_dsc (blocks : List (Fin 32768)) (pos : Nat) (bytes : List Byte) : (s.writeDram blocks pos bytes).dsc = s.dsc := rfl
@[simp] theorem writeDram_dlc (blocks : List (Fin 32768)) (pos : Nat) (bytes : List Byte) : (s.writeDram blocks pos bytes).dlc = s.dlc := rfl
@[simp] theorem writeDram_pra (blocks : List (Fin 32768)) (pos : Nat) (bytes : List Byte) : (s.writeDram blocks pos bytes).pra = s.pra := rfl
@[simp] theorem writeDram_chg (blocks : List (Fin 32768)) (pos : Nat) (bytes : List Byte) : (s.writeDram blocks pos bytes).chg = s.chg := rfl
@[simp] theorem writeDram_acm (blocks : List (Fin 32768)) (pos : Nat) (bytes : List Byte) : (s.writeDram blocks pos bytes).acm = s.acm := rfl
@[simp] theorem writeDram_arl (blocks : List (Fin 32768)) (pos : Nat) (bytes : List Byte) : (s.writeDram blocks pos bytes).arl = s.arl := rfl
@[simp] theorem writeDram_now (blocks : List (Fin 32768)) (pos : Nat) (bytes : List Byte) : (s.writeDram blocks pos bytes).now = s.now := rfl
@[simp] theorem writeDram_senseLines (blocks : List (Fin 32768)) (pos : Nat) (bytes : List Byte) : (s.writeDram blocks pos bytes).senseLines = s.senseLines := rfl
@[simp] theorem writeDram_choices (blocks : List (Fin 32768)) (pos : Nat) (bytes : List Byte) : (s.writeDram blocks pos bytes).choices = s.choices := rfl
@[simp] theorem writeDram_pending (blocks : List (Fin 32768)) (pos : Nat) (bytes : List Byte) : (s.writeDram blocks pos bytes).pending = s.pending := rfl
@[simp] theorem job_writeDram (blocks : List (Fin 32768)) (pos : Nat) (bytes : List Byte) (i : Fin 128) : (s.writeDram blocks pos bytes).job i = s.job i := rfl
@[simp] theorem disp_writeDram (blocks : List (Fin 32768)) (pos : Nat) (bytes : List Byte) (i : Fin 32) : (s.writeDram blocks pos bytes).disp i = s.disp i := rfl
@[simp] theorem pool_writeDram (blocks : List (Fin 32768)) (pos : Nat) (bytes : List Byte) (i : Fin 16) : (s.writeDram blocks pos bytes).pool i = s.pool i := rfl
@[simp] theorem printer_writeDram (blocks : List (Fin 32768)) (pos : Nat) (bytes : List Byte) (i : Fin 32) : (s.writeDram blocks pos bytes).printer i = s.printer i := rfl
@[simp] theorem port_writeDram (blocks : List (Fin 32768)) (pos : Nat) (bytes : List Byte) (i : Fin 8) : (s.writeDram blocks pos bytes).port i = s.port i := rfl
@[simp] theorem account_writeDram (blocks : List (Fin 32768)) (pos : Nat) (bytes : List Byte) (i : Fin 512) : (s.writeDram blocks pos bytes).account i = s.account i := rfl
@[simp] theorem route_writeDram (blocks : List (Fin 32768)) (pos : Nat) (bytes : List Byte) (i : Fin 256) : (s.writeDram blocks pos bytes).route i = s.route i := rfl
@[simp] theorem stream_writeDram (blocks : List (Fin 32768)) (pos : Nat) (bytes : List Byte) (i : Fin 15) : (s.writeDram blocks pos bytes).stream i = s.stream i := rfl
@[simp] theorem sense_writeDram (blocks : List (Fin 32768)) (pos : Nat) (bytes : List Byte) (i : Fin 32) : (s.writeDram blocks pos bytes).sense i = s.sense i := rfl
@[simp] theorem freeBlocks_writeDram (blocks : List (Fin 32768)) (pos : Nat) (bytes : List Byte) : (s.writeDram blocks pos bytes).freeBlocks = s.freeBlocks := rfl
@[simp] theorem freeDescriptors_writeDram (blocks : List (Fin 32768)) (pos : Nat) (bytes : List Byte) : (s.writeDram blocks pos bytes).freeDescriptors = s.freeDescriptors := rfl

/-! ### setPool -/

@[simp] theorem setPool_jli (k : Fin 16) (x : Pool) : (s.setPool k x).jli = s.jli := rfl
@[simp] theorem setPool_mgu (k : Fin 16) (x : Pool) : (s.setPool k x).mgu = s.mgu := rfl
@[simp] theorem setPool_rcl (k : Fin 16) (x : Pool) : (s.setPool k x).rcl = s.rcl := rfl
@[simp] theorem setPool_spm (k : Fin 16) (x : Pool) : (s.setPool k x).spm = s.spm := rfl
@[simp] theorem setPool_pools (k : Fin 16) (x : Pool) : (s.setPool k x).dsc.pools = put s.dsc.pools k x := rfl
@[simp] theorem setPool_printers (k : Fin 16) (x : Pool) : (s.setPool k x).dsc.printers = s.dsc.printers := rfl
@[simp] theorem setPool_dlc (k : Fin 16) (x : Pool) : (s.setPool k x).dlc = s.dlc := rfl
@[simp] theorem setPool_pra (k : Fin 16) (x : Pool) : (s.setPool k x).pra = s.pra := rfl
@[simp] theorem setPool_chg (k : Fin 16) (x : Pool) : (s.setPool k x).chg = s.chg := rfl
@[simp] theorem setPool_acm (k : Fin 16) (x : Pool) : (s.setPool k x).acm = s.acm := rfl
@[simp] theorem setPool_arl (k : Fin 16) (x : Pool) : (s.setPool k x).arl = s.arl := rfl
@[simp] theorem setPool_now (k : Fin 16) (x : Pool) : (s.setPool k x).now = s.now := rfl
@[simp] theorem setPool_senseLines (k : Fin 16) (x : Pool) : (s.setPool k x).senseLines = s.senseLines := rfl
@[simp] theorem setPool_choices (k : Fin 16) (x : Pool) : (s.setPool k x).choices = s.choices := rfl
@[simp] theorem setPool_pending (k : Fin 16) (x : Pool) : (s.setPool k x).pending = s.pending := rfl
@[simp] theorem job_setPool (k : Fin 16) (x : Pool) (i : Fin 128) : (s.setPool k x).job i = s.job i := rfl
@[simp] theorem disp_setPool (k : Fin 16) (x : Pool) (i : Fin 32) : (s.setPool k x).disp i = s.disp i := rfl
@[simp] theorem pool_setPool (k : Fin 16) (x : Pool) (i : Fin 16) : (s.setPool k x).pool i = if i = k then x else s.pool i := put_get _ _ _ _
@[simp] theorem printer_setPool (k : Fin 16) (x : Pool) (i : Fin 32) : (s.setPool k x).printer i = s.printer i := rfl
@[simp] theorem port_setPool (k : Fin 16) (x : Pool) (i : Fin 8) : (s.setPool k x).port i = s.port i := rfl
@[simp] theorem account_setPool (k : Fin 16) (x : Pool) (i : Fin 512) : (s.setPool k x).account i = s.account i := rfl
@[simp] theorem route_setPool (k : Fin 16) (x : Pool) (i : Fin 256) : (s.setPool k x).route i = s.route i := rfl
@[simp] theorem stream_setPool (k : Fin 16) (x : Pool) (i : Fin 15) : (s.setPool k x).stream i = s.stream i := rfl
@[simp] theorem sense_setPool (k : Fin 16) (x : Pool) (i : Fin 32) : (s.setPool k x).sense i = s.sense i := rfl
@[simp] theorem freeBlocks_setPool (k : Fin 16) (x : Pool) : (s.setPool k x).freeBlocks = s.freeBlocks := rfl
@[simp] theorem freeDescriptors_setPool (k : Fin 16) (x : Pool) : (s.setPool k x).freeDescriptors = s.freeDescriptors := rfl

/-! ### setQueue -/

@[simp] theorem setQueue_jli (k : Fin 16) (l : List (Fin 128)) : (s.setQueue k l).jli = s.jli := rfl
@[simp] theorem setQueue_mgu (k : Fin 16) (l : List (Fin 128)) : (s.setQueue k l).mgu = s.mgu := rfl
@[simp] theorem setQueue_rcl (k : Fin 16) (l : List (Fin 128)) : (s.setQueue k l).rcl = s.rcl := rfl
@[simp] theorem setQueue_spm (k : Fin 16) (l : List (Fin 128)) : (s.setQueue k l).spm = s.spm := rfl
@[simp] theorem setQueue_pools (k : Fin 16) (l : List (Fin 128)) : (s.setQueue k l).dsc.pools = put s.dsc.pools k { s.dsc.pools.get k with queue := l } := rfl
@[simp] theorem setQueue_printers (k : Fin 16) (l : List (Fin 128)) : (s.setQueue k l).dsc.printers = s.dsc.printers := rfl
@[simp] theorem setQueue_dlc (k : Fin 16) (l : List (Fin 128)) : (s.setQueue k l).dlc = s.dlc := rfl
@[simp] theorem setQueue_pra (k : Fin 16) (l : List (Fin 128)) : (s.setQueue k l).pra = s.pra := rfl
@[simp] theorem setQueue_chg (k : Fin 16) (l : List (Fin 128)) : (s.setQueue k l).chg = s.chg := rfl
@[simp] theorem setQueue_acm (k : Fin 16) (l : List (Fin 128)) : (s.setQueue k l).acm = s.acm := rfl
@[simp] theorem setQueue_arl (k : Fin 16) (l : List (Fin 128)) : (s.setQueue k l).arl = s.arl := rfl
@[simp] theorem setQueue_now (k : Fin 16) (l : List (Fin 128)) : (s.setQueue k l).now = s.now := rfl
@[simp] theorem setQueue_senseLines (k : Fin 16) (l : List (Fin 128)) : (s.setQueue k l).senseLines = s.senseLines := rfl
@[simp] theorem setQueue_choices (k : Fin 16) (l : List (Fin 128)) : (s.setQueue k l).choices = s.choices := rfl
@[simp] theorem setQueue_pending (k : Fin 16) (l : List (Fin 128)) : (s.setQueue k l).pending = s.pending := rfl
@[simp] theorem job_setQueue (k : Fin 16) (l : List (Fin 128)) (i : Fin 128) : (s.setQueue k l).job i = s.job i := rfl
@[simp] theorem disp_setQueue (k : Fin 16) (l : List (Fin 128)) (i : Fin 32) : (s.setQueue k l).disp i = s.disp i := rfl
@[simp] theorem pool_setQueue (k : Fin 16) (l : List (Fin 128)) (i : Fin 16) :
    (s.setQueue k l).pool i = if i = k then { s.pool k with queue := l } else s.pool i := put_get _ _ _ _
@[simp] theorem printer_setQueue (k : Fin 16) (l : List (Fin 128)) (i : Fin 32) : (s.setQueue k l).printer i = s.printer i := rfl
@[simp] theorem port_setQueue (k : Fin 16) (l : List (Fin 128)) (i : Fin 8) : (s.setQueue k l).port i = s.port i := rfl
@[simp] theorem account_setQueue (k : Fin 16) (l : List (Fin 128)) (i : Fin 512) : (s.setQueue k l).account i = s.account i := rfl
@[simp] theorem route_setQueue (k : Fin 16) (l : List (Fin 128)) (i : Fin 256) : (s.setQueue k l).route i = s.route i := rfl
@[simp] theorem stream_setQueue (k : Fin 16) (l : List (Fin 128)) (i : Fin 15) : (s.setQueue k l).stream i = s.stream i := rfl
@[simp] theorem sense_setQueue (k : Fin 16) (l : List (Fin 128)) (i : Fin 32) : (s.setQueue k l).sense i = s.sense i := rfl
@[simp] theorem freeBlocks_setQueue (k : Fin 16) (l : List (Fin 128)) : (s.setQueue k l).freeBlocks = s.freeBlocks := rfl
@[simp] theorem freeDescriptors_setQueue (k : Fin 16) (l : List (Fin 128)) : (s.setQueue k l).freeDescriptors = s.freeDescriptors := rfl

/-! ### setDisp -/

@[simp] theorem setDisp_jli (p : Fin 32) (x : Dispatch) : (s.setDisp p x).jli = s.jli := rfl
@[simp] theorem setDisp_mgu (p : Fin 32) (x : Dispatch) : (s.setDisp p x).mgu = s.mgu := rfl
@[simp] theorem setDisp_rcl (p : Fin 32) (x : Dispatch) : (s.setDisp p x).rcl = s.rcl := rfl
@[simp] theorem setDisp_spm (p : Fin 32) (x : Dispatch) : (s.setDisp p x).spm = s.spm := rfl
@[simp] theorem setDisp_pools (p : Fin 32) (x : Dispatch) : (s.setDisp p x).dsc.pools = s.dsc.pools := rfl
@[simp] theorem setDisp_printers (p : Fin 32) (x : Dispatch) : (s.setDisp p x).dsc.printers = put s.dsc.printers p x := rfl
@[simp] theorem setDisp_dlc (p : Fin 32) (x : Dispatch) : (s.setDisp p x).dlc = s.dlc := rfl
@[simp] theorem setDisp_pra (p : Fin 32) (x : Dispatch) : (s.setDisp p x).pra = s.pra := rfl
@[simp] theorem setDisp_chg (p : Fin 32) (x : Dispatch) : (s.setDisp p x).chg = s.chg := rfl
@[simp] theorem setDisp_acm (p : Fin 32) (x : Dispatch) : (s.setDisp p x).acm = s.acm := rfl
@[simp] theorem setDisp_arl (p : Fin 32) (x : Dispatch) : (s.setDisp p x).arl = s.arl := rfl
@[simp] theorem setDisp_now (p : Fin 32) (x : Dispatch) : (s.setDisp p x).now = s.now := rfl
@[simp] theorem setDisp_senseLines (p : Fin 32) (x : Dispatch) : (s.setDisp p x).senseLines = s.senseLines := rfl
@[simp] theorem setDisp_choices (p : Fin 32) (x : Dispatch) : (s.setDisp p x).choices = s.choices := rfl
@[simp] theorem setDisp_pending (p : Fin 32) (x : Dispatch) : (s.setDisp p x).pending = s.pending := rfl
@[simp] theorem job_setDisp (p : Fin 32) (x : Dispatch) (i : Fin 128) : (s.setDisp p x).job i = s.job i := rfl
@[simp] theorem disp_setDisp (p : Fin 32) (x : Dispatch) (i : Fin 32) : (s.setDisp p x).disp i = if i = p then x else s.disp i := put_get _ _ _ _
@[simp] theorem pool_setDisp (p : Fin 32) (x : Dispatch) (i : Fin 16) : (s.setDisp p x).pool i = s.pool i := rfl
@[simp] theorem printer_setDisp (p : Fin 32) (x : Dispatch) (i : Fin 32) : (s.setDisp p x).printer i = s.printer i := rfl
@[simp] theorem port_setDisp (p : Fin 32) (x : Dispatch) (i : Fin 8) : (s.setDisp p x).port i = s.port i := rfl
@[simp] theorem account_setDisp (p : Fin 32) (x : Dispatch) (i : Fin 512) : (s.setDisp p x).account i = s.account i := rfl
@[simp] theorem route_setDisp (p : Fin 32) (x : Dispatch) (i : Fin 256) : (s.setDisp p x).route i = s.route i := rfl
@[simp] theorem stream_setDisp (p : Fin 32) (x : Dispatch) (i : Fin 15) : (s.setDisp p x).stream i = s.stream i := rfl
@[simp] theorem sense_setDisp (p : Fin 32) (x : Dispatch) (i : Fin 32) : (s.setDisp p x).sense i = s.sense i := rfl
@[simp] theorem freeBlocks_setDisp (p : Fin 32) (x : Dispatch) : (s.setDisp p x).freeBlocks = s.freeBlocks := rfl
@[simp] theorem freeDescriptors_setDisp (p : Fin 32) (x : Dispatch) : (s.setDisp p x).freeDescriptors = s.freeDescriptors := rfl

/-! ### setPort -/

@[simp] theorem setPort_jli (q : Fin 8) (x : Port) : (s.setPort q x).jli = s.jli := rfl
@[simp] theorem setPort_mgu (q : Fin 8) (x : Port) : (s.setPort q x).mgu = s.mgu := rfl
@[simp] theorem setPort_rcl (q : Fin 8) (x : Port) : (s.setPort q x).rcl = s.rcl := rfl
@[simp] theorem setPort_spm (q : Fin 8) (x : Port) : (s.setPort q x).spm = s.spm := rfl
@[simp] theorem setPort_dsc (q : Fin 8) (x : Port) : (s.setPort q x).dsc = s.dsc := rfl
@[simp] theorem setPort_dlc (q : Fin 8) (x : Port) : (s.setPort q x).dlc = put s.dlc q x := rfl
@[simp] theorem setPort_pra (q : Fin 8) (x : Port) : (s.setPort q x).pra = s.pra := rfl
@[simp] theorem setPort_chg (q : Fin 8) (x : Port) : (s.setPort q x).chg = s.chg := rfl
@[simp] theorem setPort_acm (q : Fin 8) (x : Port) : (s.setPort q x).acm = s.acm := rfl
@[simp] theorem setPort_arl (q : Fin 8) (x : Port) : (s.setPort q x).arl = s.arl := rfl
@[simp] theorem setPort_now (q : Fin 8) (x : Port) : (s.setPort q x).now = s.now := rfl
@[simp] theorem setPort_senseLines (q : Fin 8) (x : Port) : (s.setPort q x).senseLines = s.senseLines := rfl
@[simp] theorem setPort_choices (q : Fin 8) (x : Port) : (s.setPort q x).choices = s.choices := rfl
@[simp] theorem setPort_pending (q : Fin 8) (x : Port) : (s.setPort q x).pending = s.pending := rfl
@[simp] theorem job_setPort (q : Fin 8) (x : Port) (i : Fin 128) : (s.setPort q x).job i = s.job i := rfl
@[simp] theorem disp_setPort (q : Fin 8) (x : Port) (i : Fin 32) : (s.setPort q x).disp i = s.disp i := rfl
@[simp] theorem pool_setPort (q : Fin 8) (x : Port) (i : Fin 16) : (s.setPort q x).pool i = s.pool i := rfl
@[simp] theorem printer_setPort (q : Fin 8) (x : Port) (i : Fin 32) : (s.setPort q x).printer i = s.printer i := rfl
@[simp] theorem port_setPort (q : Fin 8) (x : Port) (i : Fin 8) : (s.setPort q x).port i = if i = q then x else s.port i := put_get _ _ _ _
@[simp] theorem account_setPort (q : Fin 8) (x : Port) (i : Fin 512) : (s.setPort q x).account i = s.account i := rfl
@[simp] theorem route_setPort (q : Fin 8) (x : Port) (i : Fin 256) : (s.setPort q x).route i = s.route i := rfl
@[simp] theorem stream_setPort (q : Fin 8) (x : Port) (i : Fin 15) : (s.setPort q x).stream i = s.stream i := rfl
@[simp] theorem sense_setPort (q : Fin 8) (x : Port) (i : Fin 32) : (s.setPort q x).sense i = s.sense i := rfl
@[simp] theorem freeBlocks_setPort (q : Fin 8) (x : Port) : (s.setPort q x).freeBlocks = s.freeBlocks := rfl
@[simp] theorem freeDescriptors_setPort (q : Fin 8) (x : Port) : (s.setPort q x).freeDescriptors = s.freeDescriptors := rfl

/-! ### setPrinter -/

@[simp] theorem setPrinter_jli (p : Fin 32) (x : Printer) : (s.setPrinter p x).jli = s.jli := rfl
@[simp] theorem setPrinter_mgu (p : Fin 32) (x : Printer) : (s.setPrinter p x).mgu = s.mgu := rfl
@[simp] theorem setPrinter_rcl (p : Fin 32) (x : Printer) : (s.setPrinter p x).rcl = s.rcl := rfl
@[simp] theorem setPrinter_spm (p : Fin 32) (x : Printer) : (s.setPrinter p x).spm = s.spm := rfl
@[simp] theorem setPrinter_dsc (p : Fin 32) (x : Printer) : (s.setPrinter p x).dsc = s.dsc := rfl
@[simp] theorem setPrinter_dlc (p : Fin 32) (x : Printer) : (s.setPrinter p x).dlc = s.dlc := rfl
@[simp] theorem setPrinter_pra (p : Fin 32) (x : Printer) : (s.setPrinter p x).pra = put s.pra p x := rfl
@[simp] theorem setPrinter_chg (p : Fin 32) (x : Printer) : (s.setPrinter p x).chg = s.chg := rfl
@[simp] theorem setPrinter_acm (p : Fin 32) (x : Printer) : (s.setPrinter p x).acm = s.acm := rfl
@[simp] theorem setPrinter_arl (p : Fin 32) (x : Printer) : (s.setPrinter p x).arl = s.arl := rfl
@[simp] theorem setPrinter_now (p : Fin 32) (x : Printer) : (s.setPrinter p x).now = s.now := rfl
@[simp] theorem setPrinter_senseLines (p : Fin 32) (x : Printer) : (s.setPrinter p x).senseLines = s.senseLines := rfl
@[simp] theorem setPrinter_choices (p : Fin 32) (x : Printer) : (s.setPrinter p x).choices = s.choices := rfl
@[simp] theorem setPrinter_pending (p : Fin 32) (x : Printer) : (s.setPrinter p x).pending = s.pending := rfl
@[simp] theorem job_setPrinter (p : Fin 32) (x : Printer) (i : Fin 128) : (s.setPrinter p x).job i = s.job i := rfl
@[simp] theorem disp_setPrinter (p : Fin 32) (x : Printer) (i : Fin 32) : (s.setPrinter p x).disp i = s.disp i := rfl
@[simp] theorem pool_setPrinter (p : Fin 32) (x : Printer) (i : Fin 16) : (s.setPrinter p x).pool i = s.pool i := rfl
@[simp] theorem printer_setPrinter (p : Fin 32) (x : Printer) (i : Fin 32) : (s.setPrinter p x).printer i = if i = p then x else s.printer i := put_get _ _ _ _
@[simp] theorem port_setPrinter (p : Fin 32) (x : Printer) (i : Fin 8) : (s.setPrinter p x).port i = s.port i := rfl
@[simp] theorem account_setPrinter (p : Fin 32) (x : Printer) (i : Fin 512) : (s.setPrinter p x).account i = s.account i := rfl
@[simp] theorem route_setPrinter (p : Fin 32) (x : Printer) (i : Fin 256) : (s.setPrinter p x).route i = s.route i := rfl
@[simp] theorem stream_setPrinter (p : Fin 32) (x : Printer) (i : Fin 15) : (s.setPrinter p x).stream i = s.stream i := rfl
@[simp] theorem sense_setPrinter (p : Fin 32) (x : Printer) (i : Fin 32) : (s.setPrinter p x).sense i = s.sense i := rfl
@[simp] theorem freeBlocks_setPrinter (p : Fin 32) (x : Printer) : (s.setPrinter p x).freeBlocks = s.freeBlocks := rfl
@[simp] theorem freeDescriptors_setPrinter (p : Fin 32) (x : Printer) : (s.setPrinter p x).freeDescriptors = s.freeDescriptors := rfl

/-! ### setRoute -/

@[simp] theorem setRoute_jli (r : Fin 256) (x : Route) : (s.setRoute r x).jli = s.jli := rfl
@[simp] theorem setRoute_mgu (r : Fin 256) (x : Route) : (s.setRoute r x).mgu = s.mgu := rfl
@[simp] theorem setRoute_routes (r : Fin 256) (x : Route) : (s.setRoute r x).rcl.routes = put s.rcl.routes r x := rfl
@[simp] theorem setRoute_arrival (r : Fin 256) (x : Route) : (s.setRoute r x).rcl.arrival = s.rcl.arrival := rfl
@[simp] theorem setRoute_spm (r : Fin 256) (x : Route) : (s.setRoute r x).spm = s.spm := rfl
@[simp] theorem setRoute_dsc (r : Fin 256) (x : Route) : (s.setRoute r x).dsc = s.dsc := rfl
@[simp] theorem setRoute_dlc (r : Fin 256) (x : Route) : (s.setRoute r x).dlc = s.dlc := rfl
@[simp] theorem setRoute_pra (r : Fin 256) (x : Route) : (s.setRoute r x).pra = s.pra := rfl
@[simp] theorem setRoute_chg (r : Fin 256) (x : Route) : (s.setRoute r x).chg = s.chg := rfl
@[simp] theorem setRoute_acm (r : Fin 256) (x : Route) : (s.setRoute r x).acm = s.acm := rfl
@[simp] theorem setRoute_arl (r : Fin 256) (x : Route) : (s.setRoute r x).arl = s.arl := rfl
@[simp] theorem setRoute_now (r : Fin 256) (x : Route) : (s.setRoute r x).now = s.now := rfl
@[simp] theorem setRoute_senseLines (r : Fin 256) (x : Route) : (s.setRoute r x).senseLines = s.senseLines := rfl
@[simp] theorem setRoute_choices (r : Fin 256) (x : Route) : (s.setRoute r x).choices = s.choices := rfl
@[simp] theorem setRoute_pending (r : Fin 256) (x : Route) : (s.setRoute r x).pending = s.pending := rfl
@[simp] theorem job_setRoute (r : Fin 256) (x : Route) (i : Fin 128) : (s.setRoute r x).job i = s.job i := rfl
@[simp] theorem disp_setRoute (r : Fin 256) (x : Route) (i : Fin 32) : (s.setRoute r x).disp i = s.disp i := rfl
@[simp] theorem pool_setRoute (r : Fin 256) (x : Route) (i : Fin 16) : (s.setRoute r x).pool i = s.pool i := rfl
@[simp] theorem printer_setRoute (r : Fin 256) (x : Route) (i : Fin 32) : (s.setRoute r x).printer i = s.printer i := rfl
@[simp] theorem port_setRoute (r : Fin 256) (x : Route) (i : Fin 8) : (s.setRoute r x).port i = s.port i := rfl
@[simp] theorem account_setRoute (r : Fin 256) (x : Route) (i : Fin 512) : (s.setRoute r x).account i = s.account i := rfl
@[simp] theorem route_setRoute (r : Fin 256) (x : Route) (i : Fin 256) : (s.setRoute r x).route i = if i = r then x else s.route i := put_get _ _ _ _
@[simp] theorem stream_setRoute (r : Fin 256) (x : Route) (i : Fin 15) : (s.setRoute r x).stream i = s.stream i := rfl
@[simp] theorem sense_setRoute (r : Fin 256) (x : Route) (i : Fin 32) : (s.setRoute r x).sense i = s.sense i := rfl
@[simp] theorem freeBlocks_setRoute (r : Fin 256) (x : Route) : (s.setRoute r x).freeBlocks = s.freeBlocks := rfl
@[simp] theorem freeDescriptors_setRoute (r : Fin 256) (x : Route) : (s.setRoute r x).freeDescriptors = s.freeDescriptors := rfl

/-! ### setArrival -/

@[simp] theorem setArrival_jli (n : BitVec 32) : (s.setArrival n).jli = s.jli := rfl
@[simp] theorem setArrival_mgu (n : BitVec 32) : (s.setArrival n).mgu = s.mgu := rfl
@[simp] theorem setArrival_routes (n : BitVec 32) : (s.setArrival n).rcl.routes = s.rcl.routes := rfl
@[simp] theorem setArrival_arrival (n : BitVec 32) : (s.setArrival n).rcl.arrival = n := rfl
@[simp] theorem setArrival_spm (n : BitVec 32) : (s.setArrival n).spm = s.spm := rfl
@[simp] theorem setArrival_dsc (n : BitVec 32) : (s.setArrival n).dsc = s.dsc := rfl
@[simp] theorem setArrival_dlc (n : BitVec 32) : (s.setArrival n).dlc = s.dlc := rfl
@[simp] theorem setArrival_pra (n : BitVec 32) : (s.setArrival n).pra = s.pra := rfl
@[simp] theorem setArrival_chg (n : BitVec 32) : (s.setArrival n).chg = s.chg := rfl
@[simp] theorem setArrival_acm (n : BitVec 32) : (s.setArrival n).acm = s.acm := rfl
@[simp] theorem setArrival_arl (n : BitVec 32) : (s.setArrival n).arl = s.arl := rfl
@[simp] theorem setArrival_now (n : BitVec 32) : (s.setArrival n).now = s.now := rfl
@[simp] theorem setArrival_senseLines (n : BitVec 32) : (s.setArrival n).senseLines = s.senseLines := rfl
@[simp] theorem setArrival_choices (n : BitVec 32) : (s.setArrival n).choices = s.choices := rfl
@[simp] theorem setArrival_pending (n : BitVec 32) : (s.setArrival n).pending = s.pending := rfl
@[simp] theorem job_setArrival (n : BitVec 32) (i : Fin 128) : (s.setArrival n).job i = s.job i := rfl
@[simp] theorem disp_setArrival (n : BitVec 32) (i : Fin 32) : (s.setArrival n).disp i = s.disp i := rfl
@[simp] theorem pool_setArrival (n : BitVec 32) (i : Fin 16) : (s.setArrival n).pool i = s.pool i := rfl
@[simp] theorem printer_setArrival (n : BitVec 32) (i : Fin 32) : (s.setArrival n).printer i = s.printer i := rfl
@[simp] theorem port_setArrival (n : BitVec 32) (i : Fin 8) : (s.setArrival n).port i = s.port i := rfl
@[simp] theorem account_setArrival (n : BitVec 32) (i : Fin 512) : (s.setArrival n).account i = s.account i := rfl
@[simp] theorem route_setArrival (n : BitVec 32) (i : Fin 256) : (s.setArrival n).route i = s.route i := rfl
@[simp] theorem stream_setArrival (n : BitVec 32) (i : Fin 15) : (s.setArrival n).stream i = s.stream i := rfl
@[simp] theorem sense_setArrival (n : BitVec 32) (i : Fin 32) : (s.setArrival n).sense i = s.sense i := rfl
@[simp] theorem freeBlocks_setArrival (n : BitVec 32) : (s.setArrival n).freeBlocks = s.freeBlocks := rfl
@[simp] theorem freeDescriptors_setArrival (n : BitVec 32) : (s.setArrival n).freeDescriptors = s.freeDescriptors := rfl

/-! ### setAccount -/

@[simp] theorem setAccount_jli (a : Fin 512) (x : Account) : (s.setAccount a x).jli = s.jli := rfl
@[simp] theorem setAccount_mgu (a : Fin 512) (x : Account) : (s.setAccount a x).mgu = s.mgu := rfl
@[simp] theorem setAccount_rcl (a : Fin 512) (x : Account) : (s.setAccount a x).rcl = s.rcl := rfl
@[simp] theorem setAccount_spm (a : Fin 512) (x : Account) : (s.setAccount a x).spm = s.spm := rfl
@[simp] theorem setAccount_dsc (a : Fin 512) (x : Account) : (s.setAccount a x).dsc = s.dsc := rfl
@[simp] theorem setAccount_dlc (a : Fin 512) (x : Account) : (s.setAccount a x).dlc = s.dlc := rfl
@[simp] theorem setAccount_pra (a : Fin 512) (x : Account) : (s.setAccount a x).pra = s.pra := rfl
@[simp] theorem setAccount_chg (a : Fin 512) (x : Account) : (s.setAccount a x).chg = s.chg := rfl
@[simp] theorem setAccount_accounts (a : Fin 512) (x : Account) : (s.setAccount a x).acm.accounts = put s.acm.accounts a x := rfl
@[simp] theorem setAccount_meters (a : Fin 512) (x : Account) : (s.setAccount a x).acm.meters = s.acm.meters := rfl
@[simp] theorem setAccount_arl (a : Fin 512) (x : Account) : (s.setAccount a x).arl = s.arl := rfl
@[simp] theorem setAccount_now (a : Fin 512) (x : Account) : (s.setAccount a x).now = s.now := rfl
@[simp] theorem setAccount_senseLines (a : Fin 512) (x : Account) : (s.setAccount a x).senseLines = s.senseLines := rfl
@[simp] theorem setAccount_choices (a : Fin 512) (x : Account) : (s.setAccount a x).choices = s.choices := rfl
@[simp] theorem setAccount_pending (a : Fin 512) (x : Account) : (s.setAccount a x).pending = s.pending := rfl
@[simp] theorem job_setAccount (a : Fin 512) (x : Account) (i : Fin 128) : (s.setAccount a x).job i = s.job i := rfl
@[simp] theorem disp_setAccount (a : Fin 512) (x : Account) (i : Fin 32) : (s.setAccount a x).disp i = s.disp i := rfl
@[simp] theorem pool_setAccount (a : Fin 512) (x : Account) (i : Fin 16) : (s.setAccount a x).pool i = s.pool i := rfl
@[simp] theorem printer_setAccount (a : Fin 512) (x : Account) (i : Fin 32) : (s.setAccount a x).printer i = s.printer i := rfl
@[simp] theorem port_setAccount (a : Fin 512) (x : Account) (i : Fin 8) : (s.setAccount a x).port i = s.port i := rfl
@[simp] theorem account_setAccount (a : Fin 512) (x : Account) (i : Fin 512) : (s.setAccount a x).account i = if i = a then x else s.account i := put_get _ _ _ _
@[simp] theorem route_setAccount (a : Fin 512) (x : Account) (i : Fin 256) : (s.setAccount a x).route i = s.route i := rfl
@[simp] theorem stream_setAccount (a : Fin 512) (x : Account) (i : Fin 15) : (s.setAccount a x).stream i = s.stream i := rfl
@[simp] theorem sense_setAccount (a : Fin 512) (x : Account) (i : Fin 32) : (s.setAccount a x).sense i = s.sense i := rfl
@[simp] theorem freeBlocks_setAccount (a : Fin 512) (x : Account) : (s.setAccount a x).freeBlocks = s.freeBlocks := rfl
@[simp] theorem freeDescriptors_setAccount (a : Fin 512) (x : Account) : (s.setAccount a x).freeDescriptors = s.freeDescriptors := rfl

/-! ### setMeters -/

@[simp] theorem setMeters_jli (p : Fin 32) (x : Meters) : (s.setMeters p x).jli = s.jli := rfl
@[simp] theorem setMeters_mgu (p : Fin 32) (x : Meters) : (s.setMeters p x).mgu = s.mgu := rfl
@[simp] theorem setMeters_rcl (p : Fin 32) (x : Meters) : (s.setMeters p x).rcl = s.rcl := rfl
@[simp] theorem setMeters_spm (p : Fin 32) (x : Meters) : (s.setMeters p x).spm = s.spm := rfl
@[simp] theorem setMeters_dsc (p : Fin 32) (x : Meters) : (s.setMeters p x).dsc = s.dsc := rfl
@[simp] theorem setMeters_dlc (p : Fin 32) (x : Meters) : (s.setMeters p x).dlc = s.dlc := rfl
@[simp] theorem setMeters_pra (p : Fin 32) (x : Meters) : (s.setMeters p x).pra = s.pra := rfl
@[simp] theorem setMeters_chg (p : Fin 32) (x : Meters) : (s.setMeters p x).chg = s.chg := rfl
@[simp] theorem setMeters_accounts (p : Fin 32) (x : Meters) : (s.setMeters p x).acm.accounts = s.acm.accounts := rfl
@[simp] theorem setMeters_meters (p : Fin 32) (x : Meters) : (s.setMeters p x).acm.meters = put s.acm.meters p x := rfl
@[simp] theorem setMeters_arl (p : Fin 32) (x : Meters) : (s.setMeters p x).arl = s.arl := rfl
@[simp] theorem setMeters_now (p : Fin 32) (x : Meters) : (s.setMeters p x).now = s.now := rfl
@[simp] theorem setMeters_senseLines (p : Fin 32) (x : Meters) : (s.setMeters p x).senseLines = s.senseLines := rfl
@[simp] theorem setMeters_choices (p : Fin 32) (x : Meters) : (s.setMeters p x).choices = s.choices := rfl
@[simp] theorem setMeters_pending (p : Fin 32) (x : Meters) : (s.setMeters p x).pending = s.pending := rfl
@[simp] theorem job_setMeters (p : Fin 32) (x : Meters) (i : Fin 128) : (s.setMeters p x).job i = s.job i := rfl
@[simp] theorem disp_setMeters (p : Fin 32) (x : Meters) (i : Fin 32) : (s.setMeters p x).disp i = s.disp i := rfl
@[simp] theorem pool_setMeters (p : Fin 32) (x : Meters) (i : Fin 16) : (s.setMeters p x).pool i = s.pool i := rfl
@[simp] theorem printer_setMeters (p : Fin 32) (x : Meters) (i : Fin 32) : (s.setMeters p x).printer i = s.printer i := rfl
@[simp] theorem port_setMeters (p : Fin 32) (x : Meters) (i : Fin 8) : (s.setMeters p x).port i = s.port i := rfl
@[simp] theorem account_setMeters (p : Fin 32) (x : Meters) (i : Fin 512) : (s.setMeters p x).account i = s.account i := rfl
@[simp] theorem route_setMeters (p : Fin 32) (x : Meters) (i : Fin 256) : (s.setMeters p x).route i = s.route i := rfl
@[simp] theorem stream_setMeters (p : Fin 32) (x : Meters) (i : Fin 15) : (s.setMeters p x).stream i = s.stream i := rfl
@[simp] theorem sense_setMeters (p : Fin 32) (x : Meters) (i : Fin 32) : (s.setMeters p x).sense i = s.sense i := rfl
@[simp] theorem freeBlocks_setMeters (p : Fin 32) (x : Meters) : (s.setMeters p x).freeBlocks = s.freeBlocks := rfl
@[simp] theorem freeDescriptors_setMeters (p : Fin 32) (x : Meters) : (s.setMeters p x).freeDescriptors = s.freeDescriptors := rfl

/-! ### setTariff -/

@[simp] theorem setTariff_jli (b : Fin 2) (k : Fin 16) (x : TariffClass) : (s.setTariff b k x).jli = s.jli := rfl
@[simp] theorem setTariff_mgu (b : Fin 2) (k : Fin 16) (x : TariffClass) : (s.setTariff b k x).mgu = s.mgu := rfl
@[simp] theorem setTariff_rcl (b : Fin 2) (k : Fin 16) (x : TariffClass) : (s.setTariff b k x).rcl = s.rcl := rfl
@[simp] theorem setTariff_spm (b : Fin 2) (k : Fin 16) (x : TariffClass) : (s.setTariff b k x).spm = s.spm := rfl
@[simp] theorem setTariff_dsc (b : Fin 2) (k : Fin 16) (x : TariffClass) : (s.setTariff b k x).dsc = s.dsc := rfl
@[simp] theorem setTariff_dlc (b : Fin 2) (k : Fin 16) (x : TariffClass) : (s.setTariff b k x).dlc = s.dlc := rfl
@[simp] theorem setTariff_pra (b : Fin 2) (k : Fin 16) (x : TariffClass) : (s.setTariff b k x).pra = s.pra := rfl
@[simp] theorem setTariff_banks (b : Fin 2) (k : Fin 16) (x : TariffClass) : (s.setTariff b k x).chg.banks = put s.chg.banks b (put (s.chg.banks.get b) k x) := rfl
@[simp] theorem setTariff_current (b : Fin 2) (k : Fin 16) (x : TariffClass) : (s.setTariff b k x).chg.current = s.chg.current := rfl
@[simp] theorem setTariff_bound (b : Fin 2) (k : Fin 16) (x : TariffClass) : (s.setTariff b k x).chg.bound = s.chg.bound := rfl
@[simp] theorem setTariff_acm (b : Fin 2) (k : Fin 16) (x : TariffClass) : (s.setTariff b k x).acm = s.acm := rfl
@[simp] theorem setTariff_arl (b : Fin 2) (k : Fin 16) (x : TariffClass) : (s.setTariff b k x).arl = s.arl := rfl
@[simp] theorem setTariff_now (b : Fin 2) (k : Fin 16) (x : TariffClass) : (s.setTariff b k x).now = s.now := rfl
@[simp] theorem setTariff_senseLines (b : Fin 2) (k : Fin 16) (x : TariffClass) : (s.setTariff b k x).senseLines = s.senseLines := rfl
@[simp] theorem setTariff_choices (b : Fin 2) (k : Fin 16) (x : TariffClass) : (s.setTariff b k x).choices = s.choices := rfl
@[simp] theorem setTariff_pending (b : Fin 2) (k : Fin 16) (x : TariffClass) : (s.setTariff b k x).pending = s.pending := rfl
@[simp] theorem job_setTariff (b : Fin 2) (k : Fin 16) (x : TariffClass) (i : Fin 128) : (s.setTariff b k x).job i = s.job i := rfl
@[simp] theorem disp_setTariff (b : Fin 2) (k : Fin 16) (x : TariffClass) (i : Fin 32) : (s.setTariff b k x).disp i = s.disp i := rfl
@[simp] theorem pool_setTariff (b : Fin 2) (k : Fin 16) (x : TariffClass) (i : Fin 16) : (s.setTariff b k x).pool i = s.pool i := rfl
@[simp] theorem printer_setTariff (b : Fin 2) (k : Fin 16) (x : TariffClass) (i : Fin 32) : (s.setTariff b k x).printer i = s.printer i := rfl
@[simp] theorem port_setTariff (b : Fin 2) (k : Fin 16) (x : TariffClass) (i : Fin 8) : (s.setTariff b k x).port i = s.port i := rfl
@[simp] theorem account_setTariff (b : Fin 2) (k : Fin 16) (x : TariffClass) (i : Fin 512) : (s.setTariff b k x).account i = s.account i := rfl
@[simp] theorem route_setTariff (b : Fin 2) (k : Fin 16) (x : TariffClass) (i : Fin 256) : (s.setTariff b k x).route i = s.route i := rfl
@[simp] theorem stream_setTariff (b : Fin 2) (k : Fin 16) (x : TariffClass) (i : Fin 15) : (s.setTariff b k x).stream i = s.stream i := rfl
@[simp] theorem sense_setTariff (b : Fin 2) (k : Fin 16) (x : TariffClass) (i : Fin 32) : (s.setTariff b k x).sense i = s.sense i := rfl
@[simp] theorem freeBlocks_setTariff (b : Fin 2) (k : Fin 16) (x : TariffClass) : (s.setTariff b k x).freeBlocks = s.freeBlocks := rfl
@[simp] theorem freeDescriptors_setTariff (b : Fin 2) (k : Fin 16) (x : TariffClass) : (s.setTariff b k x).freeDescriptors = s.freeDescriptors := rfl

/-! ### setCurrentBank -/

@[simp] theorem setCurrentBank_jli (b : Fin 2) : (s.setCurrentBank b).jli = s.jli := rfl
@[simp] theorem setCurrentBank_mgu (b : Fin 2) : (s.setCurrentBank b).mgu = s.mgu := rfl
@[simp] theorem setCurrentBank_rcl (b : Fin 2) : (s.setCurrentBank b).rcl = s.rcl := rfl
@[simp] theorem setCurrentBank_spm (b : Fin 2) : (s.setCurrentBank b).spm = s.spm := rfl
@[simp] theorem setCurrentBank_dsc (b : Fin 2) : (s.setCurrentBank b).dsc = s.dsc := rfl
@[simp] theorem setCurrentBank_dlc (b : Fin 2) : (s.setCurrentBank b).dlc = s.dlc := rfl
@[simp] theorem setCurrentBank_pra (b : Fin 2) : (s.setCurrentBank b).pra = s.pra := rfl
@[simp] theorem setCurrentBank_banks (b : Fin 2) : (s.setCurrentBank b).chg.banks = s.chg.banks := rfl
@[simp] theorem setCurrentBank_current (b : Fin 2) : (s.setCurrentBank b).chg.current = b := rfl
@[simp] theorem setCurrentBank_bound (b : Fin 2) : (s.setCurrentBank b).chg.bound = s.chg.bound := rfl
@[simp] theorem setCurrentBank_acm (b : Fin 2) : (s.setCurrentBank b).acm = s.acm := rfl
@[simp] theorem setCurrentBank_arl (b : Fin 2) : (s.setCurrentBank b).arl = s.arl := rfl
@[simp] theorem setCurrentBank_now (b : Fin 2) : (s.setCurrentBank b).now = s.now := rfl
@[simp] theorem setCurrentBank_senseLines (b : Fin 2) : (s.setCurrentBank b).senseLines = s.senseLines := rfl
@[simp] theorem setCurrentBank_choices (b : Fin 2) : (s.setCurrentBank b).choices = s.choices := rfl
@[simp] theorem setCurrentBank_pending (b : Fin 2) : (s.setCurrentBank b).pending = s.pending := rfl
@[simp] theorem job_setCurrentBank (b : Fin 2) (i : Fin 128) : (s.setCurrentBank b).job i = s.job i := rfl
@[simp] theorem disp_setCurrentBank (b : Fin 2) (i : Fin 32) : (s.setCurrentBank b).disp i = s.disp i := rfl
@[simp] theorem pool_setCurrentBank (b : Fin 2) (i : Fin 16) : (s.setCurrentBank b).pool i = s.pool i := rfl
@[simp] theorem printer_setCurrentBank (b : Fin 2) (i : Fin 32) : (s.setCurrentBank b).printer i = s.printer i := rfl
@[simp] theorem port_setCurrentBank (b : Fin 2) (i : Fin 8) : (s.setCurrentBank b).port i = s.port i := rfl
@[simp] theorem account_setCurrentBank (b : Fin 2) (i : Fin 512) : (s.setCurrentBank b).account i = s.account i := rfl
@[simp] theorem route_setCurrentBank (b : Fin 2) (i : Fin 256) : (s.setCurrentBank b).route i = s.route i := rfl
@[simp] theorem stream_setCurrentBank (b : Fin 2) (i : Fin 15) : (s.setCurrentBank b).stream i = s.stream i := rfl
@[simp] theorem sense_setCurrentBank (b : Fin 2) (i : Fin 32) : (s.setCurrentBank b).sense i = s.sense i := rfl
@[simp] theorem freeBlocks_setCurrentBank (b : Fin 2) : (s.setCurrentBank b).freeBlocks = s.freeBlocks := rfl
@[simp] theorem freeDescriptors_setCurrentBank (b : Fin 2) : (s.setCurrentBank b).freeDescriptors = s.freeDescriptors := rfl

/-! ### setBankBound -/

@[simp] theorem setBankBound_jli (b : Fin 2) (n : Nat) : (s.setBankBound b n).jli = s.jli := rfl
@[simp] theorem setBankBound_mgu (b : Fin 2) (n : Nat) : (s.setBankBound b n).mgu = s.mgu := rfl
@[simp] theorem setBankBound_rcl (b : Fin 2) (n : Nat) : (s.setBankBound b n).rcl = s.rcl := rfl
@[simp] theorem setBankBound_spm (b : Fin 2) (n : Nat) : (s.setBankBound b n).spm = s.spm := rfl
@[simp] theorem setBankBound_dsc (b : Fin 2) (n : Nat) : (s.setBankBound b n).dsc = s.dsc := rfl
@[simp] theorem setBankBound_dlc (b : Fin 2) (n : Nat) : (s.setBankBound b n).dlc = s.dlc := rfl
@[simp] theorem setBankBound_pra (b : Fin 2) (n : Nat) : (s.setBankBound b n).pra = s.pra := rfl
@[simp] theorem setBankBound_banks (b : Fin 2) (n : Nat) : (s.setBankBound b n).chg.banks = s.chg.banks := rfl
@[simp] theorem setBankBound_current (b : Fin 2) (n : Nat) : (s.setBankBound b n).chg.current = s.chg.current := rfl
@[simp] theorem setBankBound_bound (b : Fin 2) (n : Nat) : (s.setBankBound b n).chg.bound = put s.chg.bound b n := rfl
@[simp] theorem setBankBound_acm (b : Fin 2) (n : Nat) : (s.setBankBound b n).acm = s.acm := rfl
@[simp] theorem setBankBound_arl (b : Fin 2) (n : Nat) : (s.setBankBound b n).arl = s.arl := rfl
@[simp] theorem setBankBound_now (b : Fin 2) (n : Nat) : (s.setBankBound b n).now = s.now := rfl
@[simp] theorem setBankBound_senseLines (b : Fin 2) (n : Nat) : (s.setBankBound b n).senseLines = s.senseLines := rfl
@[simp] theorem setBankBound_choices (b : Fin 2) (n : Nat) : (s.setBankBound b n).choices = s.choices := rfl
@[simp] theorem setBankBound_pending (b : Fin 2) (n : Nat) : (s.setBankBound b n).pending = s.pending := rfl
@[simp] theorem job_setBankBound (b : Fin 2) (n : Nat) (i : Fin 128) : (s.setBankBound b n).job i = s.job i := rfl
@[simp] theorem disp_setBankBound (b : Fin 2) (n : Nat) (i : Fin 32) : (s.setBankBound b n).disp i = s.disp i := rfl
@[simp] theorem pool_setBankBound (b : Fin 2) (n : Nat) (i : Fin 16) : (s.setBankBound b n).pool i = s.pool i := rfl
@[simp] theorem printer_setBankBound (b : Fin 2) (n : Nat) (i : Fin 32) : (s.setBankBound b n).printer i = s.printer i := rfl
@[simp] theorem port_setBankBound (b : Fin 2) (n : Nat) (i : Fin 8) : (s.setBankBound b n).port i = s.port i := rfl
@[simp] theorem account_setBankBound (b : Fin 2) (n : Nat) (i : Fin 512) : (s.setBankBound b n).account i = s.account i := rfl
@[simp] theorem route_setBankBound (b : Fin 2) (n : Nat) (i : Fin 256) : (s.setBankBound b n).route i = s.route i := rfl
@[simp] theorem stream_setBankBound (b : Fin 2) (n : Nat) (i : Fin 15) : (s.setBankBound b n).stream i = s.stream i := rfl
@[simp] theorem sense_setBankBound (b : Fin 2) (n : Nat) (i : Fin 32) : (s.setBankBound b n).sense i = s.sense i := rfl
@[simp] theorem freeBlocks_setBankBound (b : Fin 2) (n : Nat) : (s.setBankBound b n).freeBlocks = s.freeBlocks := rfl
@[simp] theorem freeDescriptors_setBankBound (b : Fin 2) (n : Nat) : (s.setBankBound b n).freeDescriptors = s.freeDescriptors := rfl

/-! ### setAlerts -/

@[simp] theorem setAlerts_jli (l : List AlertEntry) : (s.setAlerts l).jli = s.jli := rfl
@[simp] theorem setAlerts_mgu (l : List AlertEntry) : (s.setAlerts l).mgu = s.mgu := rfl
@[simp] theorem setAlerts_rcl (l : List AlertEntry) : (s.setAlerts l).rcl = s.rcl := rfl
@[simp] theorem setAlerts_spm (l : List AlertEntry) : (s.setAlerts l).spm = s.spm := rfl
@[simp] theorem setAlerts_dsc (l : List AlertEntry) : (s.setAlerts l).dsc = s.dsc := rfl
@[simp] theorem setAlerts_dlc (l : List AlertEntry) : (s.setAlerts l).dlc = s.dlc := rfl
@[simp] theorem setAlerts_pra (l : List AlertEntry) : (s.setAlerts l).pra = s.pra := rfl
@[simp] theorem setAlerts_chg (l : List AlertEntry) : (s.setAlerts l).chg = s.chg := rfl
@[simp] theorem setAlerts_acm (l : List AlertEntry) : (s.setAlerts l).acm = s.acm := rfl
@[simp] theorem setAlerts_queue (l : List AlertEntry) : (s.setAlerts l).arl.queue = l := rfl
@[simp] theorem setAlerts_dropped (l : List AlertEntry) : (s.setAlerts l).arl.dropped = s.arl.dropped := rfl
@[simp] theorem setAlerts_mask (l : List AlertEntry) : (s.setAlerts l).arl.mask = s.arl.mask := rfl
@[simp] theorem setAlerts_printerBeacon (l : List AlertEntry) : (s.setAlerts l).arl.printerBeacon = s.arl.printerBeacon := rfl
@[simp] theorem setAlerts_portBeacon (l : List AlertEntry) : (s.setAlerts l).arl.portBeacon = s.arl.portBeacon := rfl
@[simp] theorem setAlerts_officeBeacon (l : List AlertEntry) : (s.setAlerts l).arl.officeBeacon = s.arl.officeBeacon := rfl
@[simp] theorem setAlerts_overrides (l : List AlertEntry) : (s.setAlerts l).arl.overrides = s.arl.overrides := rfl
@[simp] theorem setAlerts_sense (l : List AlertEntry) : (s.setAlerts l).arl.sense = s.arl.sense := rfl
@[simp] theorem setAlerts_now (l : List AlertEntry) : (s.setAlerts l).now = s.now := rfl
@[simp] theorem setAlerts_senseLines (l : List AlertEntry) : (s.setAlerts l).senseLines = s.senseLines := rfl
@[simp] theorem setAlerts_choices (l : List AlertEntry) : (s.setAlerts l).choices = s.choices := rfl
@[simp] theorem setAlerts_pending (l : List AlertEntry) : (s.setAlerts l).pending = s.pending := rfl
@[simp] theorem job_setAlerts (l : List AlertEntry) (i : Fin 128) : (s.setAlerts l).job i = s.job i := rfl
@[simp] theorem disp_setAlerts (l : List AlertEntry) (i : Fin 32) : (s.setAlerts l).disp i = s.disp i := rfl
@[simp] theorem pool_setAlerts (l : List AlertEntry) (i : Fin 16) : (s.setAlerts l).pool i = s.pool i := rfl
@[simp] theorem printer_setAlerts (l : List AlertEntry) (i : Fin 32) : (s.setAlerts l).printer i = s.printer i := rfl
@[simp] theorem port_setAlerts (l : List AlertEntry) (i : Fin 8) : (s.setAlerts l).port i = s.port i := rfl
@[simp] theorem account_setAlerts (l : List AlertEntry) (i : Fin 512) : (s.setAlerts l).account i = s.account i := rfl
@[simp] theorem route_setAlerts (l : List AlertEntry) (i : Fin 256) : (s.setAlerts l).route i = s.route i := rfl
@[simp] theorem stream_setAlerts (l : List AlertEntry) (i : Fin 15) : (s.setAlerts l).stream i = s.stream i := rfl
@[simp] theorem sense_setAlerts (l : List AlertEntry) (i : Fin 32) : (s.setAlerts l).sense i = s.sense i := rfl
@[simp] theorem freeBlocks_setAlerts (l : List AlertEntry) : (s.setAlerts l).freeBlocks = s.freeBlocks := rfl
@[simp] theorem freeDescriptors_setAlerts (l : List AlertEntry) : (s.setAlerts l).freeDescriptors = s.freeDescriptors := rfl

/-! ### countDropped -/

@[simp] theorem countDropped_jli : (s.countDropped).jli = s.jli := rfl
@[simp] theorem countDropped_mgu : (s.countDropped).mgu = s.mgu := rfl
@[simp] theorem countDropped_rcl : (s.countDropped).rcl = s.rcl := rfl
@[simp] theorem countDropped_spm : (s.countDropped).spm = s.spm := rfl
@[simp] theorem countDropped_dsc : (s.countDropped).dsc = s.dsc := rfl
@[simp] theorem countDropped_dlc : (s.countDropped).dlc = s.dlc := rfl
@[simp] theorem countDropped_pra : (s.countDropped).pra = s.pra := rfl
@[simp] theorem countDropped_chg : (s.countDropped).chg = s.chg := rfl
@[simp] theorem countDropped_acm : (s.countDropped).acm = s.acm := rfl
@[simp] theorem countDropped_queue : (s.countDropped).arl.queue = s.arl.queue := rfl
@[simp] theorem countDropped_dropped : (s.countDropped).arl.dropped = satAdd Config.max16 s.arl.dropped 1 := rfl
@[simp] theorem countDropped_mask : (s.countDropped).arl.mask = s.arl.mask := rfl
@[simp] theorem countDropped_printerBeacon : (s.countDropped).arl.printerBeacon = s.arl.printerBeacon := rfl
@[simp] theorem countDropped_portBeacon : (s.countDropped).arl.portBeacon = s.arl.portBeacon := rfl
@[simp] theorem countDropped_officeBeacon : (s.countDropped).arl.officeBeacon = s.arl.officeBeacon := rfl
@[simp] theorem countDropped_overrides : (s.countDropped).arl.overrides = s.arl.overrides := rfl
@[simp] theorem countDropped_sense : (s.countDropped).arl.sense = s.arl.sense := rfl
@[simp] theorem countDropped_now : (s.countDropped).now = s.now := rfl
@[simp] theorem countDropped_senseLines : (s.countDropped).senseLines = s.senseLines := rfl
@[simp] theorem countDropped_choices : (s.countDropped).choices = s.choices := rfl
@[simp] theorem countDropped_pending : (s.countDropped).pending = s.pending := rfl
@[simp] theorem job_countDropped (i : Fin 128) : (s.countDropped).job i = s.job i := rfl
@[simp] theorem disp_countDropped (i : Fin 32) : (s.countDropped).disp i = s.disp i := rfl
@[simp] theorem pool_countDropped (i : Fin 16) : (s.countDropped).pool i = s.pool i := rfl
@[simp] theorem printer_countDropped (i : Fin 32) : (s.countDropped).printer i = s.printer i := rfl
@[simp] theorem port_countDropped (i : Fin 8) : (s.countDropped).port i = s.port i := rfl
@[simp] theorem account_countDropped (i : Fin 512) : (s.countDropped).account i = s.account i := rfl
@[simp] theorem route_countDropped (i : Fin 256) : (s.countDropped).route i = s.route i := rfl
@[simp] theorem stream_countDropped (i : Fin 15) : (s.countDropped).stream i = s.stream i := rfl
@[simp] theorem sense_countDropped (i : Fin 32) : (s.countDropped).sense i = s.sense i := rfl
@[simp] theorem freeBlocks_countDropped : (s.countDropped).freeBlocks = s.freeBlocks := rfl
@[simp] theorem freeDescriptors_countDropped : (s.countDropped).freeDescriptors = s.freeDescriptors := rfl

/-! ### setMask -/

@[simp] theorem setMask_jli (m : BitVec 12) : (s.setMask m).jli = s.jli := rfl
@[simp] theorem setMask_mgu (m : BitVec 12) : (s.setMask m).mgu = s.mgu := rfl
@[simp] theorem setMask_rcl (m : BitVec 12) : (s.setMask m).rcl = s.rcl := rfl
@[simp] theorem setMask_spm (m : BitVec 12) : (s.setMask m).spm = s.spm := rfl
@[simp] theorem setMask_dsc (m : BitVec 12) : (s.setMask m).dsc = s.dsc := rfl
@[simp] theorem setMask_dlc (m : BitVec 12) : (s.setMask m).dlc = s.dlc := rfl
@[simp] theorem setMask_pra (m : BitVec 12) : (s.setMask m).pra = s.pra := rfl
@[simp] theorem setMask_chg (m : BitVec 12) : (s.setMask m).chg = s.chg := rfl
@[simp] theorem setMask_acm (m : BitVec 12) : (s.setMask m).acm = s.acm := rfl
@[simp] theorem setMask_queue (m : BitVec 12) : (s.setMask m).arl.queue = s.arl.queue := rfl
@[simp] theorem setMask_dropped (m : BitVec 12) : (s.setMask m).arl.dropped = s.arl.dropped := rfl
@[simp] theorem setMask_mask (m : BitVec 12) : (s.setMask m).arl.mask = m := rfl
@[simp] theorem setMask_printerBeacon (m : BitVec 12) : (s.setMask m).arl.printerBeacon = s.arl.printerBeacon := rfl
@[simp] theorem setMask_portBeacon (m : BitVec 12) : (s.setMask m).arl.portBeacon = s.arl.portBeacon := rfl
@[simp] theorem setMask_officeBeacon (m : BitVec 12) : (s.setMask m).arl.officeBeacon = s.arl.officeBeacon := rfl
@[simp] theorem setMask_overrides (m : BitVec 12) : (s.setMask m).arl.overrides = s.arl.overrides := rfl
@[simp] theorem setMask_sense (m : BitVec 12) : (s.setMask m).arl.sense = s.arl.sense := rfl
@[simp] theorem setMask_now (m : BitVec 12) : (s.setMask m).now = s.now := rfl
@[simp] theorem setMask_senseLines (m : BitVec 12) : (s.setMask m).senseLines = s.senseLines := rfl
@[simp] theorem setMask_choices (m : BitVec 12) : (s.setMask m).choices = s.choices := rfl
@[simp] theorem setMask_pending (m : BitVec 12) : (s.setMask m).pending = s.pending := rfl
@[simp] theorem job_setMask (m : BitVec 12) (i : Fin 128) : (s.setMask m).job i = s.job i := rfl
@[simp] theorem disp_setMask (m : BitVec 12) (i : Fin 32) : (s.setMask m).disp i = s.disp i := rfl
@[simp] theorem pool_setMask (m : BitVec 12) (i : Fin 16) : (s.setMask m).pool i = s.pool i := rfl
@[simp] theorem printer_setMask (m : BitVec 12) (i : Fin 32) : (s.setMask m).printer i = s.printer i := rfl
@[simp] theorem port_setMask (m : BitVec 12) (i : Fin 8) : (s.setMask m).port i = s.port i := rfl
@[simp] theorem account_setMask (m : BitVec 12) (i : Fin 512) : (s.setMask m).account i = s.account i := rfl
@[simp] theorem route_setMask (m : BitVec 12) (i : Fin 256) : (s.setMask m).route i = s.route i := rfl
@[simp] theorem stream_setMask (m : BitVec 12) (i : Fin 15) : (s.setMask m).stream i = s.stream i := rfl
@[simp] theorem sense_setMask (m : BitVec 12) (i : Fin 32) : (s.setMask m).sense i = s.sense i := rfl
@[simp] theorem freeBlocks_setMask (m : BitVec 12) : (s.setMask m).freeBlocks = s.freeBlocks := rfl
@[simp] theorem freeDescriptors_setMask (m : BitVec 12) : (s.setMask m).freeDescriptors = s.freeDescriptors := rfl

/-! ### setPrinterBeacon -/

@[simp] theorem setPrinterBeacon_jli (p : Fin 32) (b : Option (Fin 8)) : (s.setPrinterBeacon p b).jli = s.jli := rfl
@[simp] theorem setPrinterBeacon_mgu (p : Fin 32) (b : Option (Fin 8)) : (s.setPrinterBeacon p b).mgu = s.mgu := rfl
@[simp] theorem setPrinterBeacon_rcl (p : Fin 32) (b : Option (Fin 8)) : (s.setPrinterBeacon p b).rcl = s.rcl := rfl
@[simp] theorem setPrinterBeacon_spm (p : Fin 32) (b : Option (Fin 8)) : (s.setPrinterBeacon p b).spm = s.spm := rfl
@[simp] theorem setPrinterBeacon_dsc (p : Fin 32) (b : Option (Fin 8)) : (s.setPrinterBeacon p b).dsc = s.dsc := rfl
@[simp] theorem setPrinterBeacon_dlc (p : Fin 32) (b : Option (Fin 8)) : (s.setPrinterBeacon p b).dlc = s.dlc := rfl
@[simp] theorem setPrinterBeacon_pra (p : Fin 32) (b : Option (Fin 8)) : (s.setPrinterBeacon p b).pra = s.pra := rfl
@[simp] theorem setPrinterBeacon_chg (p : Fin 32) (b : Option (Fin 8)) : (s.setPrinterBeacon p b).chg = s.chg := rfl
@[simp] theorem setPrinterBeacon_acm (p : Fin 32) (b : Option (Fin 8)) : (s.setPrinterBeacon p b).acm = s.acm := rfl
@[simp] theorem setPrinterBeacon_queue (p : Fin 32) (b : Option (Fin 8)) : (s.setPrinterBeacon p b).arl.queue = s.arl.queue := rfl
@[simp] theorem setPrinterBeacon_dropped (p : Fin 32) (b : Option (Fin 8)) : (s.setPrinterBeacon p b).arl.dropped = s.arl.dropped := rfl
@[simp] theorem setPrinterBeacon_mask (p : Fin 32) (b : Option (Fin 8)) : (s.setPrinterBeacon p b).arl.mask = s.arl.mask := rfl
@[simp] theorem setPrinterBeacon_printerBeacon (p : Fin 32) (b : Option (Fin 8)) : (s.setPrinterBeacon p b).arl.printerBeacon = put s.arl.printerBeacon p b := rfl
@[simp] theorem setPrinterBeacon_portBeacon (p : Fin 32) (b : Option (Fin 8)) : (s.setPrinterBeacon p b).arl.portBeacon = s.arl.portBeacon := rfl
@[simp] theorem setPrinterBeacon_officeBeacon (p : Fin 32) (b : Option (Fin 8)) : (s.setPrinterBeacon p b).arl.officeBeacon = s.arl.officeBeacon := rfl
@[simp] theorem setPrinterBeacon_overrides (p : Fin 32) (b : Option (Fin 8)) : (s.setPrinterBeacon p b).arl.overrides = s.arl.overrides := rfl
@[simp] theorem setPrinterBeacon_sense (p : Fin 32) (b : Option (Fin 8)) : (s.setPrinterBeacon p b).arl.sense = s.arl.sense := rfl
@[simp] theorem setPrinterBeacon_now (p : Fin 32) (b : Option (Fin 8)) : (s.setPrinterBeacon p b).now = s.now := rfl
@[simp] theorem setPrinterBeacon_senseLines (p : Fin 32) (b : Option (Fin 8)) : (s.setPrinterBeacon p b).senseLines = s.senseLines := rfl
@[simp] theorem setPrinterBeacon_choices (p : Fin 32) (b : Option (Fin 8)) : (s.setPrinterBeacon p b).choices = s.choices := rfl
@[simp] theorem setPrinterBeacon_pending (p : Fin 32) (b : Option (Fin 8)) : (s.setPrinterBeacon p b).pending = s.pending := rfl
@[simp] theorem job_setPrinterBeacon (p : Fin 32) (b : Option (Fin 8)) (i : Fin 128) : (s.setPrinterBeacon p b).job i = s.job i := rfl
@[simp] theorem disp_setPrinterBeacon (p : Fin 32) (b : Option (Fin 8)) (i : Fin 32) : (s.setPrinterBeacon p b).disp i = s.disp i := rfl
@[simp] theorem pool_setPrinterBeacon (p : Fin 32) (b : Option (Fin 8)) (i : Fin 16) : (s.setPrinterBeacon p b).pool i = s.pool i := rfl
@[simp] theorem printer_setPrinterBeacon (p : Fin 32) (b : Option (Fin 8)) (i : Fin 32) : (s.setPrinterBeacon p b).printer i = s.printer i := rfl
@[simp] theorem port_setPrinterBeacon (p : Fin 32) (b : Option (Fin 8)) (i : Fin 8) : (s.setPrinterBeacon p b).port i = s.port i := rfl
@[simp] theorem account_setPrinterBeacon (p : Fin 32) (b : Option (Fin 8)) (i : Fin 512) : (s.setPrinterBeacon p b).account i = s.account i := rfl
@[simp] theorem route_setPrinterBeacon (p : Fin 32) (b : Option (Fin 8)) (i : Fin 256) : (s.setPrinterBeacon p b).route i = s.route i := rfl
@[simp] theorem stream_setPrinterBeacon (p : Fin 32) (b : Option (Fin 8)) (i : Fin 15) : (s.setPrinterBeacon p b).stream i = s.stream i := rfl
@[simp] theorem sense_setPrinterBeacon (p : Fin 32) (b : Option (Fin 8)) (i : Fin 32) : (s.setPrinterBeacon p b).sense i = s.sense i := rfl
@[simp] theorem freeBlocks_setPrinterBeacon (p : Fin 32) (b : Option (Fin 8)) : (s.setPrinterBeacon p b).freeBlocks = s.freeBlocks := rfl
@[simp] theorem freeDescriptors_setPrinterBeacon (p : Fin 32) (b : Option (Fin 8)) : (s.setPrinterBeacon p b).freeDescriptors = s.freeDescriptors := rfl

/-! ### setPortBeacon -/

@[simp] theorem setPortBeacon_jli (q : Fin 8) (b : Option (Fin 8)) : (s.setPortBeacon q b).jli = s.jli := rfl
@[simp] theorem setPortBeacon_mgu (q : Fin 8) (b : Option (Fin 8)) : (s.setPortBeacon q b).mgu = s.mgu := rfl
@[simp] theorem setPortBeacon_rcl (q : Fin 8) (b : Option (Fin 8)) : (s.setPortBeacon q b).rcl = s.rcl := rfl
@[simp] theorem setPortBeacon_spm (q : Fin 8) (b : Option (Fin 8)) : (s.setPortBeacon q b).spm = s.spm := rfl
@[simp] theorem setPortBeacon_dsc (q : Fin 8) (b : Option (Fin 8)) : (s.setPortBeacon q b).dsc = s.dsc := rfl
@[simp] theorem setPortBeacon_dlc (q : Fin 8) (b : Option (Fin 8)) : (s.setPortBeacon q b).dlc = s.dlc := rfl
@[simp] theorem setPortBeacon_pra (q : Fin 8) (b : Option (Fin 8)) : (s.setPortBeacon q b).pra = s.pra := rfl
@[simp] theorem setPortBeacon_chg (q : Fin 8) (b : Option (Fin 8)) : (s.setPortBeacon q b).chg = s.chg := rfl
@[simp] theorem setPortBeacon_acm (q : Fin 8) (b : Option (Fin 8)) : (s.setPortBeacon q b).acm = s.acm := rfl
@[simp] theorem setPortBeacon_queue (q : Fin 8) (b : Option (Fin 8)) : (s.setPortBeacon q b).arl.queue = s.arl.queue := rfl
@[simp] theorem setPortBeacon_dropped (q : Fin 8) (b : Option (Fin 8)) : (s.setPortBeacon q b).arl.dropped = s.arl.dropped := rfl
@[simp] theorem setPortBeacon_mask (q : Fin 8) (b : Option (Fin 8)) : (s.setPortBeacon q b).arl.mask = s.arl.mask := rfl
@[simp] theorem setPortBeacon_printerBeacon (q : Fin 8) (b : Option (Fin 8)) : (s.setPortBeacon q b).arl.printerBeacon = s.arl.printerBeacon := rfl
@[simp] theorem setPortBeacon_portBeacon (q : Fin 8) (b : Option (Fin 8)) : (s.setPortBeacon q b).arl.portBeacon = put s.arl.portBeacon q b := rfl
@[simp] theorem setPortBeacon_officeBeacon (q : Fin 8) (b : Option (Fin 8)) : (s.setPortBeacon q b).arl.officeBeacon = s.arl.officeBeacon := rfl
@[simp] theorem setPortBeacon_overrides (q : Fin 8) (b : Option (Fin 8)) : (s.setPortBeacon q b).arl.overrides = s.arl.overrides := rfl
@[simp] theorem setPortBeacon_sense (q : Fin 8) (b : Option (Fin 8)) : (s.setPortBeacon q b).arl.sense = s.arl.sense := rfl
@[simp] theorem setPortBeacon_now (q : Fin 8) (b : Option (Fin 8)) : (s.setPortBeacon q b).now = s.now := rfl
@[simp] theorem setPortBeacon_senseLines (q : Fin 8) (b : Option (Fin 8)) : (s.setPortBeacon q b).senseLines = s.senseLines := rfl
@[simp] theorem setPortBeacon_choices (q : Fin 8) (b : Option (Fin 8)) : (s.setPortBeacon q b).choices = s.choices := rfl
@[simp] theorem setPortBeacon_pending (q : Fin 8) (b : Option (Fin 8)) : (s.setPortBeacon q b).pending = s.pending := rfl
@[simp] theorem job_setPortBeacon (q : Fin 8) (b : Option (Fin 8)) (i : Fin 128) : (s.setPortBeacon q b).job i = s.job i := rfl
@[simp] theorem disp_setPortBeacon (q : Fin 8) (b : Option (Fin 8)) (i : Fin 32) : (s.setPortBeacon q b).disp i = s.disp i := rfl
@[simp] theorem pool_setPortBeacon (q : Fin 8) (b : Option (Fin 8)) (i : Fin 16) : (s.setPortBeacon q b).pool i = s.pool i := rfl
@[simp] theorem printer_setPortBeacon (q : Fin 8) (b : Option (Fin 8)) (i : Fin 32) : (s.setPortBeacon q b).printer i = s.printer i := rfl
@[simp] theorem port_setPortBeacon (q : Fin 8) (b : Option (Fin 8)) (i : Fin 8) : (s.setPortBeacon q b).port i = s.port i := rfl
@[simp] theorem account_setPortBeacon (q : Fin 8) (b : Option (Fin 8)) (i : Fin 512) : (s.setPortBeacon q b).account i = s.account i := rfl
@[simp] theorem route_setPortBeacon (q : Fin 8) (b : Option (Fin 8)) (i : Fin 256) : (s.setPortBeacon q b).route i = s.route i := rfl
@[simp] theorem stream_setPortBeacon (q : Fin 8) (b : Option (Fin 8)) (i : Fin 15) : (s.setPortBeacon q b).stream i = s.stream i := rfl
@[simp] theorem sense_setPortBeacon (q : Fin 8) (b : Option (Fin 8)) (i : Fin 32) : (s.setPortBeacon q b).sense i = s.sense i := rfl
@[simp] theorem freeBlocks_setPortBeacon (q : Fin 8) (b : Option (Fin 8)) : (s.setPortBeacon q b).freeBlocks = s.freeBlocks := rfl
@[simp] theorem freeDescriptors_setPortBeacon (q : Fin 8) (b : Option (Fin 8)) : (s.setPortBeacon q b).freeDescriptors = s.freeDescriptors := rfl

/-! ### setOfficeBeacon -/

@[simp] theorem setOfficeBeacon_jli (b : Option (Fin 8)) : (s.setOfficeBeacon b).jli = s.jli := rfl
@[simp] theorem setOfficeBeacon_mgu (b : Option (Fin 8)) : (s.setOfficeBeacon b).mgu = s.mgu := rfl
@[simp] theorem setOfficeBeacon_rcl (b : Option (Fin 8)) : (s.setOfficeBeacon b).rcl = s.rcl := rfl
@[simp] theorem setOfficeBeacon_spm (b : Option (Fin 8)) : (s.setOfficeBeacon b).spm = s.spm := rfl
@[simp] theorem setOfficeBeacon_dsc (b : Option (Fin 8)) : (s.setOfficeBeacon b).dsc = s.dsc := rfl
@[simp] theorem setOfficeBeacon_dlc (b : Option (Fin 8)) : (s.setOfficeBeacon b).dlc = s.dlc := rfl
@[simp] theorem setOfficeBeacon_pra (b : Option (Fin 8)) : (s.setOfficeBeacon b).pra = s.pra := rfl
@[simp] theorem setOfficeBeacon_chg (b : Option (Fin 8)) : (s.setOfficeBeacon b).chg = s.chg := rfl
@[simp] theorem setOfficeBeacon_acm (b : Option (Fin 8)) : (s.setOfficeBeacon b).acm = s.acm := rfl
@[simp] theorem setOfficeBeacon_queue (b : Option (Fin 8)) : (s.setOfficeBeacon b).arl.queue = s.arl.queue := rfl
@[simp] theorem setOfficeBeacon_dropped (b : Option (Fin 8)) : (s.setOfficeBeacon b).arl.dropped = s.arl.dropped := rfl
@[simp] theorem setOfficeBeacon_mask (b : Option (Fin 8)) : (s.setOfficeBeacon b).arl.mask = s.arl.mask := rfl
@[simp] theorem setOfficeBeacon_printerBeacon (b : Option (Fin 8)) : (s.setOfficeBeacon b).arl.printerBeacon = s.arl.printerBeacon := rfl
@[simp] theorem setOfficeBeacon_portBeacon (b : Option (Fin 8)) : (s.setOfficeBeacon b).arl.portBeacon = s.arl.portBeacon := rfl
@[simp] theorem setOfficeBeacon_officeBeacon (b : Option (Fin 8)) : (s.setOfficeBeacon b).arl.officeBeacon = b := rfl
@[simp] theorem setOfficeBeacon_overrides (b : Option (Fin 8)) : (s.setOfficeBeacon b).arl.overrides = s.arl.overrides := rfl
@[simp] theorem setOfficeBeacon_sense (b : Option (Fin 8)) : (s.setOfficeBeacon b).arl.sense = s.arl.sense := rfl
@[simp] theorem setOfficeBeacon_now (b : Option (Fin 8)) : (s.setOfficeBeacon b).now = s.now := rfl
@[simp] theorem setOfficeBeacon_senseLines (b : Option (Fin 8)) : (s.setOfficeBeacon b).senseLines = s.senseLines := rfl
@[simp] theorem setOfficeBeacon_choices (b : Option (Fin 8)) : (s.setOfficeBeacon b).choices = s.choices := rfl
@[simp] theorem setOfficeBeacon_pending (b : Option (Fin 8)) : (s.setOfficeBeacon b).pending = s.pending := rfl
@[simp] theorem job_setOfficeBeacon (b : Option (Fin 8)) (i : Fin 128) : (s.setOfficeBeacon b).job i = s.job i := rfl
@[simp] theorem disp_setOfficeBeacon (b : Option (Fin 8)) (i : Fin 32) : (s.setOfficeBeacon b).disp i = s.disp i := rfl
@[simp] theorem pool_setOfficeBeacon (b : Option (Fin 8)) (i : Fin 16) : (s.setOfficeBeacon b).pool i = s.pool i := rfl
@[simp] theorem printer_setOfficeBeacon (b : Option (Fin 8)) (i : Fin 32) : (s.setOfficeBeacon b).printer i = s.printer i := rfl
@[simp] theorem port_setOfficeBeacon (b : Option (Fin 8)) (i : Fin 8) : (s.setOfficeBeacon b).port i = s.port i := rfl
@[simp] theorem account_setOfficeBeacon (b : Option (Fin 8)) (i : Fin 512) : (s.setOfficeBeacon b).account i = s.account i := rfl
@[simp] theorem route_setOfficeBeacon (b : Option (Fin 8)) (i : Fin 256) : (s.setOfficeBeacon b).route i = s.route i := rfl
@[simp] theorem stream_setOfficeBeacon (b : Option (Fin 8)) (i : Fin 15) : (s.setOfficeBeacon b).stream i = s.stream i := rfl
@[simp] theorem sense_setOfficeBeacon (b : Option (Fin 8)) (i : Fin 32) : (s.setOfficeBeacon b).sense i = s.sense i := rfl
@[simp] theorem freeBlocks_setOfficeBeacon (b : Option (Fin 8)) : (s.setOfficeBeacon b).freeBlocks = s.freeBlocks := rfl
@[simp] theorem freeDescriptors_setOfficeBeacon (b : Option (Fin 8)) : (s.setOfficeBeacon b).freeDescriptors = s.freeDescriptors := rfl

/-! ### setOverride -/

@[simp] theorem setOverride_jli (b : Fin 8) (o : Option Override) : (s.setOverride b o).jli = s.jli := rfl
@[simp] theorem setOverride_mgu (b : Fin 8) (o : Option Override) : (s.setOverride b o).mgu = s.mgu := rfl
@[simp] theorem setOverride_rcl (b : Fin 8) (o : Option Override) : (s.setOverride b o).rcl = s.rcl := rfl
@[simp] theorem setOverride_spm (b : Fin 8) (o : Option Override) : (s.setOverride b o).spm = s.spm := rfl
@[simp] theorem setOverride_dsc (b : Fin 8) (o : Option Override) : (s.setOverride b o).dsc = s.dsc := rfl
@[simp] theorem setOverride_dlc (b : Fin 8) (o : Option Override) : (s.setOverride b o).dlc = s.dlc := rfl
@[simp] theorem setOverride_pra (b : Fin 8) (o : Option Override) : (s.setOverride b o).pra = s.pra := rfl
@[simp] theorem setOverride_chg (b : Fin 8) (o : Option Override) : (s.setOverride b o).chg = s.chg := rfl
@[simp] theorem setOverride_acm (b : Fin 8) (o : Option Override) : (s.setOverride b o).acm = s.acm := rfl
@[simp] theorem setOverride_queue (b : Fin 8) (o : Option Override) : (s.setOverride b o).arl.queue = s.arl.queue := rfl
@[simp] theorem setOverride_dropped (b : Fin 8) (o : Option Override) : (s.setOverride b o).arl.dropped = s.arl.dropped := rfl
@[simp] theorem setOverride_mask (b : Fin 8) (o : Option Override) : (s.setOverride b o).arl.mask = s.arl.mask := rfl
@[simp] theorem setOverride_printerBeacon (b : Fin 8) (o : Option Override) : (s.setOverride b o).arl.printerBeacon = s.arl.printerBeacon := rfl
@[simp] theorem setOverride_portBeacon (b : Fin 8) (o : Option Override) : (s.setOverride b o).arl.portBeacon = s.arl.portBeacon := rfl
@[simp] theorem setOverride_officeBeacon (b : Fin 8) (o : Option Override) : (s.setOverride b o).arl.officeBeacon = s.arl.officeBeacon := rfl
@[simp] theorem setOverride_overrides (b : Fin 8) (o : Option Override) : (s.setOverride b o).arl.overrides = put s.arl.overrides b o := rfl
@[simp] theorem setOverride_sense (b : Fin 8) (o : Option Override) : (s.setOverride b o).arl.sense = s.arl.sense := rfl
@[simp] theorem setOverride_now (b : Fin 8) (o : Option Override) : (s.setOverride b o).now = s.now := rfl
@[simp] theorem setOverride_senseLines (b : Fin 8) (o : Option Override) : (s.setOverride b o).senseLines = s.senseLines := rfl
@[simp] theorem setOverride_choices (b : Fin 8) (o : Option Override) : (s.setOverride b o).choices = s.choices := rfl
@[simp] theorem setOverride_pending (b : Fin 8) (o : Option Override) : (s.setOverride b o).pending = s.pending := rfl
@[simp] theorem job_setOverride (b : Fin 8) (o : Option Override) (i : Fin 128) : (s.setOverride b o).job i = s.job i := rfl
@[simp] theorem disp_setOverride (b : Fin 8) (o : Option Override) (i : Fin 32) : (s.setOverride b o).disp i = s.disp i := rfl
@[simp] theorem pool_setOverride (b : Fin 8) (o : Option Override) (i : Fin 16) : (s.setOverride b o).pool i = s.pool i := rfl
@[simp] theorem printer_setOverride (b : Fin 8) (o : Option Override) (i : Fin 32) : (s.setOverride b o).printer i = s.printer i := rfl
@[simp] theorem port_setOverride (b : Fin 8) (o : Option Override) (i : Fin 8) : (s.setOverride b o).port i = s.port i := rfl
@[simp] theorem account_setOverride (b : Fin 8) (o : Option Override) (i : Fin 512) : (s.setOverride b o).account i = s.account i := rfl
@[simp] theorem route_setOverride (b : Fin 8) (o : Option Override) (i : Fin 256) : (s.setOverride b o).route i = s.route i := rfl
@[simp] theorem stream_setOverride (b : Fin 8) (o : Option Override) (i : Fin 15) : (s.setOverride b o).stream i = s.stream i := rfl
@[simp] theorem sense_setOverride (b : Fin 8) (o : Option Override) (i : Fin 32) : (s.setOverride b o).sense i = s.sense i := rfl
@[simp] theorem freeBlocks_setOverride (b : Fin 8) (o : Option Override) : (s.setOverride b o).freeBlocks = s.freeBlocks := rfl
@[simp] theorem freeDescriptors_setOverride (b : Fin 8) (o : Option Override) : (s.setOverride b o).freeDescriptors = s.freeDescriptors := rfl

/-! ### setSense -/

@[simp] theorem setSense_jli (p : Fin 32) (x : Sense) : (s.setSense p x).jli = s.jli := rfl
@[simp] theorem setSense_mgu (p : Fin 32) (x : Sense) : (s.setSense p x).mgu = s.mgu := rfl
@[simp] theorem setSense_rcl (p : Fin 32) (x : Sense) : (s.setSense p x).rcl = s.rcl := rfl
@[simp] theorem setSense_spm (p : Fin 32) (x : Sense) : (s.setSense p x).spm = s.spm := rfl
@[simp] theorem setSense_dsc (p : Fin 32) (x : Sense) : (s.setSense p x).dsc = s.dsc := rfl
@[simp] theorem setSense_dlc (p : Fin 32) (x : Sense) : (s.setSense p x).dlc = s.dlc := rfl
@[simp] theorem setSense_pra (p : Fin 32) (x : Sense) : (s.setSense p x).pra = s.pra := rfl
@[simp] theorem setSense_chg (p : Fin 32) (x : Sense) : (s.setSense p x).chg = s.chg := rfl
@[simp] theorem setSense_acm (p : Fin 32) (x : Sense) : (s.setSense p x).acm = s.acm := rfl
@[simp] theorem setSense_queue (p : Fin 32) (x : Sense) : (s.setSense p x).arl.queue = s.arl.queue := rfl
@[simp] theorem setSense_dropped (p : Fin 32) (x : Sense) : (s.setSense p x).arl.dropped = s.arl.dropped := rfl
@[simp] theorem setSense_mask (p : Fin 32) (x : Sense) : (s.setSense p x).arl.mask = s.arl.mask := rfl
@[simp] theorem setSense_printerBeacon (p : Fin 32) (x : Sense) : (s.setSense p x).arl.printerBeacon = s.arl.printerBeacon := rfl
@[simp] theorem setSense_portBeacon (p : Fin 32) (x : Sense) : (s.setSense p x).arl.portBeacon = s.arl.portBeacon := rfl
@[simp] theorem setSense_officeBeacon (p : Fin 32) (x : Sense) : (s.setSense p x).arl.officeBeacon = s.arl.officeBeacon := rfl
@[simp] theorem setSense_overrides (p : Fin 32) (x : Sense) : (s.setSense p x).arl.overrides = s.arl.overrides := rfl
@[simp] theorem setSense_sense (p : Fin 32) (x : Sense) : (s.setSense p x).arl.sense = put s.arl.sense p x := rfl
@[simp] theorem setSense_now (p : Fin 32) (x : Sense) : (s.setSense p x).now = s.now := rfl
@[simp] theorem setSense_senseLines (p : Fin 32) (x : Sense) : (s.setSense p x).senseLines = s.senseLines := rfl
@[simp] theorem setSense_choices (p : Fin 32) (x : Sense) : (s.setSense p x).choices = s.choices := rfl
@[simp] theorem setSense_pending (p : Fin 32) (x : Sense) : (s.setSense p x).pending = s.pending := rfl
@[simp] theorem job_setSense (p : Fin 32) (x : Sense) (i : Fin 128) : (s.setSense p x).job i = s.job i := rfl
@[simp] theorem disp_setSense (p : Fin 32) (x : Sense) (i : Fin 32) : (s.setSense p x).disp i = s.disp i := rfl
@[simp] theorem pool_setSense (p : Fin 32) (x : Sense) (i : Fin 16) : (s.setSense p x).pool i = s.pool i := rfl
@[simp] theorem printer_setSense (p : Fin 32) (x : Sense) (i : Fin 32) : (s.setSense p x).printer i = s.printer i := rfl
@[simp] theorem port_setSense (p : Fin 32) (x : Sense) (i : Fin 8) : (s.setSense p x).port i = s.port i := rfl
@[simp] theorem account_setSense (p : Fin 32) (x : Sense) (i : Fin 512) : (s.setSense p x).account i = s.account i := rfl
@[simp] theorem route_setSense (p : Fin 32) (x : Sense) (i : Fin 256) : (s.setSense p x).route i = s.route i := rfl
@[simp] theorem stream_setSense (p : Fin 32) (x : Sense) (i : Fin 15) : (s.setSense p x).stream i = s.stream i := rfl
@[simp] theorem sense_setSense (p : Fin 32) (x : Sense) (i : Fin 32) : (s.setSense p x).sense i = if i = p then x else s.sense i := put_get _ _ _ _
@[simp] theorem freeBlocks_setSense (p : Fin 32) (x : Sense) : (s.setSense p x).freeBlocks = s.freeBlocks := rfl
@[simp] theorem freeDescriptors_setSense (p : Fin 32) (x : Sense) : (s.setSense p x).freeDescriptors = s.freeDescriptors := rfl

/-! ### setMgu -/

@[simp] theorem setMgu_jli (m : Mgu) : (s.setMgu m).jli = s.jli := rfl
@[simp] theorem setMgu_mgu (m : Mgu) : (s.setMgu m).mgu = m := rfl
@[simp] theorem setMgu_rcl (m : Mgu) : (s.setMgu m).rcl = s.rcl := rfl
@[simp] theorem setMgu_spm (m : Mgu) : (s.setMgu m).spm = s.spm := rfl
@[simp] theorem setMgu_dsc (m : Mgu) : (s.setMgu m).dsc = s.dsc := rfl
@[simp] theorem setMgu_dlc (m : Mgu) : (s.setMgu m).dlc = s.dlc := rfl
@[simp] theorem setMgu_pra (m : Mgu) : (s.setMgu m).pra = s.pra := rfl
@[simp] theorem setMgu_chg (m : Mgu) : (s.setMgu m).chg = s.chg := rfl
@[simp] theorem setMgu_acm (m : Mgu) : (s.setMgu m).acm = s.acm := rfl
@[simp] theorem setMgu_arl (m : Mgu) : (s.setMgu m).arl = s.arl := rfl
@[simp] theorem setMgu_now (m : Mgu) : (s.setMgu m).now = s.now := rfl
@[simp] theorem setMgu_senseLines (m : Mgu) : (s.setMgu m).senseLines = s.senseLines := rfl
@[simp] theorem setMgu_choices (m : Mgu) : (s.setMgu m).choices = s.choices := rfl
@[simp] theorem setMgu_pending (m : Mgu) : (s.setMgu m).pending = s.pending := rfl
@[simp] theorem job_setMgu (m : Mgu) (i : Fin 128) : (s.setMgu m).job i = s.job i := rfl
@[simp] theorem disp_setMgu (m : Mgu) (i : Fin 32) : (s.setMgu m).disp i = s.disp i := rfl
@[simp] theorem pool_setMgu (m : Mgu) (i : Fin 16) : (s.setMgu m).pool i = s.pool i := rfl
@[simp] theorem printer_setMgu (m : Mgu) (i : Fin 32) : (s.setMgu m).printer i = s.printer i := rfl
@[simp] theorem port_setMgu (m : Mgu) (i : Fin 8) : (s.setMgu m).port i = s.port i := rfl
@[simp] theorem account_setMgu (m : Mgu) (i : Fin 512) : (s.setMgu m).account i = s.account i := rfl
@[simp] theorem route_setMgu (m : Mgu) (i : Fin 256) : (s.setMgu m).route i = s.route i := rfl
@[simp] theorem stream_setMgu (m : Mgu) (i : Fin 15) : (s.setMgu m).stream i = s.stream i := rfl
@[simp] theorem sense_setMgu (m : Mgu) (i : Fin 32) : (s.setMgu m).sense i = s.sense i := rfl
@[simp] theorem freeBlocks_setMgu (m : Mgu) : (s.setMgu m).freeBlocks = s.freeBlocks := rfl
@[simp] theorem freeDescriptors_setMgu (m : Mgu) : (s.setMgu m).freeDescriptors = s.freeDescriptors := rfl

/-! ### setTx -/

@[simp] theorem setTx_tx (l : List OutFrame) : (s.setTx l).jli.tx = l := rfl
@[simp] theorem setTx_linkErrors (l : List OutFrame) : (s.setTx l).jli.linkErrors = s.jli.linkErrors := rfl
@[simp] theorem setTx_strayFrames (l : List OutFrame) : (s.setTx l).jli.strayFrames = s.jli.strayFrames := rfl
@[simp] theorem setTx_restart (l : List OutFrame) : (s.setTx l).jli.restart = s.jli.restart := rfl
@[simp] theorem setTx_mgu (l : List OutFrame) : (s.setTx l).mgu = s.mgu := rfl
@[simp] theorem setTx_rcl (l : List OutFrame) : (s.setTx l).rcl = s.rcl := rfl
@[simp] theorem setTx_spm (l : List OutFrame) : (s.setTx l).spm = s.spm := rfl
@[simp] theorem setTx_dsc (l : List OutFrame) : (s.setTx l).dsc = s.dsc := rfl
@[simp] theorem setTx_dlc (l : List OutFrame) : (s.setTx l).dlc = s.dlc := rfl
@[simp] theorem setTx_pra (l : List OutFrame) : (s.setTx l).pra = s.pra := rfl
@[simp] theorem setTx_chg (l : List OutFrame) : (s.setTx l).chg = s.chg := rfl
@[simp] theorem setTx_acm (l : List OutFrame) : (s.setTx l).acm = s.acm := rfl
@[simp] theorem setTx_arl (l : List OutFrame) : (s.setTx l).arl = s.arl := rfl
@[simp] theorem setTx_now (l : List OutFrame) : (s.setTx l).now = s.now := rfl
@[simp] theorem setTx_senseLines (l : List OutFrame) : (s.setTx l).senseLines = s.senseLines := rfl
@[simp] theorem setTx_choices (l : List OutFrame) : (s.setTx l).choices = s.choices := rfl
@[simp] theorem setTx_pending (l : List OutFrame) : (s.setTx l).pending = s.pending := rfl
@[simp] theorem job_setTx (l : List OutFrame) (i : Fin 128) : (s.setTx l).job i = s.job i := rfl
@[simp] theorem disp_setTx (l : List OutFrame) (i : Fin 32) : (s.setTx l).disp i = s.disp i := rfl
@[simp] theorem pool_setTx (l : List OutFrame) (i : Fin 16) : (s.setTx l).pool i = s.pool i := rfl
@[simp] theorem printer_setTx (l : List OutFrame) (i : Fin 32) : (s.setTx l).printer i = s.printer i := rfl
@[simp] theorem port_setTx (l : List OutFrame) (i : Fin 8) : (s.setTx l).port i = s.port i := rfl
@[simp] theorem account_setTx (l : List OutFrame) (i : Fin 512) : (s.setTx l).account i = s.account i := rfl
@[simp] theorem route_setTx (l : List OutFrame) (i : Fin 256) : (s.setTx l).route i = s.route i := rfl
@[simp] theorem stream_setTx (l : List OutFrame) (i : Fin 15) : (s.setTx l).stream i = s.stream i := rfl
@[simp] theorem sense_setTx (l : List OutFrame) (i : Fin 32) : (s.setTx l).sense i = s.sense i := rfl
@[simp] theorem freeBlocks_setTx (l : List OutFrame) : (s.setTx l).freeBlocks = s.freeBlocks := rfl
@[simp] theorem freeDescriptors_setTx (l : List OutFrame) : (s.setTx l).freeDescriptors = s.freeDescriptors := rfl

/-! ### setRestart -/

@[simp] theorem setRestart_tx (r : Option Nat) : (s.setRestart r).jli.tx = s.jli.tx := rfl
@[simp] theorem setRestart_linkErrors (r : Option Nat) : (s.setRestart r).jli.linkErrors = s.jli.linkErrors := rfl
@[simp] theorem setRestart_strayFrames (r : Option Nat) : (s.setRestart r).jli.strayFrames = s.jli.strayFrames := rfl
@[simp] theorem setRestart_restart (r : Option Nat) : (s.setRestart r).jli.restart = r := rfl
@[simp] theorem setRestart_mgu (r : Option Nat) : (s.setRestart r).mgu = s.mgu := rfl
@[simp] theorem setRestart_rcl (r : Option Nat) : (s.setRestart r).rcl = s.rcl := rfl
@[simp] theorem setRestart_spm (r : Option Nat) : (s.setRestart r).spm = s.spm := rfl
@[simp] theorem setRestart_dsc (r : Option Nat) : (s.setRestart r).dsc = s.dsc := rfl
@[simp] theorem setRestart_dlc (r : Option Nat) : (s.setRestart r).dlc = s.dlc := rfl
@[simp] theorem setRestart_pra (r : Option Nat) : (s.setRestart r).pra = s.pra := rfl
@[simp] theorem setRestart_chg (r : Option Nat) : (s.setRestart r).chg = s.chg := rfl
@[simp] theorem setRestart_acm (r : Option Nat) : (s.setRestart r).acm = s.acm := rfl
@[simp] theorem setRestart_arl (r : Option Nat) : (s.setRestart r).arl = s.arl := rfl
@[simp] theorem setRestart_now (r : Option Nat) : (s.setRestart r).now = s.now := rfl
@[simp] theorem setRestart_senseLines (r : Option Nat) : (s.setRestart r).senseLines = s.senseLines := rfl
@[simp] theorem setRestart_choices (r : Option Nat) : (s.setRestart r).choices = s.choices := rfl
@[simp] theorem setRestart_pending (r : Option Nat) : (s.setRestart r).pending = s.pending := rfl
@[simp] theorem job_setRestart (r : Option Nat) (i : Fin 128) : (s.setRestart r).job i = s.job i := rfl
@[simp] theorem disp_setRestart (r : Option Nat) (i : Fin 32) : (s.setRestart r).disp i = s.disp i := rfl
@[simp] theorem pool_setRestart (r : Option Nat) (i : Fin 16) : (s.setRestart r).pool i = s.pool i := rfl
@[simp] theorem printer_setRestart (r : Option Nat) (i : Fin 32) : (s.setRestart r).printer i = s.printer i := rfl
@[simp] theorem port_setRestart (r : Option Nat) (i : Fin 8) : (s.setRestart r).port i = s.port i := rfl
@[simp] theorem account_setRestart (r : Option Nat) (i : Fin 512) : (s.setRestart r).account i = s.account i := rfl
@[simp] theorem route_setRestart (r : Option Nat) (i : Fin 256) : (s.setRestart r).route i = s.route i := rfl
@[simp] theorem stream_setRestart (r : Option Nat) (i : Fin 15) : (s.setRestart r).stream i = s.stream i := rfl
@[simp] theorem sense_setRestart (r : Option Nat) (i : Fin 32) : (s.setRestart r).sense i = s.sense i := rfl
@[simp] theorem freeBlocks_setRestart (r : Option Nat) : (s.setRestart r).freeBlocks = s.freeBlocks := rfl
@[simp] theorem freeDescriptors_setRestart (r : Option Nat) : (s.setRestart r).freeDescriptors = s.freeDescriptors := rfl

/-! ### countLinkError -/

@[simp] theorem countLinkError_tx : (s.countLinkError).jli.tx = s.jli.tx := rfl
@[simp] theorem countLinkError_linkErrors : (s.countLinkError).jli.linkErrors = satAdd Config.max16 s.jli.linkErrors 1 := rfl
@[simp] theorem countLinkError_strayFrames : (s.countLinkError).jli.strayFrames = s.jli.strayFrames := rfl
@[simp] theorem countLinkError_restart : (s.countLinkError).jli.restart = s.jli.restart := rfl
@[simp] theorem countLinkError_mgu : (s.countLinkError).mgu = s.mgu := rfl
@[simp] theorem countLinkError_rcl : (s.countLinkError).rcl = s.rcl := rfl
@[simp] theorem countLinkError_spm : (s.countLinkError).spm = s.spm := rfl
@[simp] theorem countLinkError_dsc : (s.countLinkError).dsc = s.dsc := rfl
@[simp] theorem countLinkError_dlc : (s.countLinkError).dlc = s.dlc := rfl
@[simp] theorem countLinkError_pra : (s.countLinkError).pra = s.pra := rfl
@[simp] theorem countLinkError_chg : (s.countLinkError).chg = s.chg := rfl
@[simp] theorem countLinkError_acm : (s.countLinkError).acm = s.acm := rfl
@[simp] theorem countLinkError_arl : (s.countLinkError).arl = s.arl := rfl
@[simp] theorem countLinkError_now : (s.countLinkError).now = s.now := rfl
@[simp] theorem countLinkError_senseLines : (s.countLinkError).senseLines = s.senseLines := rfl
@[simp] theorem countLinkError_choices : (s.countLinkError).choices = s.choices := rfl
@[simp] theorem countLinkError_pending : (s.countLinkError).pending = s.pending := rfl
@[simp] theorem job_countLinkError (i : Fin 128) : (s.countLinkError).job i = s.job i := rfl
@[simp] theorem disp_countLinkError (i : Fin 32) : (s.countLinkError).disp i = s.disp i := rfl
@[simp] theorem pool_countLinkError (i : Fin 16) : (s.countLinkError).pool i = s.pool i := rfl
@[simp] theorem printer_countLinkError (i : Fin 32) : (s.countLinkError).printer i = s.printer i := rfl
@[simp] theorem port_countLinkError (i : Fin 8) : (s.countLinkError).port i = s.port i := rfl
@[simp] theorem account_countLinkError (i : Fin 512) : (s.countLinkError).account i = s.account i := rfl
@[simp] theorem route_countLinkError (i : Fin 256) : (s.countLinkError).route i = s.route i := rfl
@[simp] theorem stream_countLinkError (i : Fin 15) : (s.countLinkError).stream i = s.stream i := rfl
@[simp] theorem sense_countLinkError (i : Fin 32) : (s.countLinkError).sense i = s.sense i := rfl
@[simp] theorem freeBlocks_countLinkError : (s.countLinkError).freeBlocks = s.freeBlocks := rfl
@[simp] theorem freeDescriptors_countLinkError : (s.countLinkError).freeDescriptors = s.freeDescriptors := rfl

/-! ### countStray -/

@[simp] theorem countStray_tx : (s.countStray).jli.tx = s.jli.tx := rfl
@[simp] theorem countStray_linkErrors : (s.countStray).jli.linkErrors = s.jli.linkErrors := rfl
@[simp] theorem countStray_strayFrames : (s.countStray).jli.strayFrames = satAdd Config.max16 s.jli.strayFrames 1 := rfl
@[simp] theorem countStray_restart : (s.countStray).jli.restart = s.jli.restart := rfl
@[simp] theorem countStray_mgu : (s.countStray).mgu = s.mgu := rfl
@[simp] theorem countStray_rcl : (s.countStray).rcl = s.rcl := rfl
@[simp] theorem countStray_spm : (s.countStray).spm = s.spm := rfl
@[simp] theorem countStray_dsc : (s.countStray).dsc = s.dsc := rfl
@[simp] theorem countStray_dlc : (s.countStray).dlc = s.dlc := rfl
@[simp] theorem countStray_pra : (s.countStray).pra = s.pra := rfl
@[simp] theorem countStray_chg : (s.countStray).chg = s.chg := rfl
@[simp] theorem countStray_acm : (s.countStray).acm = s.acm := rfl
@[simp] theorem countStray_arl : (s.countStray).arl = s.arl := rfl
@[simp] theorem countStray_now : (s.countStray).now = s.now := rfl
@[simp] theorem countStray_senseLines : (s.countStray).senseLines = s.senseLines := rfl
@[simp] theorem countStray_choices : (s.countStray).choices = s.choices := rfl
@[simp] theorem countStray_pending : (s.countStray).pending = s.pending := rfl
@[simp] theorem job_countStray (i : Fin 128) : (s.countStray).job i = s.job i := rfl
@[simp] theorem disp_countStray (i : Fin 32) : (s.countStray).disp i = s.disp i := rfl
@[simp] theorem pool_countStray (i : Fin 16) : (s.countStray).pool i = s.pool i := rfl
@[simp] theorem printer_countStray (i : Fin 32) : (s.countStray).printer i = s.printer i := rfl
@[simp] theorem port_countStray (i : Fin 8) : (s.countStray).port i = s.port i := rfl
@[simp] theorem account_countStray (i : Fin 512) : (s.countStray).account i = s.account i := rfl
@[simp] theorem route_countStray (i : Fin 256) : (s.countStray).route i = s.route i := rfl
@[simp] theorem stream_countStray (i : Fin 15) : (s.countStray).stream i = s.stream i := rfl
@[simp] theorem sense_countStray (i : Fin 32) : (s.countStray).sense i = s.sense i := rfl
@[simp] theorem freeBlocks_countStray : (s.countStray).freeBlocks = s.freeBlocks := rfl
@[simp] theorem freeDescriptors_countStray : (s.countStray).freeDescriptors = s.freeDescriptors := rfl

/-! ### setNow -/

@[simp] theorem setNow_jli (t : Time) : (s.setNow t).jli = s.jli := rfl
@[simp] theorem setNow_mgu (t : Time) : (s.setNow t).mgu = s.mgu := rfl
@[simp] theorem setNow_rcl (t : Time) : (s.setNow t).rcl = s.rcl := rfl
@[simp] theorem setNow_spm (t : Time) : (s.setNow t).spm = s.spm := rfl
@[simp] theorem setNow_dsc (t : Time) : (s.setNow t).dsc = s.dsc := rfl
@[simp] theorem setNow_dlc (t : Time) : (s.setNow t).dlc = s.dlc := rfl
@[simp] theorem setNow_pra (t : Time) : (s.setNow t).pra = s.pra := rfl
@[simp] theorem setNow_chg (t : Time) : (s.setNow t).chg = s.chg := rfl
@[simp] theorem setNow_acm (t : Time) : (s.setNow t).acm = s.acm := rfl
@[simp] theorem setNow_arl (t : Time) : (s.setNow t).arl = s.arl := rfl
@[simp] theorem setNow_now (t : Time) : (s.setNow t).now = t := rfl
@[simp] theorem setNow_senseLines (t : Time) : (s.setNow t).senseLines = s.senseLines := rfl
@[simp] theorem setNow_choices (t : Time) : (s.setNow t).choices = s.choices := rfl
@[simp] theorem setNow_pending (t : Time) : (s.setNow t).pending = s.pending := rfl
@[simp] theorem job_setNow (t : Time) (i : Fin 128) : (s.setNow t).job i = s.job i := rfl
@[simp] theorem disp_setNow (t : Time) (i : Fin 32) : (s.setNow t).disp i = s.disp i := rfl
@[simp] theorem pool_setNow (t : Time) (i : Fin 16) : (s.setNow t).pool i = s.pool i := rfl
@[simp] theorem printer_setNow (t : Time) (i : Fin 32) : (s.setNow t).printer i = s.printer i := rfl
@[simp] theorem port_setNow (t : Time) (i : Fin 8) : (s.setNow t).port i = s.port i := rfl
@[simp] theorem account_setNow (t : Time) (i : Fin 512) : (s.setNow t).account i = s.account i := rfl
@[simp] theorem route_setNow (t : Time) (i : Fin 256) : (s.setNow t).route i = s.route i := rfl
@[simp] theorem stream_setNow (t : Time) (i : Fin 15) : (s.setNow t).stream i = s.stream i := rfl
@[simp] theorem sense_setNow (t : Time) (i : Fin 32) : (s.setNow t).sense i = s.sense i := rfl
@[simp] theorem freeBlocks_setNow (t : Time) : (s.setNow t).freeBlocks = s.freeBlocks := rfl
@[simp] theorem freeDescriptors_setNow (t : Time) : (s.setNow t).freeDescriptors = s.freeDescriptors := rfl

/-! ### setSenseLines -/

@[simp] theorem setSenseLines_jli (l : BitVec 32) : (s.setSenseLines l).jli = s.jli := rfl
@[simp] theorem setSenseLines_mgu (l : BitVec 32) : (s.setSenseLines l).mgu = s.mgu := rfl
@[simp] theorem setSenseLines_rcl (l : BitVec 32) : (s.setSenseLines l).rcl = s.rcl := rfl
@[simp] theorem setSenseLines_spm (l : BitVec 32) : (s.setSenseLines l).spm = s.spm := rfl
@[simp] theorem setSenseLines_dsc (l : BitVec 32) : (s.setSenseLines l).dsc = s.dsc := rfl
@[simp] theorem setSenseLines_dlc (l : BitVec 32) : (s.setSenseLines l).dlc = s.dlc := rfl
@[simp] theorem setSenseLines_pra (l : BitVec 32) : (s.setSenseLines l).pra = s.pra := rfl
@[simp] theorem setSenseLines_chg (l : BitVec 32) : (s.setSenseLines l).chg = s.chg := rfl
@[simp] theorem setSenseLines_acm (l : BitVec 32) : (s.setSenseLines l).acm = s.acm := rfl
@[simp] theorem setSenseLines_arl (l : BitVec 32) : (s.setSenseLines l).arl = s.arl := rfl
@[simp] theorem setSenseLines_now (l : BitVec 32) : (s.setSenseLines l).now = s.now := rfl
@[simp] theorem setSenseLines_senseLines (l : BitVec 32) : (s.setSenseLines l).senseLines = l := rfl
@[simp] theorem setSenseLines_choices (l : BitVec 32) : (s.setSenseLines l).choices = s.choices := rfl
@[simp] theorem setSenseLines_pending (l : BitVec 32) : (s.setSenseLines l).pending = s.pending := rfl
@[simp] theorem job_setSenseLines (l : BitVec 32) (i : Fin 128) : (s.setSenseLines l).job i = s.job i := rfl
@[simp] theorem disp_setSenseLines (l : BitVec 32) (i : Fin 32) : (s.setSenseLines l).disp i = s.disp i := rfl
@[simp] theorem pool_setSenseLines (l : BitVec 32) (i : Fin 16) : (s.setSenseLines l).pool i = s.pool i := rfl
@[simp] theorem printer_setSenseLines (l : BitVec 32) (i : Fin 32) : (s.setSenseLines l).printer i = s.printer i := rfl
@[simp] theorem port_setSenseLines (l : BitVec 32) (i : Fin 8) : (s.setSenseLines l).port i = s.port i := rfl
@[simp] theorem account_setSenseLines (l : BitVec 32) (i : Fin 512) : (s.setSenseLines l).account i = s.account i := rfl
@[simp] theorem route_setSenseLines (l : BitVec 32) (i : Fin 256) : (s.setSenseLines l).route i = s.route i := rfl
@[simp] theorem stream_setSenseLines (l : BitVec 32) (i : Fin 15) : (s.setSenseLines l).stream i = s.stream i := rfl
@[simp] theorem sense_setSenseLines (l : BitVec 32) (i : Fin 32) : (s.setSenseLines l).sense i = s.sense i := rfl
@[simp] theorem freeBlocks_setSenseLines (l : BitVec 32) : (s.setSenseLines l).freeBlocks = s.freeBlocks := rfl
@[simp] theorem freeDescriptors_setSenseLines (l : BitVec 32) : (s.setSenseLines l).freeDescriptors = s.freeDescriptors := rfl

/-! ### countChoice -/

@[simp] theorem countChoice_jli : (s.countChoice).jli = s.jli := rfl
@[simp] theorem countChoice_mgu : (s.countChoice).mgu = s.mgu := rfl
@[simp] theorem countChoice_rcl : (s.countChoice).rcl = s.rcl := rfl
@[simp] theorem countChoice_spm : (s.countChoice).spm = s.spm := rfl
@[simp] theorem countChoice_dsc : (s.countChoice).dsc = s.dsc := rfl
@[simp] theorem countChoice_dlc : (s.countChoice).dlc = s.dlc := rfl
@[simp] theorem countChoice_pra : (s.countChoice).pra = s.pra := rfl
@[simp] theorem countChoice_chg : (s.countChoice).chg = s.chg := rfl
@[simp] theorem countChoice_acm : (s.countChoice).acm = s.acm := rfl
@[simp] theorem countChoice_arl : (s.countChoice).arl = s.arl := rfl
@[simp] theorem countChoice_now : (s.countChoice).now = s.now := rfl
@[simp] theorem countChoice_senseLines : (s.countChoice).senseLines = s.senseLines := rfl
@[simp] theorem countChoice_choices : (s.countChoice).choices = s.choices + 1 := rfl
@[simp] theorem countChoice_pending : (s.countChoice).pending = s.pending := rfl
@[simp] theorem job_countChoice (i : Fin 128) : (s.countChoice).job i = s.job i := rfl
@[simp] theorem disp_countChoice (i : Fin 32) : (s.countChoice).disp i = s.disp i := rfl
@[simp] theorem pool_countChoice (i : Fin 16) : (s.countChoice).pool i = s.pool i := rfl
@[simp] theorem printer_countChoice (i : Fin 32) : (s.countChoice).printer i = s.printer i := rfl
@[simp] theorem port_countChoice (i : Fin 8) : (s.countChoice).port i = s.port i := rfl
@[simp] theorem account_countChoice (i : Fin 512) : (s.countChoice).account i = s.account i := rfl
@[simp] theorem route_countChoice (i : Fin 256) : (s.countChoice).route i = s.route i := rfl
@[simp] theorem stream_countChoice (i : Fin 15) : (s.countChoice).stream i = s.stream i := rfl
@[simp] theorem sense_countChoice (i : Fin 32) : (s.countChoice).sense i = s.sense i := rfl
@[simp] theorem freeBlocks_countChoice : (s.countChoice).freeBlocks = s.freeBlocks := rfl
@[simp] theorem freeDescriptors_countChoice : (s.countChoice).freeDescriptors = s.freeDescriptors := rfl

/-! ### setPending -/

@[simp] theorem setPending_jli (l : List Instr) : (s.setPending l).jli = s.jli := rfl
@[simp] theorem setPending_mgu (l : List Instr) : (s.setPending l).mgu = s.mgu := rfl
@[simp] theorem setPending_rcl (l : List Instr) : (s.setPending l).rcl = s.rcl := rfl
@[simp] theorem setPending_spm (l : List Instr) : (s.setPending l).spm = s.spm := rfl
@[simp] theorem setPending_dsc (l : List Instr) : (s.setPending l).dsc = s.dsc := rfl
@[simp] theorem setPending_dlc (l : List Instr) : (s.setPending l).dlc = s.dlc := rfl
@[simp] theorem setPending_pra (l : List Instr) : (s.setPending l).pra = s.pra := rfl
@[simp] theorem setPending_chg (l : List Instr) : (s.setPending l).chg = s.chg := rfl
@[simp] theorem setPending_acm (l : List Instr) : (s.setPending l).acm = s.acm := rfl
@[simp] theorem setPending_arl (l : List Instr) : (s.setPending l).arl = s.arl := rfl
@[simp] theorem setPending_now (l : List Instr) : (s.setPending l).now = s.now := rfl
@[simp] theorem setPending_senseLines (l : List Instr) : (s.setPending l).senseLines = s.senseLines := rfl
@[simp] theorem setPending_choices (l : List Instr) : (s.setPending l).choices = s.choices := rfl
@[simp] theorem setPending_pending (l : List Instr) : (s.setPending l).pending = l := rfl
@[simp] theorem job_setPending (l : List Instr) (i : Fin 128) : (s.setPending l).job i = s.job i := rfl
@[simp] theorem disp_setPending (l : List Instr) (i : Fin 32) : (s.setPending l).disp i = s.disp i := rfl
@[simp] theorem pool_setPending (l : List Instr) (i : Fin 16) : (s.setPending l).pool i = s.pool i := rfl
@[simp] theorem printer_setPending (l : List Instr) (i : Fin 32) : (s.setPending l).printer i = s.printer i := rfl
@[simp] theorem port_setPending (l : List Instr) (i : Fin 8) : (s.setPending l).port i = s.port i := rfl
@[simp] theorem account_setPending (l : List Instr) (i : Fin 512) : (s.setPending l).account i = s.account i := rfl
@[simp] theorem route_setPending (l : List Instr) (i : Fin 256) : (s.setPending l).route i = s.route i := rfl
@[simp] theorem stream_setPending (l : List Instr) (i : Fin 15) : (s.setPending l).stream i = s.stream i := rfl
@[simp] theorem sense_setPending (l : List Instr) (i : Fin 32) : (s.setPending l).sense i = s.sense i := rfl
@[simp] theorem freeBlocks_setPending (l : List Instr) : (s.setPending l).freeBlocks = s.freeBlocks := rfl
@[simp] theorem freeDescriptors_setPending (l : List Instr) : (s.setPending l).freeDescriptors = s.freeDescriptors := rfl

/-! ### modJob and each -/

theorem modJob_some {j : Fin 128} {x : Job} (h : s.job j = some x) (f : Job → Job) :
    s.modJob j f = s.setJob j (some (f x)) := by simp [modJob, h]

theorem modJob_none {j : Fin 128} (h : s.job j = none) (f : Job → Job) : s.modJob j f = s := by simp [modJob, h]

@[simp] theorem job_modJob (j i : Fin 128) (f : Job → Job) :
    (s.modJob j f).job i = if i = j then (s.job j).map f else s.job i := by
  cases h : s.job j with
  | some x => rw [modJob_some s h, job_setJob]; rfl
  | none =>
    rw [modJob_none s h]
    split
    · next e => rw [e, h]; rfl
    · rfl

@[simp] theorem modJob_jli (j : Fin 128) (f : Job → Job) : (s.modJob j f).jli = s.jli := by unfold modJob; split <;> rfl
@[simp] theorem modJob_mgu (j : Fin 128) (f : Job → Job) : (s.modJob j f).mgu = s.mgu := by unfold modJob; split <;> rfl
@[simp] theorem modJob_rcl (j : Fin 128) (f : Job → Job) : (s.modJob j f).rcl = s.rcl := by unfold modJob; split <;> rfl
@[simp] theorem modJob_streams (j : Fin 128) (f : Job → Job) : (s.modJob j f).spm.streams = s.spm.streams := by unfold modJob; split <;> rfl
@[simp] theorem modJob_descs (j : Fin 128) (f : Job → Job) : (s.modJob j f).spm.descs = s.spm.descs := by unfold modJob; split <;> rfl
@[simp] theorem modJob_freeList (j : Fin 128) (f : Job → Job) : (s.modJob j f).spm.freeList = s.spm.freeList := by unfold modJob; split <;> rfl
@[simp] theorem modJob_paused (j : Fin 128) (f : Job → Job) : (s.modJob j f).spm.paused = s.spm.paused := by unfold modJob; split <;> rfl
@[simp] theorem modJob_dram (j : Fin 128) (f : Job → Job) : (s.modJob j f).spm.dram = s.spm.dram := by unfold modJob; split <;> rfl
@[simp] theorem modJob_dsc (j : Fin 128) (f : Job → Job) : (s.modJob j f).dsc = s.dsc := by unfold modJob; split <;> rfl
@[simp] theorem modJob_dlc (j : Fin 128) (f : Job → Job) : (s.modJob j f).dlc = s.dlc := by unfold modJob; split <;> rfl
@[simp] theorem modJob_pra (j : Fin 128) (f : Job → Job) : (s.modJob j f).pra = s.pra := by unfold modJob; split <;> rfl
@[simp] theorem modJob_chg (j : Fin 128) (f : Job → Job) : (s.modJob j f).chg = s.chg := by unfold modJob; split <;> rfl
@[simp] theorem modJob_acm (j : Fin 128) (f : Job → Job) : (s.modJob j f).acm = s.acm := by unfold modJob; split <;> rfl
@[simp] theorem modJob_arl (j : Fin 128) (f : Job → Job) : (s.modJob j f).arl = s.arl := by unfold modJob; split <;> rfl
@[simp] theorem modJob_now (j : Fin 128) (f : Job → Job) : (s.modJob j f).now = s.now := by unfold modJob; split <;> rfl
@[simp] theorem modJob_senseLines (j : Fin 128) (f : Job → Job) : (s.modJob j f).senseLines = s.senseLines := by unfold modJob; split <;> rfl
@[simp] theorem modJob_choices (j : Fin 128) (f : Job → Job) : (s.modJob j f).choices = s.choices := by unfold modJob; split <;> rfl
@[simp] theorem modJob_pending (j : Fin 128) (f : Job → Job) : (s.modJob j f).pending = s.pending := by unfold modJob; split <;> rfl
@[simp] theorem disp_modJob (j : Fin 128) (f : Job → Job) (i : Fin 32) : (s.modJob j f).disp i = s.disp i := by unfold modJob; split <;> rfl
@[simp] theorem pool_modJob (j : Fin 128) (f : Job → Job) (i : Fin 16) : (s.modJob j f).pool i = s.pool i := by unfold modJob; split <;> rfl
@[simp] theorem printer_modJob (j : Fin 128) (f : Job → Job) (i : Fin 32) : (s.modJob j f).printer i = s.printer i := by unfold modJob; split <;> rfl
@[simp] theorem port_modJob (j : Fin 128) (f : Job → Job) (i : Fin 8) : (s.modJob j f).port i = s.port i := by unfold modJob; split <;> rfl
@[simp] theorem account_modJob (j : Fin 128) (f : Job → Job) (i : Fin 512) : (s.modJob j f).account i = s.account i := by unfold modJob; split <;> rfl
@[simp] theorem route_modJob (j : Fin 128) (f : Job → Job) (i : Fin 256) : (s.modJob j f).route i = s.route i := by unfold modJob; split <;> rfl
@[simp] theorem stream_modJob (j : Fin 128) (f : Job → Job) (i : Fin 15) : (s.modJob j f).stream i = s.stream i := by unfold modJob; split <;> rfl
@[simp] theorem sense_modJob (j : Fin 128) (f : Job → Job) (i : Fin 32) : (s.modJob j f).sense i = s.sense i := by unfold modJob; split <;> rfl
@[simp] theorem freeBlocks_modJob (j : Fin 128) (f : Job → Job) : (s.modJob j f).freeBlocks = s.freeBlocks := by unfold modJob; split <;> rfl
@[simp] theorem freeDescriptors_modJob (j : Fin 128) (f : Job → Job) : (s.modJob j f).freeDescriptors = s.freeDescriptors := by unfold modJob; split <;> rfl

@[simp] theorem each_nil {α : Type} (f : State → α → State) : s.each [] f = s := rfl

@[simp] theorem each_cons {α : Type} (x : α) (l : List α) (f : State → α → State) :
    s.each (x :: l) f = (f s x).each l f := rfl

/-- What every step of a loop keeps, the loop keeps. -/
theorem each_kept {α : Type} {P : State → Prop} {f : State → α → State} (hf : ∀ t x, P t → P (f t x)) :
    ∀ (l : List α) {s : State}, P s → P (s.each l f)
  | [], _, h => h
  | x :: l, _, h => each_kept hf l (hf _ x h)

/-- What every step of a loop keeps for the elements it meets, the loop keeps. -/
theorem each_kept_mem {α : Type} {P : State → Prop} {f : State → α → State} :
    ∀ (l : List α) (_ : ∀ t x, x ∈ l → P t → P (f t x)) {s : State}, P s → P (s.each l f)
  | [], _, _, h => h
  | x :: l, hf, _, h =>
    each_kept_mem l (fun t y hy ht => hf t y (List.mem_cons_of_mem _ hy) ht) (hf _ x (List.mem_cons_self ..) h)

/-! Of two writes of one entry the later one stands. -/

@[simp] theorem setJob_setJob (s : State) (j : Fin 128) (o o' : Option Job) : (s.setJob j o).setJob j o' = s.setJob j o' := by
  simp [setJob]

@[simp] theorem setDisp_setDisp (s : State) (p : Fin 32) (x y : Dispatch) : (s.setDisp p x).setDisp p y = s.setDisp p y := by
  simp [setDisp]

@[simp] theorem setPool_setPool (s : State) (k : Fin 16) (x y : Pool) : (s.setPool k x).setPool k y = s.setPool k y := by
  simp [setPool]

@[simp] theorem setPort_setPort (s : State) (q : Fin 8) (x y : Port) : (s.setPort q x).setPort q y = s.setPort q y := by
  simp [setPort]

@[simp] theorem setPrinter_setPrinter (s : State) (p : Fin 32) (x y : Printer) :
    (s.setPrinter p x).setPrinter p y = s.setPrinter p y := by
  simp [setPrinter]

@[simp] theorem setAccount_setAccount (s : State) (a : Fin 512) (x y : Account) :
    (s.setAccount a x).setAccount a y = s.setAccount a y := by
  simp [setAccount]

@[simp] theorem setSense_setSense (s : State) (p : Fin 32) (x y : Sense) : (s.setSense p x).setSense p y = s.setSense p y := by
  simp [setSense]

/-- A state is the record of its fields. -/
theorem ext_fields {s t : State} (h1 : s.jli = t.jli) (h2 : s.mgu = t.mgu) (h3 : s.rcl = t.rcl) (h4 : s.spm = t.spm)
    (h5 : s.dsc = t.dsc) (h6 : s.dlc = t.dlc) (h7 : s.pra = t.pra) (h8 : s.chg = t.chg) (h9 : s.acm = t.acm)
    (h10 : s.arl = t.arl) (h11 : s.now = t.now) (h12 : s.senseLines = t.senseLines) (h13 : s.choices = t.choices)
    (h14 : s.pending = t.pending) : s = t := by
  cases s; cases t; simp_all

end State

/-- The law of `countUp`. -/
theorem countUp_eq {α : Type} (l : List α) : ∀ n, countUp l n = n + l.length := by
  induction l with
  | nil => intro n; cases n <;> rfl
  | cons a l ih =>
    intro n
    cases n with
    | zero => rw [countUp, ih, List.length_cons]; omega
    | succ n => rw [countUp, ih, List.length_cons]; omega

/-- The free-block count is the length of the free list (R7). -/
theorem State.freeBlocks_eq (s : State) : s.freeBlocks = s.spm.freeList.length := by
  rw [State.freeBlocks, countUp_eq, Nat.zero_add]

/-- A counter that saturates stays in its range. -/
theorem satAdd_le (limit a b : Nat) : satAdd limit a b ≤ limit := by unfold satAdd; omega

end Sys2Proof.Machine
end

