-- ==== Sys2Proof/Laws/Alerts.lean ====
section
/-!
SUPPORT. The laws of the alert queue and of the transmit list: what a raise, a clear, an acknowledgment and a write of the mask
change, and that they keep `AlertsOk` and `LinkOk`.
-/

namespace Sys2Proof.Machine

/-! ### What alerts change -/

/-- The two states differ only in the alert queue, the alerts-dropped count and the transmit list. -/
def AlertOnly (s t : State) : Prop :=
  t = { s with
    arl := { s.arl with queue := t.arl.queue, dropped := t.arl.dropped }
    jli := { s.jli with tx := t.jli.tx } }

theorem AlertOnly.refl (s : State) : AlertOnly s s := rfl

theorem AlertOnly.trans {s t u : State} (h : AlertOnly s t) (k : AlertOnly t u) : AlertOnly s u := by
  unfold AlertOnly at *; rw [k, h]

theorem alertOnly_handAlert (s : State) (b : Bool) (e : AlertEntry) : AlertOnly s (s.handAlert b e) := by
  unfold State.handAlert; split <;> rfl

theorem alertOnly_announce (s : State) (e : AlertEntry) : AlertOnly s (s.announce e) := by
  unfold State.announce
  split
  · exact alertOnly_handAlert s _ e
  · rfl

theorem alertOnly_setAlerts (s : State) (l : List AlertEntry) : AlertOnly s (s.setAlerts l) := rfl

theorem alertOnly_createAlert (s : State) (e : AlertEntry) : AlertOnly s (s.createAlert e) :=
  (alertOnly_setAlerts s _).trans (alertOnly_announce _ e)

theorem alertOnly_addAlert (s : State) (e : AlertEntry) : AlertOnly s (s.addAlert e) := by
  unfold State.addAlert
  split
  · exact alertOnly_createAlert s e
  split
  · exact AlertOnly.trans (t := (s.setAlerts (evict s.arl.queue)).countDropped) rfl (alertOnly_createAlert _ e)
  · rfl

/-- R153: a raise. -/
theorem alertOnly_raiseAt (s : State) (k : AlertKey) (c : Bool) (t : Time) : AlertOnly s (s.raiseAt k c t) := by
  unfold State.raiseAt
  split
  · exact alertOnly_addAlert s _
  · split
    · exact (alertOnly_setAlerts s _).trans (alertOnly_announce _ _)
    · rfl

/-- R154: a clear. -/
theorem alertOnly_clear (s : State) (k : AlertKey) : AlertOnly s (s.clear k) := by
  unfold State.clear
  split
  · rfl
  next e _ =>
  split
  · have h1 : AlertOnly s (if enabledIn s.arl.mask k.cls then s.handAlert false { e with active := false } else s) := by
      split
      · exact alertOnly_handAlert s _ _
      · rfl
    dsimp only
    by_cases ha : e.acked
    · rw [if_pos ha]; exact h1.trans rfl
    · rw [if_neg ha]; exact h1.trans rfl
  · rfl

/-- R155: an acknowledgment. -/
theorem alertOnly_acknowledge (s : State) (k : AlertKey) (e : AlertEntry) : AlertOnly s (s.acknowledge k e) := by
  unfold State.acknowledge; split <;> rfl

theorem alertOnly_announcePending (s : State) (e : AlertEntry) : AlertOnly s (s.announcePending e) := by
  unfold State.announcePending
  split
  · rfl
  · exact (alertOnly_setAlerts s _).trans (alertOnly_handAlert _ _ e)

/-- R156: a write of the relay mask changes the mask, and what alerts change. -/
theorem alertOnly_writeMask (s : State) (m : BitVec 12) : AlertOnly (s.setMask m) (s.writeMask m) :=
  State.each_kept (P := AlertOnly (s.setMask m)) (fun t e h => h.trans (alertOnly_announcePending t e)) _ rfl

/-- R167: a frame handed to the JLI changes the transmit list or the link-error count. -/
theorem hand_only (s : State) (f : OutFrame) :
    s.hand f = { s with jli := { s.jli with tx := (s.hand f).jli.tx, linkErrors := (s.hand f).jli.linkErrors } } := by
  unfold State.hand; split <;> rfl

/-! ### The alert queue keeps its form -/

/-- The form of a queue of alerts, without the count beside it. -/
structure QueueOk (l : List AlertEntry) : Prop where
  fits : l.length ≤ Config.alertEntries
  keys : (l.map AlertEntry.key).Nodup
  settled : ∀ e ∈ l, e.acked = true → e.active = true
  counted : ∀ e ∈ l, 1 ≤ e.count ∧ e.count ≤ 255

theorem AlertsOk.of_queue {a : Arl} (h : QueueOk a.queue) (d : a.dropped ≤ Config.max16) : AlertsOk a :=
  ⟨h.fits, h.keys, h.settled, h.counted, d⟩

theorem AlertsOk.queueOk {a : Arl} (h : AlertsOk a) : QueueOk a.queue := ⟨h.fits, h.keys, h.settled, h.counted⟩

theorem QueueOk.sublist {l m : List AlertEntry} (h : QueueOk l) (k : m.Sublist l) : QueueOk m where
  fits := Nat.le_trans k.length_le h.fits
  keys := h.keys.sublist (k.map _)
  settled e he := h.settled e (k.subset he)
  counted e he := h.counted e (k.subset he)

/-- Two entries of a queue with the same key are one. -/
theorem key_inj {l : List AlertEntry} (h : (l.map AlertEntry.key).Nodup) {x y : AlertEntry} (hx : x ∈ l) (hy : y ∈ l)
    (e : x.key = y.key) : x = y := by
  induction l with
  | nil => cases hx
  | cons a l ih =>
    rw [List.map_cons, List.nodup_cons] at h
    cases List.mem_cons.1 hx with
    | inl ex =>
      cases List.mem_cons.1 hy with
      | inl ey => rw [ex, ey]
      | inr ey => exact absurd (List.mem_map.2 ⟨y, ey, by rw [← e, ex]⟩) h.1
    | inr ex =>
      cases List.mem_cons.1 hy with
      | inl ey => exact absurd (List.mem_map.2 ⟨x, ex, by rw [e, ey]⟩) h.1
      | inr ey => exact ih h.2 ex ey

theorem replaceFirst_length {α : Type} (f : α → Bool) (g : α → α) (l : List α) : (replaceFirst f g l).length = l.length := by
  induction l with
  | nil => rfl
  | cons x l ih => unfold replaceFirst; split <;> simp [ih]

theorem replaceFirst_map {α β : Type} (f : α → Bool) (g : α → α) (m : α → β) (h : ∀ x, f x = true → m (g x) = m x)
    (l : List α) : (replaceFirst f g l).map m = l.map m := by
  induction l with
  | nil => rfl
  | cons x l ih =>
    unfold replaceFirst
    split
    · next e => simp [h x e]
    · simp [ih]

theorem replaceFirst_mem {α : Type} (f : α → Bool) (g : α → α) (l : List α) (y : α) (h : y ∈ replaceFirst f g l) :
    y ∈ l ∨ ∃ x ∈ l, f x = true ∧ y = g x := by
  induction l with
  | nil => exact Or.inl h
  | cons x l ih =>
    unfold replaceFirst at h
    split at h
    · next e =>
      cases List.mem_cons.1 h with
      | inl e2 => exact Or.inr ⟨x, List.mem_cons_self .., e, e2⟩
      | inr e2 => exact Or.inl (List.mem_cons_of_mem _ e2)
    · cases List.mem_cons.1 h with
      | inl e2 => exact Or.inl (e2 ▸ List.mem_cons_self ..)
      | inr e2 =>
        cases ih e2 with
        | inl e3 => exact Or.inl (List.mem_cons_of_mem _ e3)
        | inr e3 => obtain ⟨z, hz, e4⟩ := e3; exact Or.inr ⟨z, List.mem_cons_of_mem _ hz, e4⟩

/-- The entry of a key replaced by one of the same key that is itself of the right form. -/
theorem QueueOk.replace {l : List AlertEntry} (h : QueueOk l) (k : AlertKey) (g : AlertEntry → AlertEntry)
    (hk : ∀ x ∈ l, x.key = k → (g x).key = k) (hs : ∀ x ∈ l, x.key = k → (g x).acked = true → (g x).active = true)
    (hc : ∀ x ∈ l, x.key = k → 1 ≤ (g x).count ∧ (g x).count ≤ 255) : QueueOk (replaceFirst (hasKey k) g l) where
  fits := by rw [replaceFirst_length]; exact h.fits
  keys := by
    have : ∀ m : List AlertEntry, (∀ x ∈ m, x.key = k → (g x).key = k) →
        (replaceFirst (hasKey k) g m).map AlertEntry.key = m.map AlertEntry.key := by
      intro m
      induction m with
      | nil => intro _; rfl
      | cons x m ih =>
        intro hm
        unfold replaceFirst
        split
        · next e =>
          have e' : x.key = k := eq_of_beq e
          simp [hm x (List.mem_cons_self ..) e', e']
        · simp [ih fun y hy => hm y (List.mem_cons_of_mem _ hy)]
    rw [this l hk]; exact h.keys
  settled e he ha := by
    cases replaceFirst_mem _ _ _ _ he with
    | inl e1 => exact h.settled e e1 ha
    | inr e1 => obtain ⟨x, hx, hf, rfl⟩ := e1; exact hs x hx (eq_of_beq hf) ha
  counted e he := by
    cases replaceFirst_mem _ _ _ _ he with
    | inl e1 => exact h.counted e e1
    | inr e1 => obtain ⟨x, hx, hf, rfl⟩ := e1; exact hc x hx (eq_of_beq hf)

theorem QueueOk.push {l : List AlertEntry} (h : QueueOk l) {e : AlertEntry} (hl : l.length < Config.alertEntries)
    (hk : ∀ x ∈ l, x.key ≠ e.key) (hs : e.acked = false) (hc : 1 ≤ e.count ∧ e.count ≤ 255) : QueueOk (l ++ [e]) where
  fits := by rw [List.length_append]; exact hl
  keys := by
    rw [List.map_append, List.nodup_append]
    refine ⟨h.keys, by simp, ?_⟩
    intro a ha b hb hab
    obtain ⟨x, hx, rfl⟩ := List.mem_map.1 ha
    simp only [List.map_cons, List.map_nil, List.mem_singleton] at hb
    exact hk x hx (hab.trans hb)
  settled x hx ha := by
    cases List.mem_append.1 hx with
    | inl e1 => exact h.settled x e1 ha
    | inr e1 => rw [List.mem_singleton.1 e1, hs] at ha; cases ha
  counted x hx := by
    cases List.mem_append.1 hx with
    | inl e1 => exact h.counted x e1
    | inr e1 => rw [List.mem_singleton.1 e1]; exact hc

theorem handAlert_queue (s : State) (b : Bool) (e : AlertEntry) : (s.handAlert b e).arl.queue = s.arl.queue := by
  unfold State.handAlert; split <;> rfl

theorem announce_queue (s : State) (e : AlertEntry) : (s.announce e).arl.queue = s.arl.queue := by
  unfold State.announce
  split
  · exact handAlert_queue s _ e
  · rfl

theorem handAlert_dropped (s : State) (b : Bool) (e : AlertEntry) (h : s.arl.dropped ≤ Config.max16) :
    (s.handAlert b e).arl.dropped ≤ Config.max16 := by
  unfold State.handAlert
  split
  · exact h
  · exact satAdd_le _ _ _

theorem announce_dropped (s : State) (e : AlertEntry) (h : s.arl.dropped ≤ Config.max16) :
    (s.announce e).arl.dropped ≤ Config.max16 := by
  unfold State.announce
  split
  · exact handAlert_dropped s _ e h
  · exact h

theorem alertFor_none {s : State} {k : AlertKey} (h : s.alertFor k = none) : ∀ x ∈ s.arl.queue, x.key ≠ k := by
  intro x hx e
  exact absurd (List.find?_eq_none.1 h x hx) (by simp [hasKey, e])

theorem evict_sublist (l : List AlertEntry) : (evict l).Sublist l := List.eraseP_sublist

theorem lowestSeverity_mem (l : List AlertEntry) : ∀ n, lowestSeverity n l = n ∨ ∃ e ∈ l, severity e.key.cls = lowestSeverity n l := by
  induction l with
  | nil => intro n; exact Or.inl rfl
  | cons x l ih =>
    intro n
    have h := ih (min n (severity x.key.cls))
    show lowestSeverity (min n (severity x.key.cls)) l = n ∨ ∃ e ∈ x :: l, severity e.key.cls = lowestSeverity (min n (severity x.key.cls)) l
    cases h with
    | inl e =>
      rw [e]
      by_cases hm : n ≤ severity x.key.cls
      · exact Or.inl (by omega)
      · exact Or.inr ⟨x, List.mem_cons_self .., by omega⟩
    | inr e => obtain ⟨y, hy, e⟩ := e; exact Or.inr ⟨y, List.mem_cons_of_mem _ hy, e⟩

/-- R157: making room takes one entry, where some entry is below the severity of the raise. -/
theorem evict_length {l : List AlertEntry} {c : AlertClass} (h : lowestSeverity 3 l < severity c) :
    (evict l).length + 1 = l.length := by
  have h3 : severity c ≤ 3 := by cases c <;> decide
  cases lowestSeverity_mem l 3 with
  | inl e => omega
  | inr e =>
    obtain ⟨x, hx, e⟩ := e
    have := List.length_eraseP_of_mem (p := fun e => severity e.key.cls == lowestSeverity 3 l) hx (by simp [e])
    have hp : 0 < l.length := List.length_pos_of_mem hx
    unfold evict
    omega

theorem alertsOk_createAlert {s : State} {e : AlertEntry} (h : AlertsOk s.arl) (hl : s.arl.queue.length < Config.alertEntries)
    (hk : ∀ x ∈ s.arl.queue, x.key ≠ e.key) (hs : e.acked = false) (hc : 1 ≤ e.count ∧ e.count ≤ 255) :
    AlertsOk (s.createAlert e).arl := by
  refine AlertsOk.of_queue ?_ (announce_dropped _ _ h.dropped)
  unfold State.createAlert
  rw [announce_queue]
  exact h.queueOk.push hl hk hs hc

/-- R152, R153, R157: a raise keeps the form of the alert queue. -/
theorem alertsOk_raiseAt {s : State} (k : AlertKey) (c : Bool) (t : Time) (h : AlertsOk s.arl) :
    AlertsOk (s.raiseAt k c t).arl := by
  unfold State.raiseAt
  split
  · next hn =>
    unfold State.addAlert
    split
    · next hl => exact alertsOk_createAlert h hl (alertFor_none hn) rfl ⟨Nat.le_refl 1, show 1 ≤ 255 by decide⟩
    split
    · next hl hv =>
      have he := evict_length hv
      have hq := h.queueOk.sublist (evict_sublist s.arl.queue)
      refine alertsOk_createAlert (s := (s.setAlerts (evict s.arl.queue)).countDropped)
        (AlertsOk.of_queue hq (satAdd_le _ _ _)) ?_ ?_ rfl ⟨Nat.le_refl 1, show 1 ≤ 255 by decide⟩
      · show (evict s.arl.queue).length < _
        have := h.fits
        omega
      · intro x hx
        exact alertFor_none hn x ((evict_sublist _).subset hx)
    · exact AlertsOk.of_queue h.queueOk (satAdd_le _ _ _)
  · next e he =>
    have hk : e.key = k := eq_of_beq (by simpa [hasKey] using List.find?_some he)
    have hm := List.mem_of_find?_eq_some he
    have hcount : ∀ x : AlertEntry, 1 ≤ satAdd 255 x.count 1 ∧ satAdd 255 x.count 1 ≤ 255 := fun x =>
      ⟨by unfold satAdd; omega, satAdd_le _ _ _⟩
    split
    · refine AlertsOk.of_queue ?_ (announce_dropped _ _ h.dropped)
      rw [announce_queue]
      exact h.queueOk.replace k _ (fun _ _ _ => hk) (fun _ _ _ ha => nomatch ha) (fun _ _ _ => hcount e)
    · refine AlertsOk.of_queue ?_ h.dropped
      exact h.queueOk.replace k _ (fun _ _ e => e) (fun _ _ _ ha => nomatch ha) (fun x _ _ => hcount x)

/-- R154: a clear keeps the form of the alert queue. -/
theorem alertsOk_clear {s : State} (k : AlertKey) (h : AlertsOk s.arl) : AlertsOk (s.clear k).arl := by
  unfold State.clear
  split
  · exact h
  next e he =>
  split
  · have h1 : ∀ t : State, t.arl.queue = s.arl.queue → t.arl.dropped ≤ Config.max16 →
        AlertsOk (if e.acked then t.setAlerts (t.arl.queue.eraseP (hasKey k))
          else t.setAlerts (replaceFirst (hasKey k) (fun x => { x with active := false }) t.arl.queue)).arl := by
      intro t hq hd
      have ht : QueueOk t.arl.queue := hq ▸ h.queueOk
      split
      · exact AlertsOk.of_queue (ht.sublist List.eraseP_sublist) hd
      · next ha =>
        refine AlertsOk.of_queue (ht.replace k _ (fun _ _ e => e) (fun x hx hxk hxa => ?_) (fun x hx _ => ht.counted x hx)) hd
        have hem : e ∈ t.arl.queue := hq ▸ List.mem_of_find?_eq_some he
        have hek : e.key = k := eq_of_beq (by simpa [hasKey] using List.find?_some he)
        have : x = e := key_inj ht.keys hx hem (hxk.trans hek.symm)
        rw [this] at hxa
        exact absurd hxa ha
    dsimp only
    by_cases hm : enabledIn s.arl.mask k.cls
    · rw [if_pos hm]; exact h1 _ (handAlert_queue _ _ _) (handAlert_dropped _ _ _ h.dropped)
    · rw [if_neg hm]; exact h1 s rfl h.dropped
  · exact h

/-- R155: an acknowledgment keeps the form of the alert queue. -/
theorem alertsOk_acknowledge {s : State} {k : AlertKey} {e : AlertEntry} (he : s.alertFor k = some e) (h : AlertsOk s.arl) :
    AlertsOk (s.acknowledge k e).arl := by
  unfold State.acknowledge
  split
  · next ha =>
    refine AlertsOk.of_queue (h.queueOk.replace k _ (fun _ _ e => e) (fun x hx hxk _ => ?_)
      (fun x hx _ => h.counted x hx)) h.dropped
    have hem := List.mem_of_find?_eq_some he
    have hek : e.key = k := eq_of_beq (by simpa [hasKey] using List.find?_some he)
    have : x = e := key_inj h.keys hx hem (hxk.trans hek.symm)
    rw [this]; exact ha
  · exact AlertsOk.of_queue (h.queueOk.sublist List.eraseP_sublist) h.dropped

/-- R156: a write of the relay mask keeps the form of the alert queue. -/
theorem alertsOk_writeMask {s : State} (m : BitVec 12) (h : AlertsOk s.arl) : AlertsOk (s.writeMask m).arl := by
  refine State.each_kept (P := fun t => AlertsOk t.arl) (fun t e ht => ?_) _ (AlertsOk.of_queue h.queueOk h.dropped)
  unfold State.announcePending
  split
  · exact ht
  · refine AlertsOk.of_queue ?_ (handAlert_dropped _ _ _ ht.dropped)
    rw [handAlert_queue]
    exact ht.queueOk.replace e.key _ (fun _ _ e => e) (fun x hx _ => ht.settled x hx) (fun x hx _ => ht.counted x hx)

/-! ### The transmit list keeps its limits -/

/-- R167: a frame handed over keeps the limits of the list. -/
theorem linkOk_hand {s : State} (f : OutFrame) (h : LinkOk s.jli) : LinkOk (s.hand f).jli := by
  unfold State.hand
  split
  · next hl => exact ⟨by show (s.jli.tx ++ [f]).length ≤ _; rw [List.length_append]; exact hl, h.2, h.3⟩
  · exact ⟨h.1, satAdd_le _ _ _, h.3⟩

theorem linkOk_handAlert {s : State} (b : Bool) (e : AlertEntry) (h : LinkOk s.jli) : LinkOk (s.handAlert b e).jli := by
  unfold State.handAlert
  split
  · next hl =>
    refine ⟨?_, h.2, h.3⟩
    show (s.jli.tx ++ [_]).length ≤ _
    rw [List.length_append]
    have := of_decide_eq_true hl
    unfold Config.txAlertLimit at this
    unfold Config.txLimit
    simp only [List.length_cons, List.length_nil]
    omega
  · exact h

theorem linkOk_announce {s : State} (e : AlertEntry) (h : LinkOk s.jli) : LinkOk (s.announce e).jli := by
  unfold State.announce
  split
  · exact linkOk_handAlert _ e h
  · exact h

/-- R153, R167: a raise keeps the limits of the transmit list. -/
theorem linkOk_raiseAt {s : State} (k : AlertKey) (c : Bool) (t : Time) (h : LinkOk s.jli) : LinkOk (s.raiseAt k c t).jli := by
  unfold State.raiseAt
  split
  · unfold State.addAlert State.createAlert
    split
    · exact linkOk_announce _ h
    split
    · exact linkOk_announce _ h
    · exact h
  · split
    · exact linkOk_announce _ h
    · exact h

/-- R154, R167: a clear keeps the limits of the transmit list. -/
theorem linkOk_clear {s : State} (k : AlertKey) (h : LinkOk s.jli) : LinkOk (s.clear k).jli := by
  unfold State.clear
  split
  · exact h
  split
  · dsimp only
    split <;> split
    · exact linkOk_handAlert _ _ h
    · exact h
    · exact linkOk_handAlert _ _ h
    · exact h
  · exact h

/-- R156, R167: a write of the relay mask keeps the limits of the transmit list. -/
theorem linkOk_writeMask {s : State} (m : BitVec 12) (h : LinkOk s.jli) : LinkOk (s.writeMask m).jli := by
  refine State.each_kept (P := fun t => LinkOk t.jli) (fun t e ht => ?_) _ h
  unfold State.announcePending
  split
  · exact ht
  · exact linkOk_handAlert _ e ht

end Sys2Proof.Machine
end

