-- ==== Sys2Proof/Laws/Dispatch.lean ====
section
/-!
SUPPORT. What every operation of the Dispatch Scheduler, the Printer Agent and the drop lines keeps. `KeepsDispatch P` says
that `P` survives each single change these operations are made of; the lemmas carry it through the operations once, so that
a frame or an invariant is an instantiation.
-/

namespace Sys2Proof.Machine

/-- A job keeps its admission's fields, and the ranges hold on. -/
def SameJob (old x : Job) : Prop := JobKept old x ∧ (JobOk old → JobOk x)

theorem JobKept.refl (x : Job) : JobKept x x := rfl

theorem JobKept.trans {x y z : Job} (h : JobKept x y) (k : JobKept y z) : JobKept x z := by
  unfold JobKept at *; rw [k, h]

theorem SameJob.refl (x : Job) : SameJob x x := ⟨rfl, id⟩

theorem JobDispatched.refl (x : Job) : JobDispatched x x := rfl

theorem JobDispatched.trans {x y z : Job} (h : JobDispatched x y) (k : JobDispatched y z) : JobDispatched x z := by
  unfold JobDispatched at *; rw [k, h]

theorem JobDispatched.kept {x y : Job} (h : JobDispatched x y) : JobKept x y := by
  unfold JobDispatched at h; rw [h]; rfl

/-- What dispatch changes of a job, and the ranges hold on. -/
def StepJob (old x : Job) : Prop := JobDispatched old x ∧ (JobOk old → JobOk x)

theorem StepJob.same {x y : Job} (h : StepJob x y) : SameJob x y := ⟨h.1.kept, h.2⟩

/-- The fields of an account that dispatch and charging never change are those of the old one; and the ranges hold on. -/
def SameAccount (old x : Account) : Prop :=
  x = { old with
    balance := x.balance
    reserved := x.reserved
    periodSheets := x.periodSheets
    periodMono := x.periodMono
    periodColour := x.periodColour
    periodCharge := x.periodCharge } ∧ (AccountOk old → AccountOk x)

/-- `P` survives each single change that the Dispatch Scheduler's operations are made of. -/
structure KeepsDispatch (P : State → Prop) : Prop where
  raiseAt : ∀ {s k c t}, P s → P (s.raiseAt k c t)
  clear : ∀ {s k}, P s → P (s.clear k)
  job : ∀ {s j old x}, s.job j = some old → StepJob old x → P s → P (s.setJob j (some x))
  disp : ∀ {s p x}, P s → P (s.setDisp p x)
  pool : ∀ {s k x}, x.enabled = (s.pool k).enabled → x.reroute = (s.pool k).reroute → P s → P (s.setPool k x)
  printer : ∀ {s p x}, x.config = (s.printer p).config → (PrinterOk (s.printer p) → PrinterOk x) → P s →
    P (s.setPrinter p x)
  reserved : ∀ {s a n}, P s → P (s.setAccount a { s.account a with reserved := n })

namespace KeepsDispatch

variable {P : State → Prop} (K : KeepsDispatch P) {s : State}
include K

theorem raise (k : AlertKey) (h : P s) : P (s.raise k) := K.raiseAt h

theorem raiseEvent (k : AlertKey) (h : P s) : P (s.raiseEvent k) := K.raiseAt h

theorem queue (k : Fin 16) (l : List (Fin 128)) (h : P s) : P (s.setQueue k l) := K.pool rfl rfl h

theorem modJob (j : Fin 128) {f : Job → Job} (hf : ∀ x, s.job j = some x → StepJob x (f x)) (h : P s) : P (s.modJob j f) := by
  cases e : s.job j with
  | none => rwa [State.modJob_none s e]
  | some x => rw [State.modJob_some s e]; exact K.job e (hf x e) h

theorem enqueue (j : Fin 128) (h : P s) : P (s.enqueue j) := by
  unfold State.enqueue
  split
  · next job e => exact K.queue _ _ (K.job e ⟨rfl, fun o => ⟨o.1, o.2, o.3, o.4⟩⟩ h)
  · exact h

theorem leaveQueue (k : Fin 16) (j : Fin 128) (h : P s) : P (s.leaveQueue k j) := K.queue _ _ h

theorem detach (j : Fin 128) (p : Fin 32) (h : P s) : P (s.detach j p) := by
  have h2 := K.modJob j (f := fun x => { x with printer := none, drain := none, stalled := false })
    (fun x _ => ⟨rfl, fun o => ⟨o.1, o.2, o.3, o.4⟩⟩)
    (K.disp (p := p) (x := { s.disp p with assigned := none, stall := none, leaving := false }) h)
  unfold State.detach
  dsimp only
  split
  · exact K.printer rfl (fun o => ⟨o.1, o.2, o.3, o.4⟩) h2
  · exact h2

theorem holdDrained (j : Fin 128) (h : P s) : P (s.modJob j holdDrained) :=
  K.modJob j (fun _ _ => ⟨rfl, fun o => ⟨o.1, o.2, o.3, o.4⟩⟩) h

theorem holdForBudget (j : Fin 128) (p : Fin 32) (h : P s) : P (s.holdForBudget j p) :=
  K.modJob j (fun _ _ => ⟨rfl, fun o => ⟨o.1, o.2, o.3, o.4⟩⟩) (K.detach j p (K.holdDrained j h))

theorem gateFailed (j : Fin 128) (p : Fin 32) (a : Fin 512) (h : P s) : P (s.gateFailed j p a) := by
  have h1 := K.raise (budgetKey a)
    (K.modJob j (f := fun x => { x with drain := some .budget }) (fun x _ => ⟨rfl, fun o => ⟨o.1, o.2, o.3, o.4⟩⟩) h)
  unfold State.gateFailed
  dsimp only
  split
  · exact K.holdForBudget j p h1
  · exact h1

theorem reserve (a : Fin 512) (e : Nat) (h : P s) : P (s.reserve a e) := K.reserved h

theorem unreserve (a : Fin 512) (e : Nat) (h : P s) : P (s.unreserve a e) := K.reserved h

theorem release (j : Fin 128) (p : Fin 32) (a : Fin 512) (pos : Nat × Nat) (e : Nat) (h : P s) :
    P (s.release j p a pos e) := by
  unfold State.release
  dsimp only
  refine K.modJob j (fun x _ => ⟨rfl, fun o => ⟨o.1, o.2, o.3, o.4⟩⟩) 
    (K.printer rfl (fun o => ⟨o.1, o.2, ?_, o.4⟩) (K.disp (K.reserve a e h)))
  show (if _ then 0 else (s.printer p).naks) ≤ 3
  have := o.3
  split
  · omega
  · exact this

theorem releaseLoop (j : Fin 128) : ∀ (fuel : Nat) {s : State}, P s → P (State.releaseLoop fuel j s)
  | 0, _, h => h
  | fuel + 1, s, h => by
    unfold State.releaseLoop
    split
    · exact h
    split
    · exact h
    split
    · split
      · exact h
      split
      · exact releaseLoop j fuel (K.release _ _ _ _ _ h)
      · exact K.gateFailed _ _ _ h
    · exact h

theorem assign (k : Fin 16) (p : Fin 32) (j : Fin 128) (h : P s) : P (s.assign k p j) := by
  unfold State.assign
  exact K.releaseLoop j _ (K.disp (K.modJob j (fun x _ => ⟨rfl, fun o => ⟨o.1, o.2, o.3, o.4⟩⟩) (K.leaveQueue k j h)))

theorem arbiterLoop (k : Fin 16) : ∀ (fuel : Nat) {s : State}, P s → P (State.arbiterLoop fuel k s)
  | 0, _, h => h
  | fuel + 1, s, h => by
    unfold State.arbiterLoop
    split
    · exact h
    · exact arbiterLoop k fuel (K.assign _ _ _ (K.pool rfl rfl h))

theorem runArbiter (k : Fin 16) (h : P s) : P (s.runArbiter k) := by
  unfold State.runArbiter
  split
  · exact K.arbiterLoop k _ h
  · exact h

theorem offerPrinter (p : Fin 32) (h : P s) : P (s.offerPrinter p) := by
  unfold State.offerPrinter
  split
  · split
    · exact K.runArbiter _ h
    · exact h
  · exact h

theorem requeue (j : Fin 128) (h : P s) : P (s.requeue j) := by
  unfold State.requeue
  split
  · exact K.runArbiter _ (K.enqueue j h)
  · exact h

theorem endDrain (j : Fin 128) (p : Fin 32) (h : P s) : P (s.endDrain j p) := by
  have h1 := K.offerPrinter p (K.detach j p (K.holdDrained j h))
  unfold State.endDrain
  dsimp only
  split
  · next job e =>
    split
    · exact K.requeue j h1
    · exact K.job e ⟨rfl, fun o => ⟨o.1, o.2, o.3, o.4⟩⟩ h1
  · exact h1

theorem tryReleases (j : Fin 128) (h : P s) : P (s.tryReleases j) := by
  unfold State.tryReleases
  split
  · split
    · dsimp only
      split
      · exact K.releaseLoop j _ h
      · exact K.offerPrinter _ (K.releaseLoop j _ h)
    · exact h
  · exact h

theorem budgetTest (a : Fin 512) (h : P s) : P (s.budgetTest a) := by
  unfold State.budgetTest
  split
  · exact h
  · exact K.clear h

theorem retryGate (j : Fin 128) (h : P s) : P (s.retryGate j) := by
  unfold State.retryGate
  split
  · next job e =>
    split
    · split
      · split
        · exact K.budgetTest _ (K.job e ⟨rfl, fun o => ⟨o.1, o.2, o.3, o.4⟩⟩ h)
        · exact h
      · exact h
    · exact h
  · exact h

theorem retryForAccount (a : Fin 512) (j : Fin 128) (h : P s) : P (State.retryForAccount a s j) := by
  unfold State.retryForAccount
  split
  · split
    · have h1 := K.retryGate j h
      dsimp only
      split
      · split
        · exact K.tryReleases j h1
        · exact h1
      · exact h1
    · exact h
  · exact h

theorem unholdBudget (a : Fin 512) (j : Fin 128) (h : P s) : P (State.unholdBudget a s j) := by
  unfold State.unholdBudget
  split
  · next job e =>
    split
    · exact K.job e ⟨rfl, fun o => ⟨o.1, o.2, o.3, o.4⟩⟩ h
    · exact h
  · exact h

theorem requeueUnheld (j : Fin 128) (h : P s) : P (s.requeueUnheld j) := by
  unfold State.requeueUnheld
  split
  · split
    · exact K.requeue j h
    · exact h
  · exact h

theorem accountChange (a : Fin 512) (h : P s) : P (s.accountChange a) := by
  unfold State.accountChange
  exact K.budgetTest a (State.each_kept (fun _ j ht => K.requeueUnheld j ht) _
    (K.budgetTest a (State.each_kept (fun _ j ht => K.unholdBudget a j ht) _
      (State.each_kept (fun _ j ht => K.retryForAccount a j ht) _ h))))

theorem tryPrinting (j : Fin 128) (h : P s) : P (s.tryPrinting j) := by
  unfold State.tryPrinting
  split
  · split
    · exact K.tryReleases j h
    · exact h
  · exact h

theorem resumeDispatch (h : P s) : P s.resumeDispatch :=
  State.each_kept (fun _ j ht => K.tryPrinting j ht) _ (State.each_kept (fun _ k ht => K.runArbiter k ht) _ h)

/-! ### Windows, stalls and needs-drop -/

theorem setWindow (p : Fin 32) (w : List WindowEntry) (h : P s) : P (s.setWindow p w) := by
  unfold State.setWindow
  refine K.printer ?_ (fun o => ?_) (K.disp h)
  · unfold restage; split <;> rfl
  · unfold restage
    split
    · exact o
    · exact ⟨o.1, o.2, Nat.zero_le _, o.4⟩

theorem loseFrom (p : Fin 32) (k : Nat) (h : P s) : P (s.loseFrom p k) := by
  unfold State.loseFrom
  dsimp only
  split
  · exact h
  have h1 := K.setWindow p ((s.disp p).window.take k) h
  split
  · exact h1
  refine State.each_kept (fun _ _ ht => K.unreserve _ _ ht) _ (K.modJob _ (fun x _ => ⟨rfl, fun o => ⟨o.1, o.2, ?_, o.4⟩⟩) h1)
  exact satAdd_le _ _ _

theorem startStall (p : Fin 32) (k : Fin 16) (h : P s) : P (s.startStall p k) := by
  unfold State.startStall
  dsimp only
  split
  · exact K.disp h
  · exact h

theorem takeCannotFeed (p : Fin 32) (h : P s) : P (s.takeCannotFeed p) := by
  unfold State.takeCannotFeed
  split
  · exact h
  split
  · exact h
  · next job e =>
    split
    · exact K.startStall _ _ (K.job e ⟨rfl, fun o => ⟨o.1, o.2, o.3, o.4⟩⟩ h)
    · exact K.startStall _ _ h
    · exact h

theorem takeCanFeed (p : Fin 32) (h : P s) : P (s.takeCanFeed p) := by
  have h1 : P (s.setDisp p { s.disp p with stall := none }) := K.disp h
  unfold State.takeCanFeed
  dsimp only
  split
  · exact K.offerPrinter p h1
  split
  · exact h1
  · next job e =>
    split
    · exact K.tryReleases _ (K.job e ⟨rfl, fun o => ⟨o.1, o.2, o.3, o.4⟩⟩ h1)
    · exact h1

theorem refreshFeed (p : Fin 32) (h : P s) : P (s.refreshFeed p) := by
  unfold State.refreshFeed
  dsimp only
  split
  · exact h
  split
  · exact K.takeCannotFeed p (K.disp h)
  · exact K.takeCanFeed p (K.disp h)

theorem answered (p : Fin 32) (missed : Nat) (hm : PrinterOk (s.printer p) → missed ≤ 3) (h : P s) : P (s.answered p missed) :=
  K.refreshFeed p (K.clear (K.printer rfl (fun o => ⟨hm o, o.2, o.3, o.4⟩) h))

theorem setPollDue (p : Fin 32) (h : P s) : P (s.setPollDue p) := K.printer rfl (fun o => ⟨o.1, o.2, o.3, o.4⟩) h

theorem clearConditionAlert (p : Fin 32) (c : Option Condition) (h : P s) : P (s.clearConditionAlert p c) := by
  unfold State.clearConditionAlert
  split
  · exact K.clear h
  · exact h

theorem raiseConditionAlert (p : Fin 32) (c : Option Condition) (h : P s) : P (s.raiseConditionAlert p c) := by
  unfold State.raiseConditionAlert
  split
  · exact K.raiseAt h
  · exact h

theorem markSent (p : Fin 32) (h : P s) : P (s.markSent p) := K.setWindow p _ h

theorem advance (p : Fin 32) (next : Option Nat) (h : P s) : P (s.advance p next) := by
  unfold State.advance
  split
  · exact K.printer rfl (fun o => ⟨o.1, o.2, o.3, o.4⟩) h
  · exact K.markSent p h

theorem takeAck (p : Fin 32) (feed : Byte) (next : Option Nat) (room : Nat) (hr : room ≤ 255) (h : P s) :
    P (s.takeAck p feed next room) := by
  have h1 := K.printer (p := p) (x := { (s.answered p 0).printer p with room := room }) rfl
    (fun o => ⟨o.1, o.2, o.3, hr⟩) (K.answered p 0 (fun _ => Nat.zero_le _) h)
  unfold State.takeAck
  dsimp only
  split
  · exact K.advance p next (K.printer rfl (fun o => ⟨o.1, o.2, Nat.zero_le _, o.4⟩) h1)
  · exact h1

theorem clearPrinterAlerts (p : Fin 32) (h : P s) : P (s.clearPrinterAlerts p) :=
  State.each_kept (fun _ _ ht => K.clear ht) _ h

omit K in
theorem eachConfigured (q : Fin 8) {f : State → Fin 32 → State} (hf : ∀ t p, P t → P (f t p)) (h : P s) :
    P (s.eachConfigured q f) := by
  refine State.each_kept (fun t d ht => ?_) _ h
  split
  · exact hf _ _ ht
  · exact ht

theorem printerPortDown (p : Fin 32) (h : P s) : P (s.printerPortDown p) :=
  K.refreshFeed p (K.clearPrinterAlerts p (K.printer rfl (fun o => ⟨Nat.zero_le _, o.2, o.3, Nat.zero_le _⟩) h))

end KeepsDispatch

/-! ### With job ends -/

/-- `P` survives, besides, a job's end and the single changes of the spool, the meters and the ports that come with printing. -/
structure KeepsPrinting (P : State → Prop) : Prop extends KeepsDispatch P where
  account : ∀ {s a x}, SameAccount (s.account a) x → P s → P (s.setAccount a x)
  hand : ∀ {s f}, P s → P (s.hand f)
  paused : ∀ {s b}, P s → P (s.setPaused b)
  freeSheet : ∀ {s n}, P s → P (s.freeSheetBlocks n)
  meters : ∀ {s p l}, l.length ≤ 2 → P s → P (s.setMeters p (raiseMeters (s.acm.meters.get p) l))
  progress : ∀ {s j old x}, s.job j = some old → SameJob old x → P s → P (s.setJob j (some x))
  control : ∀ {s q b}, P s → P (s.setPort q { s.port q with control := queueControl b (s.port q).control })
  protocolError : ∀ {s p}, P s → P (s.countProtocolError p)
  endJob : ∀ {s j o c}, P s → P (s.endJob j o c)

theorem clampBalance_low (z : Int) : Config.minBalance ≤ clampBalance z := by
  unfold clampBalance; omega

theorem clampBalance_high (z : Int) : clampBalance z ≤ Config.maxBalance := by
  unfold clampBalance Config.minBalance Config.maxBalance; omega

theorem sameAccount_charge (a : Account) (e c : Nat) (l : List Ink) : SameAccount a (chargeAccount a e c l) :=
  ⟨rfl, fun o => ⟨clampBalance_low _, clampBalance_high _, o.3, o.4, satAdd_le _ _ _, satAdd_le _ _ _, satAdd_le _ _ _,
    satAdd_le _ _ _⟩⟩

theorem sameAccount_closePeriod (a : Account) : SameAccount a (closePeriod a) :=
  ⟨rfl, fun o => ⟨o.1, o.2, o.3, o.4, Nat.zero_le _, Nat.zero_le _, Nat.zero_le _, Nat.zero_le _⟩⟩

theorem sameAccount_adjust (a : Account) (z : Int) : SameAccount a { a with balance := clampBalance z } :=
  ⟨rfl, fun o => ⟨clampBalance_low _, clampBalance_high _, o.3, o.4, o.5, o.6, o.7, o.8⟩⟩

/-- The drops of a control queue stay different when a block is queued (R83). -/
theorem queueControl_nodup (b : ControlBlock) (l : List ControlBlock) (h : (l.map ControlBlock.drop).Nodup) :
    ((queueControl b l).map ControlBlock.drop).Nodup := by
  have hr : ∀ l : List ControlBlock,
      (replaceFirst (fun x => x.drop == b.drop) (fun _ => b) l).map ControlBlock.drop = l.map ControlBlock.drop := by
    intro l
    induction l with
    | nil => rfl
    | cons x l ih =>
      unfold replaceFirst
      split
      · next e => simp [eq_of_beq e]
      · simp [ih]
  unfold queueControl
  split
  · rw [hr]; exact h
  · next e =>
    rw [List.map_append, List.nodup_append]
    refine ⟨h, by simp, ?_⟩
    intro x hx y hy
    simp only [List.map_cons, List.map_nil, List.mem_singleton] at hy
    intro hxy
    apply e
    obtain ⟨c, hc, rfl⟩ := List.mem_map.1 hx
    exact List.any_eq_true.2 ⟨c, hc, by simp [hxy, hy]⟩

/-- R87: a record of a STATUS that is taken gives at most 2 sides printed. -/
theorem readRecords_sides : ∀ (b : List Byte) (l : List DeliveryRecord), readRecords b = some l →
    ∀ x ∈ l, x.printed.length ≤ 2
  | [], l, e, x, hx => by simp only [readRecords, Option.some.injEq] at e; subst e; cases hx
  | [_], l, e, x, hx => by simp only [readRecords, Option.some.injEq] at e; subst e; cases hx
  | [_, _], l, e, x, hx => by simp only [readRecords, Option.some.injEq] at e; subst e; cases hx
  | f :: n :: g :: rest, l, e, x, hx => by
    unfold readRecords at e
    split at e
    · cases hr : readRecords rest with
      | none => rw [hr] at e; cases e
      | some m =>
        rw [hr] at e
        cases e
        cases List.mem_cons.1 hx with
        | inl e2 => rw [e2]; exact List.length_take_le' ..
        | inr e2 => exact readRecords_sides rest m hr x e2
    · cases e

theorem byte_le (b : Byte) : b.toNat ≤ 255 := Nat.le_of_lt_succ b.isLt

/-- R87: a STATUS that is taken gives a room of one byte, and at most 2 sides printed for each record. -/
structure StatusOk (st : Status) : Prop where
  room : st.room ≤ 255
  sides : ∀ x ∈ st.records, x.printed.length ≤ 2

theorem statusOf_ok {o : ExchangeOutcome} {st : Status} (h : statusOf o = some st) : StatusOk st := by
  unfold statusOf at h
  split at h
  · split at h
    · unfold readStatus at h
      dsimp only at h
      split at h
      · split at h
        · next hr => cases h; exact ⟨byte_le _, readRecords_sides _ _ hr⟩
        · cases h
      · cases h
    · cases h
  · cases h

/-- R87: an ACK gives a room of one byte. -/
theorem acceptanceOf_room {o : ExchangeOutcome} {room : Nat} (h : acceptanceOf o = .ack room) : room ≤ 255 := by
  unfold acceptanceOf at h
  split at h
  · split at h
    · cases h; exact byte_le _
    · split at h <;> cases h
  · cases h

namespace KeepsPrinting

variable {P : State → Prop} (K : KeepsPrinting P) {s : State}
include K

theorem modProgress (j : Fin 128) {f : Job → Job} (hf : ∀ x, s.job j = some x → SameJob x (f x)) (h : P s) :
    P (s.modJob j f) := by
  cases e : s.job j with
  | none => rwa [State.modJob_none s e]
  | some x => rw [State.modJob_some s e]; exact K.progress e (hf x e) h

theorem unbindStream (j : Fin 128) (h : P s) : P (s.unbindStream j) :=
  K.modProgress j (fun _ _ => ⟨rfl, fun o => ⟨o.1, o.2, o.3, o.4⟩⟩) h

theorem applyWatermarks (h : P s) : P s.applyWatermarks := by
  unfold State.applyWatermarks
  dsimp only
  split
  · exact K.raiseAt (K.paused (K.hand h))
  · split
    · exact K.clear (K.paused (K.hand h))
    · exact h

theorem endCancelled (j : Fin 128) (h : P s) : P (s.endCancelled j) := by
  unfold State.endCancelled
  split
  · split
    · exact K.endJob h
    · exact h
  · exact h

theorem afterWindowChange (j : Fin 128) (p : Fin 32) (h : P s) : P (s.afterWindowChange j p) := by
  unfold State.afterWindowChange
  split
  · split
    · have h1 := K.retryGate j h
      dsimp only
      split
      · split
        · exact K.endDrain j p h1
        · exact K.tryReleases j h1
      · exact h1
    · split
      · exact K.endCancelled j h
      · exact h
    · exact h
  · exact h

theorem freeDelivered (job : Job) (e : WindowEntry) (h : P s) : P (s.freeDelivered job e) := by
  unfold State.freeDelivered
  split
  · split
    · exact K.applyWatermarks (K.freeSheet h)
    · exact h
  · exact h

theorem takeCharge (p : Fin 32) (j : Fin 128) (job : Job) (e : Nat) (z m : Fin 4) (l : List Ink) (hl : l.length ≤ 2)
    (h : P s) : P (s.takeCharge p j job e z m l) := by
  unfold State.takeCharge
  dsimp only
  exact K.meters hl (K.modProgress j (fun x _ => ⟨rfl, fun o => ⟨o.1, satAdd_le _ _ _, o.3, o.4⟩⟩)
    (K.account (sameAccount_charge _ _ _ _) h))

theorem deliver (p : Fin 32) (l : List Ink) (hl : l.length ≤ 2) (h : P s) : P (s.deliver p l) := by
  unfold State.deliver
  split
  · exact h
  split
  · exact h
  split
  · exact h
  · next e rest _ _ job _ _ d _ =>
    have h3 := K.freeDelivered job e (K.takeCharge p e.job job e.estimate d.sizeClass d.media (clampSides d l)
      (Nat.le_trans (List.length_take_le' ..) hl) (K.modProgress e.job (f := fun x => { x with confirmPos := x.confirmPos + 1 })
        (fun x _ => ⟨rfl, fun o => ⟨o.1, o.2, o.3, o.4⟩⟩) (K.setWindow p rest h)))
    dsimp only
    split
    · exact h3
    · split
      · exact K.endJob h3
      · exact K.afterWindowChange _ p h3

theorem lose (p : Fin 32) (k : Nat) (h : P s) : P (s.lose p k) := by
  unfold State.lose
  split
  · exact K.afterWindowChange _ p (K.loseFrom p k h)
  · exact h

theorem queueDropSheets (p : Fin 32) (b : Bool) (h : P s) : P (s.queueDropSheets p b) := by
  unfold State.queueDropSheets
  dsimp only
  split
  · exact h
  · exact K.control h

theorem setNeedsDrop (p : Fin 32) (f : Byte) (h : P s) : P (s.setNeedsDrop p f) :=
  K.queueDropSheets p false (K.printer rfl (fun o => ⟨o.1, o.2, o.3, o.4⟩) h)

theorem loseAllAndDrop (p : Fin 32) (h : P s) : P (s.loseAllAndDrop p) := by
  unfold State.loseAllAndDrop
  split
  · exact h
  · exact K.afterWindowChange _ p (K.setNeedsDrop p _ (K.loseFrom p 0 h))

theorem cancelOnLost (j : Fin 128) (p : Fin 32) (o : JobOutcome) (c : Cause) (h : P s) : P (s.cancelOnLost j p o c) := by
  unfold State.cancelOnLost
  split
  · exact h
  · exact K.endJob (K.setNeedsDrop p _ (K.loseFrom p 0 h))

theorem enterCancelling (j : Fin 128) (p : Fin 32) (o : JobOutcome) (c : Cause) (h : P s) :
    P (s.enterCancelling j p o c) := by
  unfold State.enterCancelling
  split
  · next e _ job _ hj => exact K.budgetTest _ (K.setNeedsDrop p _ (K.progress hj ⟨rfl, fun o => ⟨o.1, o.2, o.3, o.4⟩⟩ h))
  · exact h

theorem cancelPrinting (j : Fin 128) (p : Fin 32) (o : JobOutcome) (c : Cause) (h : P s) : P (s.cancelPrinting j p o c) := by
  unfold State.cancelPrinting
  split
  · exact K.endJob h
  · split
    · exact K.cancelOnLost j p o c h
    · exact K.enterCancelling j p o c h

theorem cancelJob (j : Fin 128) (o : JobOutcome) (c : Cause) (h : P s) : P (s.cancelJob j o c) := by
  have h1 := K.unbindStream j h
  unfold State.cancelJob
  dsimp only
  split
  · exact h1
  · split
    · exact h1
    · split
      · exact K.cancelPrinting j _ o c h1
      · exact h1
    · exact K.endJob h1

theorem settleLost (p : Fin 32) (h : P s) : P (s.settleLost p) := by
  unfold State.settleLost
  split
  · exact h
  split
  · exact h
  split
  · exact K.cancelOnLost _ p _ _ h
  · exact h

theorem becomeLost (p : Fin 32) (h : P s) : P (s.becomeLost p) :=
  K.settleLost p (K.refreshFeed p (K.raiseAt (K.printer rfl (fun o => ⟨Nat.le_refl _, o.2, o.3, o.4⟩) h)))

theorem loseToReroute (p : Fin 32) (h : P s) : P (s.loseToReroute p) := by
  unfold State.loseToReroute
  split
  · exact h
  · next e _ _ =>
    have h1 := K.retryGate e.job (K.loseFrom p 0 h)
    dsimp only
    split
    · exact h1
    · exact K.setNeedsDrop p _ h1

theorem settleStalled (p : Fin 32) (j : Fin 128) (h : P s) : P (s.settleStalled p j) := by
  unfold State.settleStalled
  split
  · exact h
  split
  · split
    · exact K.endDrain j p h
    · exact K.requeue j (K.offerPrinter p (K.detach j p h))
  · exact K.endCancelled j h
  · exact h

theorem stallExpired (p : Fin 32) (h : P s) : P (s.stallExpired p) := by
  have h2 : P (((s.setDisp p { s.disp p with stall := none }).loseToReroute p).raiseEvent (printerKey p .stallRerouted)) :=
    K.raiseAt (K.loseToReroute p (K.disp h))
  unfold State.stallExpired
  dsimp only
  split
  · exact K.settleStalled p _ h2
  · exact h2

/-! ### The Printer Agent -/

theorem exchangeFailed (p : Fin 32) (h : P s) : P (s.exchangeFailed p) := by
  unfold State.exchangeFailed
  dsimp only
  split
  · exact K.printer rfl (fun o => ⟨by show (s.printer p).missed + 1 ≤ 3; omega, o.2, o.3, o.4⟩) h
  · split
    · exact K.printer rfl (fun o => ⟨Nat.le_refl _, o.2, o.3, o.4⟩) h
    · exact K.becomeLost p h

theorem takeRecord (p : Fin 32) (x : DeliveryRecord) (hx : x.printed.length ≤ 2) (h : P s) : P (State.takeRecord p s x) := by
  unfold State.takeRecord
  dsimp only
  split
  · exact K.deliver p _ hx h
  · split
    · exact K.printer rfl (fun o => ⟨o.1, satAdd_le _ _ _, o.3, o.4⟩) h
    · exact K.loseAllAndDrop p (K.protocolError h)

theorem takeCommitted (p : Fin 32) (c : Option Byte) (h : P s) : P (s.takeCommitted p c) := by
  unfold State.takeCommitted
  split
  · split
    · exact h
    split
    · exact K.lose p 0 h
    · dsimp only
      split
      · exact K.lose p _ h
      · split
        · exact K.lose p 0 h
        · exact K.protocolError h
  · exact h

theorem takeCondition (p : Fin 32) (c : Condition) (h : P s) : P (s.takeCondition p c) := by
  unfold State.takeCondition
  dsimp only
  split
  · exact h
  · have h1 : P (s.setPrinter p { s.printer p with condition := some c }) := K.printer rfl (fun o => ⟨o.1, o.2, o.3, o.4⟩) h
    refine K.refreshFeed p (K.raiseConditionAlert p _ (K.clearConditionAlert p _ ?_))
    split
    · exact K.lose p 0 h1
    · exact h1

theorem takeStatus (p : Fin 32) (st : Status) (b : Bool) (hs : StatusOk st) (h : P s) :
    P (s.takeStatus p st b) := by
  have h2 : P ((s.answered p 0).setPrinter p { (s.answered p 0).printer p with room := st.room }) :=
    K.printer rfl (fun o => ⟨o.1, o.2, o.3, hs.room⟩) (K.answered p 0 (fun _ => Nat.zero_le _) h)
  have h3 := State.each_kept_mem st.records (fun t x hx ht => K.takeRecord p x (hs.sides x hx) ht) h2
  unfold State.takeStatus
  dsimp only
  refine K.setPollDue p (K.takeCondition p _ ?_)
  split
  · exact K.takeCommitted p _ h3
  · exact h3

theorem takeNak (p : Fin 32) (feed : Byte) (h : P s) : P (s.takeNak p feed) := by
  have h1 := K.answered p (s.printer p).missed (fun o => o.1) h
  unfold State.takeNak
  dsimp only
  split
  · split
    · exact K.printer rfl (fun o => ⟨o.1, o.2, by simp only; omega, o.4⟩) h1
    · exact K.exchangeFailed p (K.printer rfl (fun o => ⟨o.1, o.2, Nat.zero_le _, o.4⟩) h1)
  · exact h1

theorem takeDataOutcome (p : Fin 32) (feed : Byte) (next : Option Nat) (o : ExchangeOutcome) (h : P s) :
    P (s.takeDataOutcome p feed next o) := by
  unfold State.takeDataOutcome
  split
  · next e => exact K.takeAck p feed next _ (acceptanceOf_room e) h
  · exact K.takeNak p feed h
  · exact K.exchangeFailed p h

theorem takePollOutcome (p : Fin 32) (o : ExchangeOutcome) (h : P s) : P (s.takePollOutcome p o) := by
  unfold State.takePollOutcome
  split
  · next e => exact K.takeStatus p _ _ (statusOf_ok e) h
  · exact K.setPollDue p (K.exchangeFailed p h)

theorem retryDrop (p : Fin 32) (h : P s) : P (s.retryDrop p) := by
  unfold State.retryDrop
  split
  · exact K.queueDropSheets p true h
  · exact h

theorem takeDropOutcome (p : Fin 32) (o : ExchangeOutcome) (h : P s) : P (s.takeDropOutcome p o) := by
  unfold State.takeDropOutcome
  split
  · next e => exact K.offerPrinter p (K.takeStatus p _ _ (statusOf_ok e) (K.printer rfl (fun o => ⟨o.1, o.2, o.3, o.4⟩) h))
  · exact K.setPollDue p (K.retryDrop p (K.exchangeFailed p h))

theorem takeOutcome (p : Fin 32) (k : BlockKind) (o : ExchangeOutcome) (h : P s) : P (s.takeOutcome p k o) := by
  unfold State.takeOutcome
  split
  · split
    · exact K.takePollOutcome p o h
    · exact K.takeDataOutcome p _ _ o h
    · exact K.takeDataOutcome p _ _ o h
    · exact K.takeDropOutcome p o h
    · exact h
  · exact h

theorem printerPortFaulted (p : Fin 32) (h : P s) : P (s.printerPortFaulted p) := by
  unfold State.printerPortFaulted
  split
  · exact h
  · exact K.becomeLost p h

theorem requeueDrop (p : Fin 32) (h : P s) : P (s.requeueDrop p) := by
  unfold State.requeueDrop
  split
  · exact K.queueDropSheets p false h
  · exact h

theorem printerLineReset (p : Fin 32) (h : P s) : P (s.printerLineReset p) :=
  K.requeueDrop p (K.refreshFeed p (K.printer rfl (fun o => ⟨Nat.zero_le _, o.2, o.3, o.4⟩) h))

end KeepsPrinting

end Sys2Proof.Machine
end

