-- ==== Sys2Proof/Laws/Lines.lean ====
section
/-!
SUPPORT. What the operations of the drop lines, the sense inputs and the job streams keep, and what the line arbiters change.
-/

namespace Sys2Proof.Machine

/-! ### What the line arbiters change -/

theorem LinesOnly.refl (s : State) : LinesOnly s s :=
  ⟨rfl, fun _ => rfl, fun _ _ => rfl, fun _ _ => Or.inl rfl, fun _ => rfl⟩

theorem LinesOnly.trans {s t u : State} (h : LinesOnly s t) (k : LinesOnly t u) : LinesOnly s u where
  rest := by rw [k.rest, h.rest]
  printers p := by rw [k.printers p, h.printers p]
  busy q hq := by rw [k.busy q (by rw [h.busy q hq]; exact hq), h.busy q hq]
  lines q hq := by
    by_cases ht : (t.port q).line = .idle
    · cases h.lines q hq with
      | inl e => cases k.lines q ht with
        | inl e2 => exact Or.inl (e2.trans e)
        | inr e2 => exact Or.inr e2
      | inr e => rw [e] at ht; cases ht
    · rw [k.busy q ht]; exact h.lines q hq
  ports q := by rw [k.ports q, h.ports q]

/-- The count of free values rises. -/
theorem linesOnly_countChoice (s : State) : LinesOnly s s.countChoice :=
  ⟨rfl, fun _ => rfl, fun _ _ => rfl, fun _ _ => Or.inl rfl, fun _ => rfl⟩

/-- A printer's room changes. -/
theorem linesOnly_room (s : State) (p : Fin 32) (n : Nat) : LinesOnly s (s.setPrinter p { s.printer p with room := n }) where
  rest := rfl
  printers r := by
    rw [State.printer_setPrinter]
    split
    · next e => subst e; rfl
    · rfl
  busy _ _ := rfl
  lines _ _ := Or.inl rfl
  ports _ := rfl

/-- An IDLE port begins an exchange. -/
theorem linesOnly_port (s : State) (q : Fin 8) (f : Port → Port) (hl : (s.port q).line = .idle)
    (hx : (f (s.port q)).line = .transmitting)
    (hp : f (s.port q) = { s.port q with
      line := (f (s.port q)).line
      attention := (f (s.port q)).attention
      control := (f (s.port q)).control
      lastDrop := (f (s.port q)).lastDrop
      exchange := (f (s.port q)).exchange
      reply := (f (s.port q)).reply }) : LinesOnly s (s.modPort q f) where
  rest := rfl
  printers _ := rfl
  busy r hr := by
    unfold State.modPort
    rw [State.port_setPort, if_neg (fun e => hr (by rw [e, hl]))]
  lines r hr := by
    unfold State.modPort
    rw [State.port_setPort]
    split
    · exact Or.inr hx
    · exact Or.inl rfl
  ports r := by
    unfold State.modPort
    rw [State.port_setPort]
    split
    · next e => rw [e]; exact hp
    · rfl

/-- Two changes of a port are one. -/
theorem modPort_modPort (s : State) (q : Fin 8) (f g : Port → Port) :
    (s.modPort q f).modPort q g = s.modPort q fun x => g (f x) := by
  unfold State.modPort
  rw [State.port_setPort, if_pos rfl]
  unfold State.setPort
  simp only [put_put]

theorem linesOnly_beginExchange (s : State) (q : Fin 8) (d : Fin 4) (k : BlockKind) (c : Byte) (l : List Byte)
    (f : Port → Port) (hl : (s.port q).line = .idle)
    (hf : f (s.port q) = { s.port q with
      attention := (f (s.port q)).attention
      control := (f (s.port q)).control
      lastDrop := (f (s.port q)).lastDrop }) :
    LinesOnly s ((s.modPort q f).beginExchange q d k c l) := by
  unfold State.beginExchange
  rw [modPort_modPort]
  refine linesOnly_port s q _ hl rfl ?_
  dsimp only
  rw [hf]

/-- R83: a grant on an IDLE line. -/
theorem linesOnly_grant (s : State) (q : Fin 8) (g : Grant) (hl : (s.port q).line = .idle) : LinesOnly s (s.grant q g) := by
  cases g with
  | attention d =>
    show LinesOnly s (State.beginExchange _ q d _ _ _)
    exact linesOnly_beginExchange s q d _ _ _ _ hl rfl
  | control d =>
    show LinesOnly s (s.grantControl q d)
    unfold State.grantControl
    dsimp only
    split
    · exact (linesOnly_countChoice s).trans (linesOnly_beginExchange s.countChoice q d _ _ _ _ hl rfl)
    · exact linesOnly_beginExchange s q d _ _ _ _ hl rfl
  | poll d =>
    show LinesOnly s (s.beginExchange q d _ _ _)
    unfold State.beginExchange
    exact linesOnly_port s q _ hl rfl rfl
  | data d =>
    show LinesOnly s (s.grantData q d)
    unfold State.grantData
    split
    · next k c l _ =>
      unfold State.spendRoom
      split
      · exact (linesOnly_room s _ _).trans (linesOnly_beginExchange _ q d _ _ _ _ hl rfl)
      · exact linesOnly_beginExchange s q d _ _ _ _ hl rfl
    · exact LinesOnly.refl s

theorem linesOnly_serviceLine (s : State) (q : Fin 8) : LinesOnly s (s.serviceLine q) := by
  unfold State.serviceLine
  split
  · next hl =>
    split
    · exact linesOnly_grant s q _ hl
    · exact LinesOnly.refl s
  · exact LinesOnly.refl s

/-- R83: all that the line arbiters change at the end of a command. -/
theorem linesOnly_serviceLines (s : State) : LinesOnly s s.serviceLines :=
  State.each_kept (P := LinesOnly s) (fun t q h => h.trans (linesOnly_serviceLine t q)) _ (LinesOnly.refl s)

end Sys2Proof.Machine
end

