-- ==== Sys2Proof/Laws/Spool.lean ====
section
/-!
SUPPORT. The laws of the spool DRAM (canonical form, read after write) and of the descriptors in use (R6, R7).
-/

namespace Sys2Proof.Machine

/-! ### Spool DRAM -/

theorem wfFrom_mono {m : List Host.Cell} {a b : Nat} (h : a ≤ b) (w : Memory.wfFrom b m = true) : Memory.wfFrom a m = true := by
  cases m with
  | nil => rfl
  | cons x m =>
    obtain ⟨y, v⟩ := x
    simp only [Memory.wfFrom, Bool.and_eq_true, decide_eq_true_eq] at w ⊢
    exact ⟨⟨⟨Nat.le_trans h w.1.1.1, w.1.1.2⟩, w.1.2⟩, w.2⟩

theorem wfFrom_write {m : List Host.Cell} {low x : Nat} {v : Byte} (hx : low ≤ x) (hs : x < Memory.size)
    (w : Memory.wfFrom low m = true) : Memory.wfFrom low (Memory.write m x v) = true := by
  induction m generalizing low with
  | nil =>
    unfold Memory.write
    split
    · rfl
    · next hv => simp [Memory.wfFrom, hx, hs, hv]
  | cons y m ih =>
    obtain ⟨a, b⟩ := y
    simp only [Memory.wfFrom, Bool.and_eq_true, decide_eq_true_eq] at w
    unfold Memory.write
    split
    · next hl =>
      split
      · simp [Memory.wfFrom, w]
      · next hv =>
        simp only [Memory.wfFrom, Bool.and_eq_true, decide_eq_true_eq]
        exact ⟨⟨⟨hx, hs⟩, by simp [hv]⟩, ⟨⟨by omega, w.1.1.2⟩, w.1.2⟩, w.2⟩
    split
    · next hl e =>
      split
      · exact wfFrom_mono (by omega) w.2
      · next hv =>
        subst e
        simp only [Memory.wfFrom, Bool.and_eq_true, decide_eq_true_eq]
        exact ⟨⟨⟨hx, hs⟩, by simp [hv]⟩, w.2⟩
    · next hl e =>
      simp only [Memory.wfFrom, Bool.and_eq_true, decide_eq_true_eq]
      exact ⟨w.1, ih (by omega) w.2⟩

/-- A write keeps the canonical form. -/
theorem wf_write {m : List Host.Cell} {x : Nat} {v : Byte} (hs : x < Memory.size) (w : Memory.wf m = true) :
    Memory.wf (Memory.write m x v) = true := wfFrom_write (Nat.zero_le x) hs w

theorem imageAddress_lt {blocks : List (Fin 32768)} {pos a : Nat} (h : imageAddress blocks pos = some a) : a < Memory.size := by
  unfold imageAddress at h
  split at h
  · next b _ =>
    cases h
    have := b.isLt
    have : pos % Config.blockBytes < Config.blockBytes := Nat.mod_lt _ (by decide)
    unfold Memory.size
    unfold Config.blockBytes at *
    omega
  · cases h

/-- A sheet's data written keeps the canonical form. -/
theorem wf_writeImage (blocks : List (Fin 32768)) : ∀ (bytes : List Byte) (pos : Nat) (m : List Host.Cell),
    Memory.wf m = true → Memory.wf (writeImage blocks pos bytes m) = true
  | [], _, _, w => w
  | v :: bytes, pos, m, w => by
    unfold writeImage
    split
    · next a e => exact wf_writeImage blocks bytes (pos + 1) _ (wf_write (imageAddress_lt e) w)
    · exact w

theorem read_below {m : List Host.Cell} {low x : Nat} (w : Memory.wfFrom low m = true) (h : x < low) :
    Memory.read m x = dramDefault := by
  cases m with
  | nil => rfl
  | cons y m =>
    obtain ⟨a, b⟩ := y
    simp only [Memory.wfFrom, Bool.and_eq_true, decide_eq_true_eq] at w
    unfold Memory.read
    rw [if_neg (by omega), if_pos (by omega)]

/-- What a byte reads as after a write. -/
theorem read_write {m : List Host.Cell} (w : Memory.wf m = true) (x : Nat) (v : Byte) (y : Nat) :
    Memory.read (Memory.write m x v) y = if y = x then v else Memory.read m y := by
  unfold Memory.wf at w
  generalize 0 = low at w
  induction m generalizing low with
  | nil =>
    unfold Memory.write
    split
    · next hv => subst hv; simp [Memory.read]
    · simp only [Memory.read]
      split
      · rfl
      · split <;> rfl
  | cons c m ih =>
    obtain ⟨a, b⟩ := c
    simp only [Memory.wfFrom, Bool.and_eq_true, decide_eq_true_eq] at w
    unfold Memory.write
    split
    · next hl =>
      split
      · next hv =>
        split
        · next e => subst e; unfold Memory.read; rw [if_neg (by omega), if_pos hl, hv]
        · rfl
      · by_cases e : y = x
        · rw [if_pos e, Memory.read, if_pos e]
        · rw [if_neg e, Memory.read, if_neg e]
          split
          · next h => unfold Memory.read; rw [if_neg (by omega), if_pos (by omega)]
          · rfl
    split
    · next hl e =>
      subst e
      split
      · next hv =>
        by_cases e : y = x
        · rw [if_pos e, hv, e]; exact read_below w.2 (by omega)
        · rw [if_neg e]
          conv => rhs; unfold Memory.read
          rw [if_neg e]
          split
          · next h => exact read_below w.2 (by omega)
          · rfl
      · by_cases e : y = x
        · rw [if_pos e, Memory.read, if_pos e]
        · rw [if_neg e, Memory.read, if_neg e, Memory.read, if_neg e]
    · next hl e =>
      conv => lhs; unfold Memory.read
      conv => rhs; unfold Memory.read
      by_cases h : y = a
      · rw [if_pos h, if_pos h, if_neg (by omega)]
      · rw [if_neg h, if_neg h]
        by_cases h2 : y < a
        · rw [if_pos h2, if_pos h2, if_neg (by omega)]
        · rw [if_neg h2, if_neg h2]; exact ih (a + 1) w.2

/-- A byte at no address of the image written reads as before. -/
theorem read_writeImage (blocks : List (Fin 32768)) : ∀ (bytes : List Byte) (pos : Nat) (m : List Host.Cell) (y : Nat),
    Memory.wf m = true → (∀ i, i < bytes.length → imageAddress blocks (pos + i) ≠ some y) →
    Memory.read (writeImage blocks pos bytes m) y = Memory.read m y
  | [], _, _, _, _, _ => rfl
  | v :: bytes, pos, m, y, w, h => by
    unfold writeImage
    split
    · next a e =>
      have ha : y ≠ a := fun ey => h 0 (by simp) (by rw [Nat.add_zero, e, ey])
      rw [read_writeImage blocks bytes (pos + 1) _ y (wf_write (imageAddress_lt e) w)
        (fun i hi => by have := h (i + 1) (by simp; omega); rwa [Nat.add_assoc, Nat.add_comm 1 i])]
      rw [read_write w, if_neg ha]
    · rfl

/-! ### Descriptors in use -/

/-- The numbers of the descriptors in use rise strictly. -/
def Sorted (l : List (Nat × SheetDesc)) : Prop := (l.map Prod.fst).Pairwise (· < ·)

theorem Sorted.tail {x : Nat × SheetDesc} {l : List (Nat × SheetDesc)} (h : Sorted (x :: l)) : Sorted l := by
  unfold Sorted at *; rw [List.map_cons, List.pairwise_cons] at h; exact h.2

theorem Sorted.head {x : Nat × SheetDesc} {l : List (Nat × SheetDesc)} (h : Sorted (x :: l)) : ∀ y ∈ l, x.1 < y.1 := by
  unfold Sorted at *
  rw [List.map_cons, List.pairwise_cons] at h
  exact fun y hy => h.1 y.1 (List.mem_map.2 ⟨y, hy, rfl⟩)

theorem Sorted.cons {x : Nat × SheetDesc} {l : List (Nat × SheetDesc)} (h : ∀ y ∈ l, x.1 < y.1) (k : Sorted l) :
    Sorted (x :: l) := by
  unfold Sorted at *
  rw [List.map_cons, List.pairwise_cons]
  exact ⟨fun a ha => by obtain ⟨y, hy, rfl⟩ := List.mem_map.1 ha; exact h y hy, k⟩

theorem findDesc_none_of_lt {l : List (Nat × SheetDesc)} {n : Nat} (h : ∀ y ∈ l, n < y.1) : findDesc l n = none := by
  induction l with
  | nil => rfl
  | cons x l ih =>
    obtain ⟨k, d⟩ := x
    unfold findDesc
    have := h (k, d) (List.mem_cons_self ..)
    rw [if_neg (by simp only at this; omega)]
    exact ih fun y hy => h y (List.mem_cons_of_mem _ hy)

theorem findDesc_mem {l : List (Nat × SheetDesc)} {n : Nat} {d : SheetDesc} (h : findDesc l n = some d) : (n, d) ∈ l := by
  induction l with
  | nil => cases h
  | cons x l ih =>
    obtain ⟨k, y⟩ := x
    unfold findDesc at h
    split at h
    · next e => cases h; rw [e]; exact List.mem_cons_self ..
    · exact List.mem_cons_of_mem _ (ih h)

theorem findDesc_isSome {l : List (Nat × SheetDesc)} {n : Nat} (h : n ∈ l.map Prod.fst) : (findDesc l n).isSome = true := by
  induction l with
  | nil => cases h
  | cons x l ih =>
    obtain ⟨k, y⟩ := x
    unfold findDesc
    split
    · rfl
    · next e =>
      cases List.mem_cons.1 h with
      | inl e2 => exact absurd e2 e
      | inr e2 => exact ih e2

theorem putDesc_mem {l : List (Nat × SheetDesc)} {n : Nat} {d : SheetDesc} {y : Nat × SheetDesc} (h : y ∈ putDesc l n d) :
    y = (n, d) ∨ y ∈ l := by
  induction l with
  | nil => exact Or.inl (List.mem_singleton.1 h)
  | cons x l ih =>
    obtain ⟨k, z⟩ := x
    unfold putDesc at h
    split at h
    · exact List.mem_cons.1 h
    split at h
    · cases List.mem_cons.1 h with
      | inl e => exact Or.inl e
      | inr e => exact Or.inr (List.mem_cons_of_mem _ e)
    · cases List.mem_cons.1 h with
      | inl e => exact Or.inr (e ▸ List.mem_cons_self ..)
      | inr e =>
        cases ih e with
        | inl e2 => exact Or.inl e2
        | inr e2 => exact Or.inr (List.mem_cons_of_mem _ e2)

theorem putDesc_sorted {l : List (Nat × SheetDesc)} (n : Nat) (d : SheetDesc) (h : Sorted l) : Sorted (putDesc l n d) := by
  induction l with
  | nil => exact Sorted.cons (fun _ hy => nomatch hy) List.Pairwise.nil
  | cons x l ih =>
    obtain ⟨k, z⟩ := x
    unfold putDesc
    split
    · next hn =>
      refine Sorted.cons (fun y hy => ?_) h
      cases List.mem_cons.1 hy with
      | inl e => rw [e]; exact hn
      | inr e => exact Nat.lt_trans hn (h.head y e)
    split
    · next hn hk => exact Sorted.cons (fun y hy => by have := h.head y hy; simp only at *; omega) h.tail
    · next hn hk =>
      refine Sorted.cons (fun y hy => ?_) (ih h.tail)
      cases putDesc_mem hy with
      | inl e => rw [e]; simp only; omega
      | inr e => exact h.head y e

theorem putDesc_keys_sublist (l : List (Nat × SheetDesc)) (n : Nat) (d : SheetDesc) :
    (l.map Prod.fst).Sublist ((putDesc l n d).map Prod.fst) := by
  induction l with
  | nil => exact List.nil_sublist _
  | cons x l ih =>
    obtain ⟨k, z⟩ := x
    unfold putDesc
    split
    · exact List.sublist_cons_self _ _
    split
    · next e => simp [e]
    · exact ih.cons_cons _

/-- A descriptor in use filled anew leaves the numbers as they were. -/
theorem putDesc_keys {l : List (Nat × SheetDesc)} {n : Nat} {x : SheetDesc} (d : SheetDesc) (h : Sorted l)
    (hf : findDesc l n = some x) : (putDesc l n d).map Prod.fst = l.map Prod.fst := by
  induction l with
  | nil => cases hf
  | cons y l ih =>
    obtain ⟨k, z⟩ := y
    unfold putDesc
    split
    · next hn =>
      rw [findDesc_none_of_lt (fun y hy => ?_)] at hf
      · cases hf
      · cases List.mem_cons.1 hy with
        | inl e => rw [e]; exact hn
        | inr e => exact Nat.lt_trans hn (h.head y e)
    split
    · next e => simp [e]
    · next e =>
      unfold findDesc at hf
      rw [if_neg e] at hf
      simp only [List.map_cons, ih h.tail hf]

/-- A free descriptor taken adds its number. -/
theorem putDesc_keys_new {l : List (Nat × SheetDesc)} {n : Nat} (d : SheetDesc) (hf : n ∉ l.map Prod.fst) :
    ((putDesc l n d).map Prod.fst).Perm (n :: l.map Prod.fst) := by
  induction l with
  | nil => exact List.Perm.refl _
  | cons y l ih =>
    obtain ⟨k, z⟩ := y
    simp only [List.map_cons, List.mem_cons, not_or] at hf
    unfold putDesc
    split
    · exact List.Perm.refl _
    rw [if_neg hf.1]
    simp only [List.map_cons]
    exact ((ih hf.2).cons k).trans (List.Perm.swap ..)

/-- R7: what a descriptor filled anew does to the blocks in use. -/
theorem blocks_putDesc {l : List (Nat × SheetDesc)} {n : Nat} {x : SheetDesc} (d : SheetDesc) (h : Sorted l)
    (hf : findDesc l n = some x) : (blocksInUse (putDesc l n d) ++ x.blocks).Perm (blocksInUse l ++ d.blocks) := by
  induction l with
  | nil => cases hf
  | cons y l ih =>
    obtain ⟨k, z⟩ := y
    have hf' := hf
    unfold findDesc at hf'
    unfold putDesc
    split
    · next hn =>
      rw [findDesc_none_of_lt (fun y hy => ?_)] at hf
      · cases hf
      · cases List.mem_cons.1 hy with
        | inl e => rw [e]; exact hn
        | inr e => exact Nat.lt_trans hn (h.head y e)
    split
    · next e =>
      rw [if_pos e] at hf'
      cases hf'
      simp only [blocksInUse, List.flatMap_cons]
      rw [List.append_assoc]
      exact (List.perm_append_comm (l₁ := d.blocks)).trans (List.perm_append_comm.append_right _)
    · next e =>
      rw [if_neg e] at hf'
      simp only [blocksInUse, List.flatMap_cons, List.append_assoc]
      exact List.Perm.append_left _ (ih h.tail hf')

/-- R7: a descriptor with no blocks taken leaves the blocks in use as they were. -/
theorem blocks_putDesc_new {l : List (Nat × SheetDesc)} {n : Nat} {d : SheetDesc} (hd : d.blocks = [])
    (hf : n ∉ l.map Prod.fst) : blocksInUse (putDesc l n d) = blocksInUse l := by
  induction l with
  | nil => simp [blocksInUse, putDesc, hd]
  | cons y l ih =>
    obtain ⟨k, z⟩ := y
    simp only [List.map_cons, List.mem_cons, not_or] at hf
    unfold putDesc
    split
    · simp [blocksInUse, hd]
    rw [if_neg hf.1]
    have := ih hf.2
    simp only [blocksInUse, List.flatMap_cons] at *
    rw [this]

/-- R6: the lowest-numbered free descriptor is free, and no lower one is. -/
theorem lowestFree_spec {l : List (Nat × SheetDesc)} {low : Nat} (h : Sorted l) (hl : ∀ y ∈ l, low ≤ y.1) :
    lowestFree low l ∉ l.map Prod.fst ∧ low ≤ lowestFree low l ∧
      (∀ m, low ≤ m → m < lowestFree low l → m ∈ l.map Prod.fst) ∧ lowestFree low l ≤ low + l.length := by
  induction l generalizing low with
  | nil => exact ⟨by simp, Nat.le_refl _, fun m h1 h2 => absurd (show m < low from h2) (by omega), Nat.le_refl _⟩
  | cons y l ih =>
    obtain ⟨k, z⟩ := y
    unfold lowestFree
    have hk : low ≤ k := hl (k, z) (List.mem_cons_self ..)
    split
    · next hn =>
      refine ⟨?_, Nat.le_refl _, fun m h1 h2 => by omega, by omega⟩
      intro hm
      obtain ⟨y, hy, e⟩ := List.mem_map.1 hm
      cases List.mem_cons.1 hy with
      | inl e2 => rw [e2] at e; simp only at e; omega
      | inr e2 => have := h.head y e2; simp only at this; omega
    · next hn =>
      have hkl : k = low := by omega
      have hi := ih (low := k + 1) h.tail (fun y hy => h.head y hy)
      refine ⟨?_, by omega, fun m h1 h2 => ?_, by simp only [List.length_cons]; omega⟩
      · simp only [List.map_cons, List.mem_cons, not_or]
        exact ⟨by omega, hi.1⟩
      · simp only [List.map_cons, List.mem_cons]
        by_cases e : m = k
        · exact Or.inl e
        · exact Or.inr (hi.2.2.1 m (by omega) h2)

end Sys2Proof.Machine
end

