-- ==== Sys2Proof/Laws/Commands.lean ====
section
/-!
SUPPORT. What the operations of the drop lines, the sense inputs, the job streams and the tables keep, up to `exec` and `step`.
-/

namespace Sys2Proof.Machine

/-! ### A RESTART's wait, and the sample of a tick -/

/-- R172: at the end of its wait the part resets with cause RESTART. -/
theorem State.restartNow_over (s : State) (h : s.jli.restart = some 0) : s.restartNow = s.resetKeeping .restart := by
  simp [State.restartNow, h]

/-- R172: before the end of its wait nothing happens. -/
theorem State.restartNow_waiting (s : State) (h : s.jli.restart ≠ some 0) : s.restartNow = s := by
  simp [State.restartNow, h]

/-- R161: a filter that has sampled at this tick takes no second sample. -/
theorem State.takeSample_taken (s : State) (levels : BitVec 32) (p : Fin 32) (h : s.sampleDue p = false) :
    State.takeSample levels s p = s := by
  simp [State.takeSample, h]

/-- R161: a filter that has sampled at this tick takes no change. -/
theorem State.changeDue_taken (s : State) (p : Fin 32) (high : Bool) (h : s.sampleDue p = false) :
    s.changeDue p high = false := by
  simp [State.changeDue, h]

/-! ### Drop lines -/

/-- A port keeps its record, and its ranges hold on. -/
def SamePort (x y : Port) : Prop := y.config = x.config ∧ (PortOk x → PortOk y)

theorem SamePort.refl (x : Port) : SamePort x x := ⟨rfl, id⟩

theorem SamePort.trans {x y z : Port} (h : SamePort x y) (k : SamePort y z) : SamePort x z :=
  ⟨k.1.trans h.1, fun o => k.2 (h.2 o)⟩

/-- The counts and the control queue of a port are kept, and its record. -/
theorem SamePort.of_eq {x y : Port} (hc : y.config = x.config) (h1 : y.noise = x.noise) (h2 : y.framing = x.framing)
    (h3 : y.contention = x.contention) (h4 : y.protocolErrors = x.protocolErrors) (h5 : y.control = x.control) :
    SamePort x y :=
  ⟨hc, fun o => ⟨h1 ▸ o.1, h2 ▸ o.2, h3 ▸ o.3, h4 ▸ o.4, h5 ▸ o.5⟩⟩

theorem samePort_endWait (x : Port) : SamePort x x.endWait := by
  unfold Port.endWait
  split
  · exact SamePort.of_eq rfl rfl rfl rfl rfl rfl
  · exact SamePort.refl x

theorem samePort_enterRecovering (x : Port) (now : Time) : SamePort x (x.enterRecovering now) :=
  SamePort.trans (y := { x with line := .recovering, recoverExpiry := some (after now Config.recoveryLimit) })
    (SamePort.of_eq rfl rfl rfl rfl rfl rfl) (samePort_endWait _)

theorem samePort_startLineReset (x : Port) (now : Time) : SamePort x (x.startLineReset now) := by
  unfold Port.startLineReset
  dsimp only
  split
  · exact SamePort.trans (y := { x with
      exchange := some lineResetExchange
      reply := []
      restartPending := false
      windowExpiry := none
      restExpiry := none }) (SamePort.of_eq rfl rfl rfl rfl rfl rfl) (samePort_endWait _)
  · exact SamePort.trans (y := { x with
      exchange := some lineResetExchange
      reply := []
      restartPending := false
      windowExpiry := none
      restExpiry := none }) (SamePort.of_eq rfl rfl rfl rfl rfl rfl) (samePort_enterRecovering _ _)

theorem samePort_down (x : Port) : SamePort x x.down := ⟨rfl, fun o => ⟨o.1, o.2, o.3, o.4, List.nodup_nil⟩⟩

theorem samePort_moveOn (x : Port) (ok : Bool) (now : Time) : SamePort x (x.moveOn ok now) := by
  unfold Port.moveOn
  split
  · exact SamePort.refl x
  split
  · exact samePort_startLineReset x now
  split
  · exact SamePort.of_eq rfl rfl rfl rfl rfl rfl
  · exact samePort_enterRecovering x now

theorem samePort_dropExchange (x : Port) : SamePort x x.dropExchange := SamePort.of_eq rfl rfl rfl rfl rfl rfl

theorem samePort_endCharacter (x : Port) (c : CharSamples) : SamePort x (x.endCharacter c) := by
  refine ⟨rfl, fun o => ⟨?_, ?_, o.3, o.4, o.5⟩⟩
  · show (if _ then satAdd Config.max16 x.noise 1 else x.noise) ≤ _
    split
    · exact satAdd_le _ _ _
    · exact o.1
  · show (if _ then satAdd Config.max16 x.framing 1 else x.framing) ≤ _
    split
    · exact satAdd_le _ _ _
    · exact o.2

/-- A part of the control queue names different drops too. -/
theorem control_filter_nodup {l : List ControlBlock} (f : ControlBlock → Bool) (h : (l.map ControlBlock.drop).Nodup) :
    ((l.filter f).map ControlBlock.drop).Nodup :=
  List.Nodup.sublist (List.Sublist.map _ List.filter_sublist) h

/-- `P` survives, besides, a use of a free value. -/
structure KeepsLines (P : State → Prop) : Prop extends KeepsPrinting P where
  choice : ∀ {s}, P s → P s.countChoice
  port : ∀ {s q x}, x.config = (s.port q).config → (PortOk (s.port q) → PortOk x) → P s → P (s.setPort q x)

namespace KeepsLines

variable {P : State → Prop} (K : KeepsLines P) {s : State}
include K

theorem setPort (q : Fin 8) {x : Port} (hx : SamePort (s.port q) x) (h : P s) : P (s.setPort q x) := K.port hx.1 hx.2 h

theorem changePort (q : Fin 8) {f : Port → Port} (hf : SamePort (s.port q) (f (s.port q))) (h : P s) : P (s.modPort q f) :=
  K.port hf.1 hf.2 h

theorem beginExchange (q : Fin 8) (d : Fin 4) (k : BlockKind) (c : Byte) (l : List Byte) (h : P s) :
    P (s.beginExchange q d k c l) := K.changePort q (SamePort.of_eq rfl rfl rfl rfl rfl rfl) h

theorem grantControl (q : Fin 8) (d : Fin 4) (h : P s) : P (s.grantControl q d) := by
  unfold State.grantControl
  dsimp only
  split
  · exact K.beginExchange q d _ _ _ (K.changePort q
      ⟨rfl, fun o => ⟨o.1, o.2, o.3, o.4, control_filter_nodup _ o.5⟩⟩ (K.choice h))
  · exact K.beginExchange q d _ _ _ (K.changePort q ⟨rfl, fun o => ⟨o.1, o.2, o.3, o.4, control_filter_nodup _ o.5⟩⟩ h)

theorem spendRoom (p : Fin 32) (k : BlockKind) (h : P s) : P (s.spendRoom p k) := by
  unfold State.spendRoom
  split
  · exact K.printer rfl (fun o => ⟨o.1, o.2, o.3, Nat.le_trans (Nat.sub_le _ _) o.4⟩) h
  · exact h

theorem grantData (q : Fin 8) (d : Fin 4) (h : P s) : P (s.grantData q d) := by
  unfold State.grantData
  split
  · exact K.beginExchange q d _ _ _ (K.changePort q (SamePort.of_eq rfl rfl rfl rfl rfl rfl) (K.spendRoom _ _ h))
  · exact h

theorem grant (q : Fin 8) (g : Grant) (h : P s) : P (s.grant q g) := by
  cases g with
  | attention d => exact K.beginExchange q d _ _ _ (K.changePort q (SamePort.of_eq rfl rfl rfl rfl rfl rfl) h)
  | control d => exact K.grantControl q d h
  | poll d => exact K.beginExchange q d _ _ _ h
  | data d => exact K.grantData q d h

theorem serviceLine (q : Fin 8) (h : P s) : P (s.serviceLine q) := by
  unfold State.serviceLine
  split
  · split
    · exact K.grant q _ h
    · exact h
  · exact h

theorem serviceLines (h : P s) : P s.serviceLines := State.each_kept (fun _ q ht => K.serviceLine q ht) _ h

theorem portDown (q : Fin 8) (h : P s) : P (s.portDown q) :=
  KeepsDispatch.eachConfigured q (fun _ p ht => K.printerPortDown p ht)
    (K.clear (K.changePort q (samePort_down _) h))

theorem applyConfig (q : Fin 8) (h : P s) : P (s.applyConfig q) := by
  have h1 : P (s.modPort q Port.takeRates) := K.changePort q (SamePort.of_eq rfl rfl rfl rfl rfl rfl) h
  unfold State.applyConfig
  dsimp only
  split
  · split
    · refine K.setPort q (SamePort.trans ?_ (samePort_startLineReset _ _)) h1
      exact SamePort.of_eq rfl rfl rfl rfl rfl rfl
    · exact h1
  · split
    · exact h1
    · exact K.portDown q h1

theorem handOutcome (q : Fin 8) (o : ExchangeOutcome) (h : P s) : P (s.handOutcome q o) := by
  unfold State.handOutcome
  split
  · exact K.takeOutcome _ _ o h
  · exact h

theorem dropExchange (q : Fin 8) (h : P s) : P (s.modPort q Port.dropExchange) :=
  K.changePort q (f := Port.dropExchange) (samePort_dropExchange _) h

theorem finishExchange (q : Fin 8) (o : ExchangeOutcome) (h : P s) : P (s.finishExchange q o) := by
  have h1 := K.applyConfig q (K.dropExchange q (K.handOutcome q o h))
  unfold State.finishExchange
  exact K.changePort q (samePort_moveOn _ _ _) h1

theorem enterFaulted (q : Fin 8) (h : P s) :
    P (s.modPort q fun x => { x with line := .faulted, recoverExpiry := none, windowExpiry := none }) :=
  K.changePort q (SamePort.of_eq rfl rfl rfl rfl rfl rfl) h

theorem quiet (q : Fin 8) (h : P s) : P (s.modPort q fun x => { x with attention := 0#4, restartPending := false }) :=
  K.changePort q (SamePort.of_eq rfl rfl rfl rfl rfl rfl) h

theorem startRest (q : Fin 8) (t : Time) (h : P s) : P (s.modPort q fun x => { x with restExpiry := some t }) :=
  K.changePort q (SamePort.of_eq rfl rfl rfl rfl rfl rfl) h

theorem faultPort (q : Fin 8) (h : P s) : P (s.faultPort q) := by
  have h3 := K.quiet q (K.dropExchange q (K.handOutcome q .noReply (K.enterFaulted q h)))
  have h4 := K.raise (portFaultKey q) (KeepsDispatch.eachConfigured q (fun _ p ht => K.printerPortFaulted p ht) h3)
  unfold State.faultPort
  exact K.applyConfig q (K.startRest q _ h4)

theorem contend (q : Fin 8) (h : P s) : P (s.contend q) := by
  unfold State.contend
  split
  · exact h
  · next e he =>
    have h1 : P (s.modPort q fun x =>
        { x with
          contention := satAdd Config.max16 x.contention 1
          exchange := some { e with contentions := e.contentions + 1, echoed := 0 } }) :=
      K.changePort q ⟨rfl, fun o => ⟨o.1, o.2, satAdd_le _ _ _, o.4, o.5⟩⟩ h
    dsimp only
    split
    · exact K.faultPort q h1
    · refine K.changePort q (SamePort.trans ?_ (samePort_enterRecovering _ _)) h1
      exact SamePort.of_eq rfl rfl rfl rfl rfl rfl

theorem lineResetDone (q : Fin 8) (h : P s) : P (s.lineResetDone q) := by
  have h1 := K.applyConfig q (K.dropExchange q h)
  unfold State.lineResetDone
  dsimp only
  split
  · exact h1
  · exact KeepsDispatch.eachConfigured q (fun _ p ht => K.printerLineReset p ht)
      (K.changePort q (SamePort.of_eq rfl rfl rfl rfl rfl rfl)
        (K.clear (K.changePort q (SamePort.of_eq rfl rfl rfl rfl rfl rfl) h1)))

theorem transmitted (q : Fin 8) (k : BlockKind) (h : P s) : P (s.transmitted q k) := by
  unfold State.transmitted
  split
  · exact K.lineResetDone q h
  · exact K.changePort q (SamePort.of_eq rfl rfl rfl rfl rfl rfl) h

theorem takeEcho (q : Fin 8) (r : CharReport) (h : P s) : P (s.takeEcho q r) := by
  unfold State.takeEcho
  split
  · exact h
  split
  · exact h
  · split
    · dsimp only
      split
      · exact K.transmitted q _ (K.changePort q (SamePort.of_eq rfl rfl rfl rfl rfl rfl) h)
      · exact K.changePort q (SamePort.of_eq rfl rfl rfl rfl rfl rfl) h
    · exact K.contend q h

theorem takeReplyCharacter (q : Fin 8) (d : Byte) (m : Bool) (h : P s) : P (s.takeReplyCharacter q d m) := by
  unfold State.takeReplyCharacter
  dsimp only
  split
  · exact K.finishExchange q _ h
  split
  · exact K.finishExchange q _ h
  · exact K.changePort q (SamePort.of_eq rfl rfl rfl rfl rfl rfl) h

theorem requestAttention (q : Fin 8) (h : P s) : P (s.requestAttention q) := by
  unfold State.requestAttention
  split
  · exact K.changePort q (SamePort.of_eq rfl rfl rfl rfl rfl rfl) h
  · exact h

theorem takeBadReport (q : Fin 8) (b : Bool) (h : P s) : P (s.takeBadReport q b) := by
  have h1 := K.finishExchange q .badReply h
  unfold State.takeBadReport
  dsimp only
  split
  · exact K.requestAttention q h1
  · exact h1

theorem takeReport (q : Fin 8) (r : CharReport) (h : P s) : P (s.takeReport q r) := by
  unfold State.takeReport
  split
  · exact K.takeEcho q _ h
  · exact K.takeReplyCharacter q _ _ h
  · exact K.takeBadReport q _ h
  · exact K.takeBadReport q _ h
  · exact K.takeBadReport q _ h
  · exact K.requestAttention q h
  · split
    · exact h
    · exact K.requestAttention q h
  · exact h

theorem receive (q : Fin 8) (c : CharSamples) (h : P s) : P (s.receive q c) := by
  unfold State.receive
  split
  · exact K.takeReport q _ (K.changePort q (samePort_endCharacter _ _) h)
  · exact h

theorem receiveAndServe (q : Fin 8) (c : CharSamples) (h : P s) : P (s.receiveAndServe q c) :=
  K.serviceLines (K.receive q c h)

theorem startConfirmed (q : Fin 8) (c : StartSamples) (h : P s) : P (s.startConfirmed q c) := by
  unfold State.startConfirmed
  dsimp only
  split
  · exact K.setPort q (SamePort.of_eq rfl rfl rfl rfl rfl rfl) h
  · exact h

theorem lineIdle (q : Fin 8) (h : P s) : P (s.lineIdle q) := by
  have h1 : P (s.modPort q Port.reportIdle) := K.changePort q (SamePort.of_eq rfl rfl rfl rfl rfl rfl) h
  unfold State.lineIdle
  split
  · dsimp only
    split
    · exact K.finishExchange q _ h1
    · exact K.changePort q (samePort_endWait _) h1
    · exact h1
  · exact h

theorem restartPort (q : Fin 8) (h : P s) : P (s.restartPort q) := by
  unfold State.restartPort
  dsimp only
  split
  · exact K.setPort q (samePort_startLineReset _ _) h
  · exact K.setPort q (samePort_startLineReset _ _) h
  · exact K.setPort q (samePort_startLineReset _ _) h
  · split
    · exact h
    · exact K.setPort q (SamePort.of_eq rfl rfl rfl rfl rfl rfl) h
  · exact h

end KeepsLines

/-! ### Sense inputs -/

/-- `P` survives, besides, a change of a sense input that keeps its mode and whose run count stays in its range. -/
structure KeepsSense (P : State → Prop) : Prop extends KeepsLines P where
  sense : ∀ {s p x}, x.mode = (s.sense p).mode → ((s.sense p).run ≤ 2 → x.run ≤ 2) → P s → P (s.setSense p x)

namespace KeepsSense

variable {P : State → Prop} (K : KeepsSense P) {s : State}
include K

theorem senseStarts (p : Fin 32) (t : Time) (h : P s) : P (s.senseStarts p t) :=
  K.refreshFeed p (K.raiseAt (K.sense rfl id h))

theorem senseEnds (p : Fin 32) (h : P s) : P (s.senseEnds p) := K.refreshFeed p (K.clear (K.sense rfl id h))

theorem takeFall (p : Fin 32) (h : P s) : P (s.takeFall p) := by
  have h1 : P (s.setSense p { s.sense p with high := false, run := 0, stamp := s.now, sampled := s.now }) :=
    K.sense rfl (fun _ => Nat.zero_le _) h
  unfold State.takeFall
  dsimp only
  split
  · exact h1
  · exact K.raiseAt h1
  · exact K.senseStarts p _ h1

theorem takeRise (p : Fin 32) (h : P s) : P (s.takeRise p) := by
  have h1 : P (s.setSense p { s.sense p with high := true, run := 0, sampled := s.now }) :=
    K.sense rfl (fun _ => Nat.zero_le _) h
  unfold State.takeRise
  dsimp only
  split
  · exact h1
  · exact h1
  · exact K.senseEnds p h1

theorem takeSample (levels : BitVec 32) (p : Fin 32) (h : P s) : P (State.takeSample levels s p) := by
  unfold State.takeSample
  dsimp only
  split
  · split
    · exact K.sense rfl (fun _ => Nat.zero_le _) h
    split
    · next e => exact K.sense rfl (fun _ => by simp only [lastRun] at e; simp only; omega) h
    split
    · exact K.takeFall p h
    · exact K.takeRise p h
  · exact h

end KeepsSense

/-! ### Job streams -/

/-- `P` survives, besides, the single changes that the job frames make: a stream's state, the stray count, a sheet declared,
filled or completed, a job admitted. -/
structure KeepsStreams (P : State → Prop) : Prop extends KeepsLines P where
  stream : ∀ {s i x}, P s → P (s.setStream i x)
  stray : ∀ {s}, P s → P s.countStray
  declare : ∀ {s j d}, (s.job j).isSome = true → (Sorted s.spm.descs → s.freeDescriptors ≠ 0) → P s → P (s.takeDescriptor j d)
  complete : ∀ {s j}, P s → P (s.completeLast j)
  store : ∀ {s : State} {j : Fin 128} {job : Job} {n : Nat} {d : SheetDesc} {l : List Byte},
    s.job j = some job → s.lastIncomplete job = some (n, d) →
    blocksFor (d.byteLen + l.length) - blocksFor d.byteLen ≤ s.freeBlocks → P s → P (s.storeData n d l)
  admitJob : ∀ {s i r a j}, s.admissionCheck r = .ok a → s.lowestFreeSlot = some j → P s → P (s.admitJob i r a j)

namespace KeepsStreams

variable {P : State → Prop} (K : KeepsStreams P) {s : State}
include K

theorem makeEligible (j : Fin 128) (h : P s) : P (s.makeEligible j) := by
  unfold State.makeEligible
  split
  · next job e =>
    split
    · exact K.requeue j h
    · exact K.job e ⟨rfl, fun o => ⟨o.1, o.2, o.3, o.4⟩⟩ h
  · exact h

theorem sheetCompleted (j : Fin 128) (h : P s) : P (s.sheetCompleted j) := by
  unfold State.sheetCompleted
  split
  · split
    · split
      · exact K.makeEligible j h
      · exact h
    · exact K.tryReleases j h
    · exact h
  · exact h

theorem endFromStream (i : Fin 15) (j : Fin 128) (o : JobOutcome) (c : Cause) (h : P s) : P (s.endFromStream i j o c) :=
  K.cancelJob j o c (K.stream h)

theorem damage (i : Fin 15) (j : Fin 128) (c : Cause) (h : P s) : P (s.damage i j c) := by
  unfold State.damage
  split
  · exact K.endFromStream i j _ c (K.raiseAt h)
  · exact h

theorem takeData (i : Fin 15) (j : Fin 128) (l : List Byte) (h : P s) : P (s.takeData i j l) := by
  unfold State.takeData
  split
  · exact h
  · next job e =>
    split
    · exact K.stray h
    · next n d hd =>
      split
      · exact h
      split
      · exact K.damage i j _ h
      split
      · exact K.damage i j _ h
      · next hb => exact K.applyWatermarks (K.store e hd (by omega) h)

theorem afterClose (j : Fin 128) (h : P s) : P (s.afterClose j) := by
  unfold State.afterClose
  split
  · exact h
  split
  · exact K.endJob h
  split
  · exact K.makeEligible j h
  · exact K.tryReleases j h
  · exact h

theorem completeAtClose (j : Fin 128) (h : P s) : P (s.completeAtClose j) := by
  have h1 := K.complete (j := j) h
  unfold State.completeAtClose
  dsimp only
  split
  · split
    · exact K.tryReleases j h1
    · exact h1
  · exact h1

theorem closeJob (i : Fin 15) (j : Fin 128) (h : P s) : P (s.closeJob i j) :=
  K.afterClose j (K.stream (K.unbindStream j (K.completeAtClose j h)))

theorem abortJob (i : Fin 15) (j : Fin 128) (h : P s) : P (s.abortJob i j) := K.cancelJob j _ _ (K.stream h)

theorem refuseOpen (i : Fin 15) (r : OpenRequest) (c : Cause) (h : P s) : P (s.refuseOpen i r c) := K.stream (K.hand h)

theorem passToAdmission (i : Fin 15) (r : OpenRequest) (h : P s) : P (s.passToAdmission i r) := by
  unfold State.passToAdmission
  split
  · exact K.refuseOpen i r _ h
  · next a ha =>
    split
    · next j hj => exact K.admitJob ha hj h
    · exact K.refuseOpen i r _ h

theorem onJobOpen (i : Fin 15) (r : OpenRequest) (h : P s) : P (s.onJobOpen i r) := by
  unfold State.onJobOpen
  split
  · exact K.passToAdmission i r h
  · exact K.passToAdmission i r (K.cancelJob _ _ _ h)
  · exact h

theorem onData (i : Fin 15) (l : List Byte) (h : P s) : P (s.onData i l) := by
  unfold State.onData
  split
  · exact K.stray h
  · exact K.takeData i _ l h
  · exact h

theorem onJobClose (i : Fin 15) (h : P s) : P (s.onJobClose i) := by
  unfold State.onJobClose
  split
  · exact K.stray h
  · exact K.closeJob i _ h
  · exact K.stream h

theorem onJobAbort (i : Fin 15) (h : P s) : P (s.onJobAbort i) := by
  unfold State.onJobAbort
  split
  · exact K.stray h
  · exact K.abortJob i _ h
  · exact K.stream h

end KeepsStreams

end Sys2Proof.Machine
end

