-- ==== Sys2Proof/Laws/Entries.lean ====
section
/-!
SUPPORT. The bytes of table entries, field by field, and where the events of a tick come from.
-/

namespace Sys2Proof.Machine

/-! ### Fields of an entry -/

theorem beBytes_one (n : Nat) : beBytes 1 n = [BitVec.ofNat 8 n] := by simp [beBytes]

@[simp] theorem length_beBytes (k n : Nat) : (beBytes k n).length = k := by
  induction k with
  | zero => rfl
  | succ k ih => simp [beBytes, ih]

@[simp] theorem length_optBytes (k : Nat) (o : Option Nat) : (optBytes k o).length = k := by
  cases o <;> simp [optBytes]

theorem optBytes_one (o : Option Nat) : optBytes 1 o = [(o.map (BitVec.ofNat 8)).getD 0xFF#8] := by
  cases o <;> simp [optBytes, beBytes_one]

theorem flagByte_one (a : Bool) : flagByte [a] = if a then 1#8 else 0#8 := by cases a <;> rfl

theorem flagByte_two (a b : Bool) : flagByte [a, b] = (if a then 1#8 else 0#8) ||| (if b then 2#8 else 0#8) := by
  cases a <;> cases b <;> rfl

theorem flagByte_three (a b c : Bool) :
    flagByte [a, b, c] = (if a then 1#8 else 0#8) ||| (if b then 2#8 else 0#8) ||| (if c then 4#8 else 0#8) := by
  cases a <;> cases b <;> cases c <;> rfl

/-! ### The events of a tick -/

theorem expired_eq_true {now : Time} {o : Option Time} :
    expired now o = true ↔ ∃ expiry, o = some expiry ∧ reached now expiry = true := by
  cases o <;> simp [expired]

theorem mem_dueIf {b : Bool} {i c : Instr} : c ∈ dueIf b i ↔ b = true ∧ c = i := by
  cases b <;> simp [dueIf]

theorem mem_flatten_finRange {α : Type} {n : Nat} {f : Fin n → List α} {c : α} :
    c ∈ ((List.finRange n).map f).flatten ↔ ∃ a, c ∈ f a := by
  simp only [List.mem_flatten, List.mem_map, List.mem_finRange, true_and]
  constructor
  · rintro ⟨_, ⟨a, rfl⟩, h⟩
    exact ⟨a, h⟩
  · rintro ⟨a, h⟩
    exact ⟨_, ⟨a, rfl⟩, h⟩

/-- An event of a tick is the sample, the silence timer's, or one of an input's, a port's, a printer's or a beacon's. -/
theorem mem_dueEvents {s : State} {c : Instr} :
    c ∈ s.dueEvents ↔ c = .senseSample s.senseLines ∨ (expired s.now s.mgu.timer = true ∧ c = .silenceTimerExpiry) ∨
      (∃ p, c ∈ s.dueOnInput p) ∨ (∃ q, c ∈ s.dueOnPort q) ∨ (∃ p, c ∈ s.dueForPrinter p) ∨
      ∃ b, s.overrideExpired b = true ∧ c = .beaconOverrideExpiry b := by
  simp only [State.dueEvents, List.mem_cons, List.mem_append, mem_dueIf, mem_flatten_finRange, or_assoc]

end Sys2Proof.Machine
end

