-- ==== Sys2Proof/Laws/Steps.lean ====
section
/-!
SUPPORT. What `exec` and `step` keep, for every command: the last of the lemmas of `Laws/Dispatch.lean`, and the frames of
dispatch and printing.
-/

namespace Sys2Proof.Machine

/-! ### The end of a job, from its parts -/

/-- R22: what each part of a job's end keeps, the end keeps. -/
theorem KeepsDispatch.endJob_of {P : State → Prop} (K : KeepsDispatch P) {s : State} {j : Fin 128} {o : JobOutcome} {c : Cause}
    (hand : ∀ {s f}, P s → P (s.hand f)) (paused : ∀ {s b}, P s → P (s.setPaused b))
    (sheets : ∀ {s l}, P s → P (s.freeSheets l)) (unbind : ∀ {s a b}, P s → P (s.unbindJob a b))
    (free : ∀ {s j}, P s → P (s.setJob j none)) (h : P s) : P (s.endJob j o c) := by
  unfold State.endJob
  split
  · next job _ =>
    have h3 : P ((((s.hand (.jobReport (reportOf job o c))).freeSheets job.sheetList).unbindJob job.account job.bank).leaveQueue
        job.pool j) := K.leaveQueue _ j (unbind (sheets (hand h)))
    have h4 := K.budgetTest job.account (free (j := j) (show P (State.unassignEnded _ j job) by
      unfold State.unassignEnded
      split
      · exact K.offerPrinter _ (K.detach j _ h3)
      · exact h3))
    dsimp only
    generalize State.budgetTest _ _ = u at h4 ⊢
    unfold State.applyWatermarks
    dsimp only
    split
    · exact K.raiseAt (paused (hand h4))
    · split
      · exact K.clear (paused (hand h4))
      · exact h4
  · exact h

/-! ### The frame of dispatch -/

theorem DispatchOnly.refl (s : State) : DispatchOnly s s :=
  ⟨rfl, fun _ h => h, fun _ x h => ⟨x, h, JobDispatched.refl x⟩, fun _ => rfl, fun _ => rfl, fun _ => rfl⟩

theorem DispatchOnly.trans {s t u : State} (h : DispatchOnly s t) (k : DispatchOnly t u) : DispatchOnly s u where
  rest := by rw [k.rest, h.rest]
  free j e := k.free j (h.free j e)
  live j x e := by
    obtain ⟨y, hy, e1⟩ := h.live j x e
    obtain ⟨z, hz, e2⟩ := k.live j y hy
    exact ⟨z, hz, e1.trans e2⟩
  pools i := by rw [k.pools i, h.pools i]
  printers p := (k.printers p).trans (h.printers p)
  accounts a := by rw [k.accounts a, h.accounts a]

/-- What a change of the alert queue leaves is inside the frame of dispatch. -/
theorem AlertOnly.dispatchOnly {s t : State} (h : AlertOnly s t) : DispatchOnly s t := by
  unfold AlertOnly at h
  rw [h]
  exact ⟨rfl, fun _ h => h, fun _ x h => ⟨x, h, JobDispatched.refl x⟩, fun _ => rfl, fun _ => rfl, fun _ => rfl⟩

theorem dispatchOnly_job {s : State} {j : Fin 128} {old x : Job} (e : s.job j = some old) (h : JobDispatched old x) :
    DispatchOnly s (s.setJob j (some x)) where
  rest := rfl
  free i hi := by
    rw [State.job_setJob, if_neg (fun ei => by rw [ei, e] at hi; cases hi)]; exact hi
  live i y hi := by
    rw [State.job_setJob]
    split
    · next ei => subst ei; rw [e] at hi; cases hi; exact ⟨x, rfl, h⟩
    · exact ⟨y, hi, JobDispatched.refl y⟩
  pools _ := rfl
  printers _ := rfl
  accounts _ := rfl

theorem dispatchOnly_disp (s : State) (p : Fin 32) (x : Dispatch) : DispatchOnly s (s.setDisp p x) :=
  ⟨rfl, fun _ h => h, fun _ y h => ⟨y, h, JobDispatched.refl y⟩, fun _ => rfl, fun _ => rfl, fun _ => rfl⟩

theorem dispatchOnly_pool {s : State} {k : Fin 16} {x : Pool} (he : x.enabled = (s.pool k).enabled)
    (hr : x.reroute = (s.pool k).reroute) : DispatchOnly s (s.setPool k x) where
  rest := rfl
  free _ h := h
  live _ y h := ⟨y, h, JobDispatched.refl y⟩
  pools i := by
    rw [State.pool_setPool]
    split
    · next e =>
      subst e
      show x = { enabled := (s.pool i).enabled, reroute := (s.pool i).reroute, pointer := x.pointer, queue := x.queue }
      rw [← he, ← hr]
    · rfl
  printers _ := rfl
  accounts _ := rfl

theorem dispatchOnly_printer {s : State} {p : Fin 32} {x : Printer} (he : x.config = (s.printer p).config) :
    DispatchOnly s (s.setPrinter p x) where
  rest := rfl
  free _ h := h
  live _ y h := ⟨y, h, JobDispatched.refl y⟩
  pools _ := rfl
  printers q := by
    rw [State.printer_setPrinter]
    split
    · next e => rw [e, he]
    · rfl
  accounts _ := rfl

theorem dispatchOnly_reserved (s : State) (a : Fin 512) (n : Nat) :
    DispatchOnly s (s.setAccount a { s.account a with reserved := n }) where
  rest := rfl
  free _ h := h
  live _ y h := ⟨y, h, JobDispatched.refl y⟩
  pools _ := rfl
  printers _ := rfl
  accounts b := by
    rw [State.account_setAccount]
    split
    · next e => rw [e]
    · rfl

/-- Dispatch changes nothing but what `DispatchOnly` names. -/
theorem keepsDispatch_only (s : State) : KeepsDispatch (DispatchOnly s) where
  raiseAt {t k c m} h := h.trans (alertOnly_raiseAt t k c m).dispatchOnly
  clear {t k} h := h.trans (alertOnly_clear t k).dispatchOnly
  job e hs h := h.trans (dispatchOnly_job e hs.1)
  disp h := h.trans (dispatchOnly_disp _ _ _)
  pool he hr h := h.trans (dispatchOnly_pool he hr)
  printer he _ h := h.trans (dispatchOnly_printer he)
  reserved h := h.trans (dispatchOnly_reserved _ _ _)

/-! ### The frame of printing -/

theorem PrintingOnly.refl (s : State) : PrintingOnly s s :=
  ⟨rfl, fun _ y h => ⟨y, h, JobKept.refl y⟩, fun _ => rfl, fun _ => rfl, fun _ => rfl, fun _ => rfl⟩

theorem PrintingOnly.trans {s t u : State} (h : PrintingOnly s t) (k : PrintingOnly t u) : PrintingOnly s u where
  rest := by rw [k.rest, h.rest]
  jobs j z e := by
    obtain ⟨y, hy, e1⟩ := k.jobs j z e
    obtain ⟨x, hx, e2⟩ := h.jobs j y hy
    exact ⟨x, hx, e2.trans e1⟩
  pools i := by rw [k.pools i, h.pools i]
  printers p := (k.printers p).trans (h.printers p)
  ports q := by rw [k.ports q, h.ports q]
  accounts a := by rw [k.accounts a, h.accounts a]

/-- What dispatch leaves is inside the frame of printing. -/
theorem DispatchOnly.printingOnly {s t : State} (h : DispatchOnly s t) : PrintingOnly s t where
  rest := by rw [h.rest]
  jobs j y e := by
    cases hs : s.job j with
    | none => rw [h.free j hs] at e; cases e
    | some x =>
      obtain ⟨z, hz, k⟩ := h.live j x hs
      rw [hz] at e
      cases e
      exact ⟨x, rfl, k.kept⟩
  pools := h.pools
  printers := h.printers
  ports _ := by rw [h.rest]; rfl
  accounts a := by rw [h.accounts a]

/-- Two states that differ in no part that the frame of printing looks into. -/
theorem PrintingOnly.of_parts {s t : State}
    (h : t = { s with
      spm := { s.spm with descs := t.spm.descs, freeList := t.spm.freeList, paused := t.spm.paused }
      chg := { s.chg with bound := t.chg.bound }
      acm := { s.acm with meters := t.acm.meters }
      arl := { s.arl with queue := t.arl.queue, dropped := t.arl.dropped }
      jli := { s.jli with tx := t.jli.tx, linkErrors := t.jli.linkErrors } }) : PrintingOnly s t := by
  rw [h]
  exact ⟨rfl, fun _ y h => ⟨y, h, JobKept.refl y⟩, fun _ => rfl, fun _ => rfl, fun _ => rfl, fun _ => rfl⟩

theorem printingOnly_hand (s : State) (f : OutFrame) : PrintingOnly s (s.hand f) := by
  refine PrintingOnly.of_parts ?_
  unfold State.hand; split <;> rfl

theorem printingOnly_freeSheetBlocks (s : State) (n : Nat) : PrintingOnly s (s.freeSheetBlocks n) := by
  refine PrintingOnly.of_parts ?_
  unfold State.freeSheetBlocks; split <;> rfl

theorem printingOnly_freeSheets (s : State) (l : List Nat) : PrintingOnly s (s.freeSheets l) :=
  PrintingOnly.trans
    (State.each_kept (P := PrintingOnly s) (fun t n h => h.trans (printingOnly_freeSheetBlocks t n)) l (PrintingOnly.refl s))
    (PrintingOnly.of_parts rfl)

theorem printingOnly_account {s : State} {a : Fin 512} {x : Account}
    (h : x = { s.account a with
      balance := x.balance
      reserved := x.reserved
      periodSheets := x.periodSheets
      periodMono := x.periodMono
      periodColour := x.periodColour
      periodCharge := x.periodCharge
      bound := x.bound }) : PrintingOnly s (s.setAccount a x) where
  rest := rfl
  jobs _ y h := ⟨y, h, JobKept.refl y⟩
  pools _ := rfl
  printers _ := rfl
  ports _ := rfl
  accounts b := by
    rw [State.account_setAccount]
    split
    · next e => rw [e]; exact h
    · rfl

theorem printingOnly_unbind (s : State) (a : Fin 512) (b : Fin 2) : PrintingOnly s (s.unbindJob a b) :=
  PrintingOnly.trans (t := s.setAccount a { s.account a with bound := (s.account a).bound - 1 })
    (printingOnly_account rfl) (PrintingOnly.of_parts rfl)

theorem printingOnly_freeJob (s : State) (j : Fin 128) : PrintingOnly s (s.setJob j none) where
  rest := rfl
  jobs i y e := by
    rw [State.job_setJob] at e
    split at e
    · cases e
    · exact ⟨y, e, JobKept.refl y⟩
  pools _ := rfl
  printers _ := rfl
  ports _ := rfl
  accounts _ := rfl

theorem printingOnly_port {s : State} {q : Fin 8} {x : Port}
    (h : x = { s.port q with control := x.control, protocolErrors := x.protocolErrors }) :
    PrintingOnly s (s.setPort q x) where
  rest := rfl
  jobs _ y h := ⟨y, h, JobKept.refl y⟩
  pools _ := rfl
  printers _ := rfl
  ports r := by
    rw [State.port_setPort]
    split
    · next e => rw [e]; exact h
    · rfl
  accounts _ := rfl

/-- A job record moves on. -/
theorem printingOnly_job {s : State} {j : Fin 128} {old x : Job} (e : s.job j = some old) (h : JobKept old x) :
    PrintingOnly s (s.setJob j (some x)) where
  rest := rfl
  jobs i y hi := by
    rw [State.job_setJob] at hi
    split at hi
    · next ei => subst ei; cases hi; exact ⟨old, e, h⟩
    · exact ⟨y, hi, JobKept.refl y⟩
  pools _ := rfl
  printers _ := rfl
  ports _ := rfl
  accounts _ := rfl

theorem keepsDispatch_printingOnly (s : State) : KeepsDispatch (PrintingOnly s) where
  raiseAt {t k c m} h := h.trans (alertOnly_raiseAt t k c m).dispatchOnly.printingOnly
  clear {t k} h := h.trans (alertOnly_clear t k).dispatchOnly.printingOnly
  job e hs h := h.trans (dispatchOnly_job e hs.1).printingOnly
  disp h := h.trans (dispatchOnly_disp _ _ _).printingOnly
  pool he hr h := h.trans (dispatchOnly_pool he hr).printingOnly
  printer he _ h := h.trans (dispatchOnly_printer he).printingOnly
  reserved h := h.trans (dispatchOnly_reserved _ _ _).printingOnly

/-- Printing changes nothing but what `PrintingOnly` names. -/
theorem keepsPrinting_only (s : State) : KeepsPrinting (PrintingOnly s) where
  toKeepsDispatch := keepsDispatch_printingOnly s
  account he h := h.trans (printingOnly_account (by rw [he.1]))
  hand {t f} h := h.trans (printingOnly_hand t f)
  paused h := h.trans (PrintingOnly.of_parts rfl)
  freeSheet {t n} h := h.trans (printingOnly_freeSheetBlocks t n)
  meters _ h := h.trans (PrintingOnly.of_parts rfl)
  progress e hs h := h.trans (printingOnly_job e hs.1)
  control h := h.trans (printingOnly_port rfl)
  protocolError h := h.trans (printingOnly_port rfl)
  endJob h :=
    (keepsDispatch_printingOnly s).endJob_of (fun {t f} h => h.trans (printingOnly_hand t f))
      (fun h => h.trans (PrintingOnly.of_parts rfl)) (fun {t l} h => h.trans (printingOnly_freeSheets t l))
      (fun {t a b} h => h.trans (printingOnly_unbind t a b)) (fun {t j} h => h.trans (printingOnly_freeJob t j)) h

/-! ### SHEET -/

theorem lastIncomplete_found {s : State} {job : Job} {n : Nat} {d : SheetDesc} (h : s.lastIncomplete job = some (n, d)) :
    findDesc s.spm.descs n = some d ∧ job.sheetList.getLast? = some n ∧ d.complete = false := by
  unfold State.lastIncomplete State.lastSheet at h
  cases hg : job.sheetList.getLast? with
  | none => simp [hg] at h
  | some m =>
    cases hf : findDesc s.spm.descs m with
    | none => simp [hg, hf] at h
    | some x =>
      simp only [hg, hf, Option.map_some] at h
      split at h
      · cases h
      · next hc => cases h; exact ⟨hf, rfl, by simpa using hc⟩

/-- R10: a descriptor taken changes the descriptors and the job records. -/
theorem takeDescriptor_only (s : State) (j : Fin 128) (d : SheetDecl) :
    s.takeDescriptor j d = { s with
      spm := { s.spm with jobs := (s.takeDescriptor j d).spm.jobs, descs := (s.takeDescriptor j d).spm.descs } } := by
  unfold State.takeDescriptor
  dsimp only
  cases h : (s.setDescs (putDesc s.spm.descs (lowestFree 0 s.spm.descs) (descOf d))).job j with
  | none => rw [State.modJob_none _ h]; rfl
  | some x => rw [State.modJob_some _ h]; rfl

/-- R10, R12: a completed sheet changes the descriptors and the job records. -/
theorem completeLast_only (s : State) (j : Fin 128) :
    s.completeLast j = { s with
      spm := { s.spm with jobs := (s.completeLast j).spm.jobs, descs := (s.completeLast j).spm.descs } } := by
  unfold State.completeLast
  split
  · split <;> rfl
  · rfl

/-- R10, R12: completing a sheet takes no descriptor. -/
theorem completeLast_free {s : State} {j : Fin 128} (h : Sorted (s.completeLast j).spm.descs) :
    (s.completeLast j).freeDescriptors = s.freeDescriptors := by
  unfold State.completeLast at *
  split at h
  · split at h
    · next n d e =>
      have hs : Sorted s.spm.descs := List.Pairwise.sublist (putDesc_keys_sublist _ n { d with complete := true }) h
      have := putDesc_keys { d with complete := true } hs (lastIncomplete_found e).1
      have hl := congrArg List.length this
      simp only [List.length_map] at hl
      show Config.sheetDescriptors - (putDesc s.spm.descs n { d with complete := true }).length = _
      rw [hl]; rfl
    · rfl
  · rfl

theorem KeepsDispatch.sheetCompleted {P : State → Prop} (K : KeepsDispatch P) {s : State} (j : Fin 128) (h : P s) :
    P (s.sheetCompleted j) := by
  unfold State.sheetCompleted
  split
  · split
    · split
      · unfold State.makeEligible
        split
        · next job e =>
          split
          · exact K.requeue j h
          · exact K.job e ⟨rfl, fun o => ⟨o.1, o.2, o.3, o.4⟩⟩ h
        · exact h
      · exact h
    · exact K.tryReleases j h
    · exact h
  · exact h

/-- Dispatch frees no job slot. -/
theorem keepsDispatch_live (j : Fin 128) : KeepsDispatch fun t => (t.job j).isSome = true where
  raiseAt {t k c m} h := by rw [alertOnly_raiseAt t k c m]; exact h
  clear {t k} h := by rw [alertOnly_clear t k]; exact h
  job {t i old x} _ _ h := by
    rw [State.job_setJob]
    split
    · rfl
    · exact h
  disp h := h
  pool _ _ h := h
  printer _ _ h := h
  reserved h := h

theorem completeLast_live {s : State} {j : Fin 128} (h : (s.job j).isSome = true) : ((s.completeLast j).job j).isSome = true := by
  unfold State.completeLast
  split
  · split
    · rw [State.job_setJob, if_pos rfl]; rfl
    · exact h
  · exact h

namespace KeepsStreams

variable {P : State → Prop} (K : KeepsStreams P) {s : State}
include K

theorem takeSheet (i : Fin 15) (j : Fin 128) (d : SheetDecl) (h : P s) : P (s.takeSheet i j d) := by
  unfold State.takeSheet
  split
  · exact h
  next job e =>
  have hl : (s.job j).isSome = true := by rw [e]; rfl
  split
  · exact K.endFromStream i j _ _ h
  split
  · exact K.damage i j _ h
  · next hn =>
    unfold State.completePrevious
    split
    · refine K.declare ((keepsDispatch_live j).sheetCompleted j (completeLast_live hl)) (fun hs => ?_) (K.sheetCompleted j (K.complete h))
      have ho := (keepsDispatch_only (s.completeLast j)).sheetCompleted j (DispatchOnly.refl _)
      have hd : ((s.completeLast j).sheetCompleted j).spm.descs = (s.completeLast j).spm.descs := by rw [ho.rest]
      rw [hd] at hs
      have hf : ((s.completeLast j).sheetCompleted j).freeDescriptors = (s.completeLast j).freeDescriptors := by
        unfold State.freeDescriptors; rw [hd]
      rw [hf, completeLast_free hs]
      exact hn
    · exact K.declare hl (fun _ => hn) h

theorem onSheet (i : Fin 15) (d : SheetDecl) (h : P s) : P (s.onSheet i d) := by
  unfold State.onSheet
  split
  · exact K.stray h
  · exact K.takeSheet i _ d h
  · exact h

end KeepsStreams

/-! ### Every command -/

/-- `P` survives, besides, the single changes that the requests and the link make. -/
structure KeepsCommands (P : State → Prop) : Prop extends KeepsStreams P, KeepsSense P where
  linkError : ∀ {s}, P s → P s.countLinkError
  sent : ∀ {s f l}, s.jli.tx = f :: l → P s → P (s.setTx l)
  mgu : ∀ {s x}, x.cause = s.mgu.cause → (s.mgu.timeout ≤ 255 → x.timeout ≤ 255) → P s → P (s.setMgu x)
  restartWait : ∀ {s r}, P s → P (s.setRestart r)
  route : ∀ {s r x}, s.routeAllowed x = true → x.startThreshold ≤ 255 → P s → P (s.setRoute r x)
  poolWrite : ∀ {s i e t}, s.writePool i e = some t → P s → P t
  portWrite : ∀ {s q e}, P s → P (s.setPort q { s.port q with config := storedPort e })
  printerWrite : ∀ {s p e x}, s.namesDisabledPool (storedPrinter e) = false → x.config = storedPrinter e →
    (PrinterOk (s.printer p) → PrinterOk x) → P s → P (s.setPrinter p x)
  tariff : ∀ {s b k c}, P s → P (s.setTariff b k (clampClass c))
  bank : ∀ {s b}, P s → P (s.setCurrentBank b)
  accountWrite : ∀ {s a e}, (e.valid = false → (s.account a).bound = 0 ∧ s.fixedBySome a = false) → P s →
    P (s.setAccount a (storedAccount (s.account a) e))
  mask : ∀ {s m}, P s → P (s.writeMask m)
  printerBeacon : ∀ {s p b}, P s → P (s.setPrinterBeacon p b)
  portBeacon : ∀ {s q b}, P s → P (s.setPortBeacon q b)
  officeBeacon : ∀ {s b}, P s → P (s.setOfficeBeacon b)
  override : ∀ {s b o}, P s → P (s.setOverride b o)
  acknowledge : ∀ {s k e}, s.alertFor k = some e → P s → P (s.acknowledge k e)
  mode : ∀ {s p m}, P s → P (s.setSense p { s.sense p with mode := m })
  senseLines : ∀ {s l}, P s → P (s.setSenseLines l)
  reset : ∀ {s c}, P s → P (s.resetKeeping c)

/-- What every write of an entry keeps, the write of all of them keeps. -/
theorem applyEntries_kept {α : Type} {P : State → Prop} {write : State → Nat → α → Option State}
    (hw : ∀ s i e t, write s i e = some t → P s → P t) :
    ∀ (l : List α) (i n : Nat) {s : State}, P s → P (applyEntries write l i n s).1
  | [], _, _, _, h => h
  | e :: l, i, n, s, h => by
    unfold applyEntries
    split
    · next t ht => exact applyEntries_kept hw l _ _ (hw s i e t ht h)
    · exact h

/-- What both branches keep. -/
theorem kept_ite {P : State → Prop} {b : Prop} [Decidable b] {u v : State} (hu : P u) (hv : P v) : P (if b then u else v) := by
  split
  · exact hu
  · exact hv

namespace KeepsCommands

variable {P : State → Prop} (K : KeepsCommands P) {s : State}
include K

/-- The end of a RESTART's wait: the state is reset, or as it was. -/
theorem restartNow (h : P s) : P s.restartNow := kept_ite (K.reset h) h

theorem popFrame (h : P s) : P s.popFrame := by
  unfold State.popFrame
  split
  · exact h
  · split
    · exact h
    · next e => exact K.restartNow (K.restartWait (K.sent e h))

theorem reply (t c : Byte) (r : Result) (l : List Byte) (h : P s) : P (s.reply t c r l) := K.hand h

theorem replyOk (t : Byte) (c : CommandCode) (l : List Byte) (h : P s) : P (s.replyOk t c l) := K.hand h

theorem refuse (t : Byte) (c : CommandCode) (r : Result) (h : P s) : P (s.refuse t c r) := K.hand h

theorem replyWrite (t : Byte) (r : Result) (n : Nat) (h : P s) : P (s.replyWrite t r n) := K.hand h

theorem silenceRule (h : P s) : P s.silenceRule := by
  have h1 : P (s.setMgu { s.mgu with attended := true, timer := silenceStart s.now s.mgu.timeout }) := K.mgu rfl id h
  unfold State.silenceRule
  dsimp only
  split
  · exact h1
  · split
    · exact K.resumeDispatch (K.clear h1)
    · exact K.clear h1

theorem onFrame {f : State → State} (hf : ∀ t, P t → P (f t)) (h : P s) : P (s.onFrame f) := by
  unfold State.onFrame
  split
  · exact h
  · exact K.serviceLines (hf _ (K.silenceRule h))

theorem strayFrame (h : P s) : P s.stray := K.onFrame (fun _ ht => K.stray ht) h

theorem onJobFrame (n : BitVec 4) {f : State → Fin 15 → State} (hf : ∀ t i, P t → P (f t i)) (h : P s) :
    P (s.onJobFrame n f) := by
  unfold State.onJobFrame
  split
  · exact K.onFrame (fun t ht => hf t _ ht) h
  · exact K.strayFrame h

theorem discardBytes (h : P s) : P s.discardBytes := by
  unfold State.discardBytes
  split
  · exact h
  · exact K.linkError h

/-! ### Tables -/

theorem readTable (t b : Byte) (f : Half) (n : Byte) (h : P s) : P (s.readTable t b f n) := by
  unfold State.readTable
  split
  · exact K.hand h
  · exact K.hand h

omit K in
theorem writeEntries_kept {α : Type} {write : State → Nat → α → Option State}
    (hw : ∀ s i e t, write s i e = some t → P s → P t) (hr : ∀ {s : State} {t r n}, P s → P (s.replyWrite t r n))
    (size most : Nat) (token : Byte) (first : Half) (l : List α) (h : P s) :
    P (s.writeEntries write size most token first l) := by
  unfold State.writeEntries
  split
  · exact hr h
  · exact hr (applyEntries_kept hw l _ _ h)

theorem writeRoute (i : Nat) (e : RouteEntry) (t : State) (ht : s.writeRoute i e = some t) (h : P s) : P t := by
  unfold State.writeRoute at ht
  split at ht
  · split at ht
    · next ha => cases ht; exact K.route ha (byte_le _) h
    · cases ht
  · cases ht

theorem writePort (i : Nat) (e : PortEntry) (t : State) (ht : s.writePort i e = some t) (h : P s) : P t := by
  unfold State.writePort at ht
  split at ht
  · dsimp only at ht
    split at ht
    · cases ht
    · cases ht
      split
      · exact K.applyConfig _ (K.portWrite h)
      · exact K.portWrite h
  · cases ht

theorem storePrinter (p : Fin 32) (e : PrinterEntry) (hn : s.namesDisabledPool (storedPrinter e) = false) (h : P s) :
    P (s.storePrinter p (storedPrinter e)) := by
  unfold State.storePrinter
  split
  · exact K.printerWrite hn rfl (fun o => ⟨Nat.zero_le _, o.2, o.3, Nat.zero_le _⟩) h
  split
  · refine K.clearPrinterAlerts p (K.changePort _ ?_ 
      (K.printerWrite hn rfl (fun o => ⟨Nat.zero_le _, o.2, o.3, Nat.zero_le _⟩) h))
    exact ⟨rfl, fun o => ⟨o.1, o.2, o.3, o.4, control_filter_nodup _ o.5⟩⟩
  · exact K.printerWrite hn rfl (fun o => ⟨o.1, o.2, o.3, o.4⟩) h

theorem writePrinter (i : Nat) (e : PrinterEntry) (t : State) (ht : s.writePrinter i e = some t) (h : P s) : P t := by
  unfold State.writePrinter at ht
  split at ht
  · dsimp only at ht
    split at ht
    · cases ht
    · next hb =>
      cases ht
      simp only [Bool.or_eq_true, not_or, Bool.not_eq_true] at hb
      exact K.offerPrinter _ (K.refreshFeed _ (K.storePrinter _ e hb.2 h))
  · cases ht

theorem writeClasses (b : Fin 2) : ∀ (l : List TariffClass) (i : Nat) {s : State}, P s → P (State.writeClasses b l i s)
  | [], _, _, h => h
  | _ :: l, i, _, h => writeClasses b l (i + 1) (K.tariff h)

theorem writeBank (t : Byte) (b : Fin 2) (f : Half) (l : List TariffClass) (h : P s) : P (s.writeBank t b f l) := by
  unfold State.writeBank
  split
  · exact K.hand h
  split
  · exact K.hand h
  split
  · exact K.hand h
  · exact K.hand (K.writeClasses b l _ h)

theorem writeAccount (i : Nat) (e : AccountEntry) (t : State) (ht : s.writeAccount i e = some t) (h : P s) : P t := by
  unfold State.writeAccount at ht
  split at ht
  · next hi =>
    dsimp only at ht
    split at ht
    · cases ht
    · next hb =>
      cases ht
      have h1 := K.accountWrite (a := ⟨i, hi⟩) (e := e) (fun hv => by
        simp only [hv, Bool.not_false, Bool.true_and, Bool.or_eq_true, decide_eq_true_eq, not_or, Bool.not_eq_true] at hb
        exact ⟨by omega, hb.2⟩) h
      split
      · exact K.accountChange _ h1
      · exact h1
  · cases ht

theorem writeSenseMode (p : Fin 32) (m : SenseMode) (h : P s) : P (s.writeSenseMode p m) := by
  have h1 : P (s.setSense p { s.sense p with mode := m }) := K.mode h
  unfold State.writeSenseMode
  dsimp only
  split
  · exact h
  split
  · split
    · exact K.senseEnds p h1
    · exact h1
  · split
    · split
      · exact h1
      · exact K.senseStarts p _ h1
    · exact h1

theorem writeSetup (i : Nat) (e : Half) (t : State) (ht : s.writeSetup i e = some t) (h : P s) : P t := by
  unfold State.writeSetup at ht
  split at ht
  · cases ht; exact K.mask h
  split at ht
  · cases ht; exact K.printerBeacon h
  split at ht
  · cases ht; exact K.portBeacon h
  split at ht
  · cases ht; exact K.officeBeacon h
  split at ht
  · cases ht; exact K.writeSenseMode _ _ h
  · cases ht

theorem writeDeviceConfig (i : Nat) (e : DeviceConfigEntry) (t : State) (ht : s.writeDeviceConfig i e = some t) (h : P s) :
    P t := by
  cases ht
  exact K.officeBeacon (K.mgu rfl (fun _ => byte_le _) h)

theorem writeEntries {α : Type} {write : State → Nat → α → Option State}
    (hw : ∀ s i e t, write s i e = some t → P s → P t) (size most : Nat) (token : Byte) (first : Half) (l : List α)
    (h : P s) : P (s.writeEntries write size most token first l) :=
  writeEntries_kept hw (fun {s t r n} h => K.replyWrite (s := s) t r n h) size most token first l h

theorem carryWrite (t b : Byte) (f : Half) (n : Nat) (l : List Byte) (h : P s) : P (s.carryWrite t b f n l) := by
  unfold State.carryWrite
  split
  · exact K.writeEntries (fun _ => K.writeRoute) _ _ _ _ _ h
  · exact K.writeEntries (fun _ _ _ _ ht h => K.poolWrite ht h) _ _ _ _ _ h
  · exact K.writeEntries (fun _ => K.writePort) _ _ _ _ _ h
  · exact K.writeEntries (fun _ => K.writePrinter) _ _ _ _ _ h
  · exact K.writeBank _ _ _ _ h
  · exact K.writeBank _ _ _ _ h
  · exact K.writeEntries (fun _ => K.writeAccount) _ _ _ _ _ h
  · exact K.writeEntries (fun _ => K.writeSetup) _ _ _ _ _ h
  · exact K.writeEntries (fun _ => K.writeDeviceConfig) _ _ _ _ _ h
  · exact K.hand h

theorem writeRaw (t b : Byte) (f : Half) (c : Byte) (l : List Byte) (h : P s) : P (s.writeRaw t b f c l) := by
  unfold State.writeRaw
  split
  · exact K.hand h
  · exact K.carryWrite _ _ _ _ _ h

/-! ### Requests -/

theorem commandCancel (t : Byte) (tag : Half) (h : P s) : P (s.commandCancel t tag) := by
  unfold State.commandCancel
  split
  · exact K.hand h
  split
  · exact K.hand h
  split
  · exact K.hand h
  · refine K.replyOk _ _ _ (K.cancelJob _ _ _ ?_)
    unfold State.discardStream
    split
    · exact K.stream h
    · exact h

theorem holdJob (j : Fin 128) (job : Job) (e : s.job j = some job) (h : P s) : P (s.holdJob j job) := by
  unfold State.holdJob
  split
  · exact K.leaveQueue _ _ (K.job e ⟨rfl, fun o => ⟨o.1, o.2, o.3, o.4⟩⟩ h)
  · have h1 : P (s.setJob j (some { holdOperator job with
        drain := if job.drain = some .service then some .service else some .hold })) :=
      K.job e ⟨rfl, fun o => ⟨o.1, o.2, o.3, o.4⟩⟩ h
    have h2 : P (if job.drain = some .budget then (s.setJob j (some { holdOperator job with
        drain := if job.drain = some .service then some .service else some .hold })).budgetTest job.account
        else s.setJob j (some { holdOperator job with
          drain := if job.drain = some .service then some .service else some .hold })) := by
      split
      · exact K.budgetTest _ h1
      · exact h1
    unfold State.holdPrinting
    dsimp only
    generalize (if job.drain = some .budget then _ else _ : State) = u at h2 ⊢
    split
    · split
      · exact K.endDrain _ _ h2
      · exact h2
    · exact h2
  · exact K.job e ⟨rfl, fun o => ⟨o.1, o.2, o.3, o.4⟩⟩ h

theorem commandHold (t : Byte) (tag : Half) (h : P s) : P (s.commandHold t tag) := by
  unfold State.commandHold
  split
  · exact K.hand h
  split
  · exact K.hand h
  split
  · exact K.hand h
  · next e _ => exact K.replyOk _ _ _ (K.holdJob _ _ e h)

theorem releaseHeld (j : Fin 128) (job : Job) (e : s.job j = some job) (h : P s) : P (s.releaseHeld j job) := by
  unfold State.releaseHeld
  split
  · exact K.requeue _ (K.budgetTest _ (K.job e ⟨rfl, fun o => ⟨o.1, o.2, o.3, o.4⟩⟩ h))
  · split
    · exact K.tryReleases _ (K.job e ⟨rfl, fun o => ⟨o.1, o.2, o.3, o.4⟩⟩ h)
    · exact K.job e ⟨rfl, fun o => ⟨o.1, o.2, o.3, o.4⟩⟩ h
  · exact K.job e ⟨rfl, fun o => ⟨o.1, o.2, o.3, o.4⟩⟩ h

theorem commandRelease (t : Byte) (tag : Half) (h : P s) : P (s.commandRelease t tag) := by
  unfold State.commandRelease
  split
  · exact K.hand h
  split
  · exact K.hand h
  split
  · exact K.hand h
  · next e _ => exact K.replyOk _ _ _ (K.releaseHeld _ _ e h)

theorem commandAdjust (t : Byte) (n : Half) (z : BitVec 32) (h : P s) : P (s.commandAdjust t n z) := by
  unfold State.commandAdjust
  split
  · exact K.hand h
  · exact K.replyOk _ _ _ (K.accountChange _ (K.account (sameAccount_adjust _ _) h))

theorem commandClosePeriod (t : Byte) (n : Half) (h : P s) : P (s.commandClosePeriod t n) := by
  unfold State.commandClosePeriod
  split
  · exact K.hand h
  · exact K.replyOk _ _ _ (K.accountChange _ (K.account (sameAccount_closePeriod _) h))

theorem commandCloseAll (t : Byte) (h : P s) : P (s.commandCloseAll t) :=
  K.replyOk _ _ _ (State.each_kept (fun _ a ht => K.accountChange a ht) _
    (State.each_kept (fun _ _ ht => K.account (sameAccount_closePeriod _) ht) _ h))

theorem commandAck (t k : Byte) (i : Half) (c : Byte) (h : P s) : P (s.commandAck t k i c) := by
  unfold State.commandAck
  split
  · exact K.hand h
  split
  · exact K.hand h
  · next e => exact K.replyOk _ _ _ (K.acknowledge e h)

theorem drainForService (p : Fin 32) (j : Fin 128) (job : Job) (e : s.job j = some job) (h : P s) :
    P (s.drainForService p j job) := by
  have h1 : P (s.setJob j (some { job with drain := some .service })) := K.job e ⟨rfl, fun o => ⟨o.1, o.2, o.3, o.4⟩⟩ h
  have h2 : P (if job.drain = some .budget then (s.setJob j (some { job with drain := some .service })).budgetTest job.account
      else s.setJob j (some { job with drain := some .service })) := by
    split
    · exact K.budgetTest _ h1
    · exact h1
  unfold State.drainForService
  dsimp only
  generalize (if job.drain = some .budget then _ else _ : State) = u at h2 ⊢
  split
  · exact K.endDrain _ _ h2
  · exact h2

theorem serviceOut (p : Fin 32) (h : P s) : P (s.serviceOut p) := by
  unfold State.serviceOut
  dsimp only
  split
  · exact K.printer rfl (fun o => ⟨o.1, o.2, o.3, o.4⟩) h
  split
  · exact h
  have h1 : P (s.setLeaving p true) := K.disp h
  split
  · next e =>
    split
    · exact K.drainForService _ _ _ e h1
    · exact h1
  · exact h1

theorem undrainService (j : Fin 128) (h : P s) : P (s.undrainService j) := by
  unfold State.undrainService
  split
  · next job e =>
    split
    · split
      · exact K.job e ⟨rfl, fun o => ⟨o.1, o.2, o.3, o.4⟩⟩ h
      · exact K.tryReleases j (K.job e ⟨rfl, fun o => ⟨o.1, o.2, o.3, o.4⟩⟩ h)
    · exact h
  · exact h

theorem serviceIn (p : Fin 32) (h : P s) : P (s.serviceIn p) := by
  unfold State.serviceIn
  dsimp only
  split
  · split
    · exact h
    · exact K.offerPrinter p (K.printer rfl (fun o => ⟨o.1, o.2, o.3, o.4⟩) h)
  · split
    · exact K.undrainService _ (K.disp h)
    · exact h

theorem commandService (t p : Byte) {f : State → Fin 32 → State} (hf : ∀ t q, P t → P (f t q)) (h : P s) :
    P (s.commandService t p f) := by
  unfold State.commandService
  split
  · exact K.hand (hf _ _ h)
  · exact K.hand h

theorem commandPortRestart (t p : Byte) (h : P s) : P (s.commandPortRestart t p) := by
  unfold State.commandPortRestart
  split
  · split
    · exact K.hand (K.restartPort _ h)
    · exact K.hand h
  · exact K.hand h

theorem commandOverride (t b p : Byte) (n : Half) (h : P s) : P (s.commandOverride t b p n) := by
  unfold State.commandOverride
  split
  · split
    · exact K.hand (K.override h)
    · exact K.hand h
  · exact K.hand h

theorem refuseForm (k : RequestKind) (l : List Byte) (h : P s) : P (s.refuseForm k l) := by
  unfold State.refuseForm
  split
  · exact K.hand h
  · exact K.hand (K.choice (K.choice (K.choice h)))
  · exact K.hand (K.choice h)

/-- Every command but the three resets. -/
theorem exec_kept {c : Instr} {t : State} (hc : isReset c = false) (he : exec c s = .next t) (h : P s) : P t := by
  have step : ∀ {u v : State}, (Host.Outcome.next u : Host.Outcome State Fault Refusal) = .next v → P u → P v := by
    intro u v e hu; cases e; exact hu
  cases c <;> first | (exact absurd hc (by decide)) | skip
  case linkError bytes => exact step he (kept_ite (K.discardBytes h) h)
  case strayFrame f => exact step he (kept_ite (K.strayFrame h) h)
  case jobOpen n r => exact step he (K.onJobFrame n (fun _ i ht => K.onJobOpen i r ht) h)
  case sheet n d => exact step he (K.onJobFrame n (fun _ i ht => K.onSheet i d ht) h)
  case data n l =>
    refine step he ?_
    split
    · exact K.discardBytes h
    · exact K.onJobFrame n (fun _ i ht => K.onData i l ht) h
  case jobClose n => exact step he (K.onJobFrame n (fun _ i ht => K.onJobClose i ht) h)
  case jobAbort n => exact step he (K.onJobFrame n (fun _ i ht => K.onJobAbort i ht) h)
  case tableRead a b c d => exact step he (K.onFrame (fun _ ht => K.readTable _ _ _ _ ht) h)
  case tableWrite a b c d e => exact step he (K.onFrame (fun _ ht => K.writeRaw _ _ _ _ _ ht) h)
  case routeWrite => exact step he (K.onFrame (fun _ ht => K.writeEntries (fun _ => K.writeRoute) _ _ _ _ _ ht) h)
  case poolWrite =>
    exact step he (K.onFrame (fun _ ht => K.writeEntries (fun _ _ _ _ ht h => K.poolWrite ht h) _ _ _ _ _ ht) h)
  case portWrite => exact step he (K.onFrame (fun _ ht => K.writeEntries (fun _ => K.writePort) _ _ _ _ _ ht) h)
  case printerWrite => exact step he (K.onFrame (fun _ ht => K.writeEntries (fun _ => K.writePrinter) _ _ _ _ _ ht) h)
  case tariffWrite => exact step he (K.onFrame (fun _ ht => K.writeBank _ _ _ _ ht) h)
  case accountWrite => exact step he (K.onFrame (fun _ ht => K.writeEntries (fun _ => K.writeAccount) _ _ _ _ _ ht) h)
  case alertSetupWrite => exact step he (K.onFrame (fun _ ht => K.writeEntries (fun _ => K.writeSetup) _ _ _ _ _ ht) h)
  case deviceConfigWrite =>
    exact step he (K.onFrame (fun _ ht => K.writeEntries (fun _ => K.writeDeviceConfig) _ _ _ _ _ ht) h)
  case malformed k l => exact step he (kept_ite (K.onFrame (fun _ ht => K.refuseForm k l ht) h) h)
  case cancelJob => exact step he (K.onFrame (fun _ ht => K.commandCancel _ _ ht) h)
  case holdJob => exact step he (K.onFrame (fun _ ht => K.commandHold _ _ ht) h)
  case releaseJob => exact step he (K.onFrame (fun _ ht => K.commandRelease _ _ ht) h)
  case adjust => exact step he (K.onFrame (fun _ ht => K.commandAdjust _ _ _ ht) h)
  case closePeriod => exact step he (K.onFrame (fun _ ht => K.commandClosePeriod _ _ ht) h)
  case closePeriodAll => exact step he (K.onFrame (fun _ ht => K.commandCloseAll _ ht) h)
  case swapTariff => exact step he (K.onFrame (fun _ ht => K.hand (K.bank ht)) h)
  case ackAlert => exact step he (K.onFrame (fun _ ht => K.commandAck _ _ _ _ ht) h)
  case printerServiceOut => exact step he (K.onFrame (fun _ ht => K.commandService _ _ (fun _ p ht => K.serviceOut p ht) ht) h)
  case printerServiceIn => exact step he (K.onFrame (fun _ ht => K.commandService _ _ (fun _ p ht => K.serviceIn p ht) ht) h)
  case portRestart => exact step he (K.onFrame (fun _ ht => K.commandPortRestart _ _ ht) h)
  case beaconOverride => exact step he (K.onFrame (fun _ ht => K.commandOverride _ _ _ _ ht) h)
  case restart => exact step he (K.onFrame (fun _ ht => K.restartNow (K.restartWait (K.hand ht))) h)
  case frameSent => exact step he (K.popFrame h)
  case silenceTimerExpiry =>
    refine step he ?_
    split
    · exact K.serviceLines (K.raiseAt (K.mgu rfl id h))
    · exact h
  case pollDue => exact step he (kept_ite (K.serviceLines h) h)
  case echoMismatch => exact step he (kept_ite (K.receiveAndServe _ _ h) h)
  case echoTimeout => exact step he (kept_ite (K.serviceLines (K.contend _ h)) h)
  case blockTransmitted => exact step he (kept_ite (K.receiveAndServe _ _ h) h)
  case responseWindowExpiry => exact step he (kept_ite (K.serviceLines (K.finishExchange _ _ h)) h)
  case replyReceived => exact step he (kept_ite (K.receiveAndServe _ _ h) h)
  case framingFault => exact step he (kept_ite (K.receiveAndServe _ _ h) h)
  case breakReceived => exact step he (kept_ite (K.receiveAndServe _ _ h) h)
  case lineIdle => exact step he (K.serviceLines (K.lineIdle _ h))
  case recoveryLimitExpiry => exact step he (kept_ite (K.serviceLines (K.faultPort _ h)) h)
  case faultRestExpiry =>
    refine step he ?_
    split
    · exact K.serviceLines (K.changePort _ (samePort_startLineReset _ _) h)
    · exact h
  case stallTimerExpiry => exact step he (kept_ite (K.serviceLines (K.stallExpired _ h)) h)
  case fallingChange => exact step he (kept_ite (K.serviceLines (K.takeFall _ (K.senseLines h))) h)
  case risingChange => exact step he (kept_ite (K.serviceLines (K.takeRise _ (K.senseLines h))) h)
  case beaconOverrideExpiry => exact step he (kept_ite (K.override h) h)
  case startConfirmed => exact step he (K.startConfirmed _ _ h)
  case characterReceived => exact step he (kept_ite (K.receiveAndServe _ _ h) h)
  case senseSample =>
    exact step he (K.serviceLines (State.each_kept (fun _ p ht => K.takeSample _ p ht) _ (K.senseLines h)))

end KeepsCommands

/-- What every command keeps and the passing of time keeps, every step keeps. -/
theorem step_kept {P : State → Prop} (K : KeepsCommands P) (hp : ∀ {s : State}, P s → P s.powerUp)
    (hn : ∀ {s : State} {n}, P s → P (s.setNow n))
    (hq : ∀ {s : State} {l}, P s → P (s.setPending l)) {s t : State} (h : P s) (e : step s = .next t) : P t := by
  unfold step at e
  split at e
  · next c rest _ =>
    by_cases hc : isReset c = true
    · cases c <;> first | (exact absurd hc Bool.false_ne_true) | skip
      case powerOn => cases e; exact hp (hq h)
      case resetLine => cases e; exact K.reset (hq h)
      case restartReset =>
        cases e
        exact K.restartNow (hq h)
    · exact K.exec_kept (by simpa using hc) e (hq h)
  · cases e
    unfold State.idle
    split
    · exact hq h
    · exact hq (K.choice (hn h))

/-! ### The frame of an event -/

theorem EventOnly.refl (s : State) : EventOnly s s :=
  ⟨rfl, fun _ y h => ⟨y, h, JobKept.refl y⟩, fun _ => rfl, fun _ => rfl, fun _ => rfl, fun _ => rfl, fun _ => rfl⟩

theorem EventOnly.trans {s t u : State} (h : EventOnly s t) (k : EventOnly t u) : EventOnly s u where
  rest := by rw [k.rest, h.rest]
  jobs j z e := by
    obtain ⟨y, hy, e1⟩ := k.jobs j z e
    obtain ⟨x, hx, e2⟩ := h.jobs j y hy
    exact ⟨x, hx, e2.trans e1⟩
  pools i := by rw [k.pools i, h.pools i]
  printers p := (k.printers p).trans (h.printers p)
  ports q := (k.ports q).trans (h.ports q)
  accounts a := by rw [k.accounts a, h.accounts a]
  modes p := (k.modes p).trans (h.modes p)

theorem PrintingOnly.eventOnly {s t : State} (h : PrintingOnly s t) : EventOnly s t where
  rest := by rw [h.rest]
  jobs := h.jobs
  pools := h.pools
  printers := h.printers
  ports q := by rw [h.ports q]
  accounts := h.accounts
  modes _ := by rw [h.rest]; rfl

/-- A change of the ports that keeps their records is inside the frame of an event. -/
theorem eventOnly_port {s : State} {q : Fin 8} {x : Port} (h : x.config = (s.port q).config) : EventOnly s (s.setPort q x) where
  rest := rfl
  jobs _ y e := ⟨y, e, JobKept.refl y⟩
  pools _ := rfl
  printers _ := rfl
  ports r := by
    rw [State.port_setPort]
    split
    · next e => rw [e, h]
    · rfl
  accounts _ := rfl
  modes _ := rfl

/-- A change of a sense input that keeps its mode is inside the frame of an event. -/
theorem eventOnly_sense {s : State} {p : Fin 32} {x : Sense} (h : x.mode = (s.sense p).mode) :
    EventOnly s (s.setSense p x) where
  rest := rfl
  jobs _ y e := ⟨y, e, JobKept.refl y⟩
  pools _ := rfl
  printers _ := rfl
  ports _ := rfl
  accounts _ := rfl
  modes r := by
    rw [State.sense_setSense]
    split
    · next e => rw [e, h]
    · rfl

/-- One more use of the free values is inside the frame of an event. -/
theorem eventOnly_choice (s : State) : EventOnly s s.countChoice :=
  ⟨rfl, fun _ y h => ⟨y, h, JobKept.refl y⟩, fun _ => rfl, fun _ => rfl, fun _ => rfl, fun _ => rfl, fun _ => rfl⟩

/-- New levels on the sense inputs are inside the frame of an event. -/
theorem eventOnly_senseLines (s : State) (l : BitVec 32) : EventOnly s (s.setSenseLines l) :=
  ⟨rfl, fun _ y h => ⟨y, h, JobKept.refl y⟩, fun _ => rfl, fun _ => rfl, fun _ => rfl, fun _ => rfl, fun _ => rfl⟩

/-- Events of the lines, the printers and the sense inputs change nothing but what `EventOnly` names. -/
theorem keepsSense_only (s : State) : KeepsSense (EventOnly s) where
  raiseAt {t k c m} h := h.trans (alertOnly_raiseAt t k c m).dispatchOnly.printingOnly.eventOnly
  clear {t k} h := h.trans (alertOnly_clear t k).dispatchOnly.printingOnly.eventOnly
  job e hs h := h.trans (dispatchOnly_job e hs.1).printingOnly.eventOnly
  disp h := h.trans (dispatchOnly_disp _ _ _).printingOnly.eventOnly
  pool he hr h := h.trans (dispatchOnly_pool he hr).printingOnly.eventOnly
  printer he _ h := h.trans (dispatchOnly_printer he).printingOnly.eventOnly
  reserved h := h.trans (dispatchOnly_reserved _ _ _).printingOnly.eventOnly
  account he h := h.trans (printingOnly_account (by rw [he.1])).eventOnly
  hand {t f} h := h.trans (printingOnly_hand t f).eventOnly
  paused h := h.trans (PrintingOnly.of_parts rfl).eventOnly
  freeSheet {t n} h := h.trans (printingOnly_freeSheetBlocks t n).eventOnly
  meters _ h := h.trans (PrintingOnly.of_parts rfl).eventOnly
  progress e hs h := h.trans (printingOnly_job e hs.1).eventOnly
  control h := h.trans (printingOnly_port rfl).eventOnly
  protocolError h := h.trans (printingOnly_port rfl).eventOnly
  endJob h := h.trans ((keepsPrinting_only _).endJob (PrintingOnly.refl _)).eventOnly
  choice h := h.trans (eventOnly_choice _)
  port he _ h := h.trans (eventOnly_port he)
  sense he _ h := h.trans (eventOnly_sense he)

/-! ### No command stops -/

/-- Every command has a next state. -/
theorem exec_next (c : Instr) (s : State) : ∃ t, exec c s = .next t := by
  cases c <;> exact ⟨_, rfl⟩

/-- Every step has a next state. -/
theorem step_next (s : State) : ∃ t, step s = .next t := by
  unfold step
  split
  · exact exec_next _ _
  · exact ⟨_, rfl⟩

end Sys2Proof.Machine
end

