-- ==== Sys2Proof/Tests/Slice0.lean ====
section
/-!
SUPPORT. Tests: ill-formed commands that the check refuses, values of the spec's worked sequences, and, for each statement with
hypotheses, a concrete state and operands that meet them.
-/

namespace Sys2Proof.Tests

-- One test at a time: each thread of a parallel run would take a stack of its own out of the memory limit.
set_option Elab.async false

open Sys2Proof Sys2Proof.Machine

/-! ### Ill-formed commands -/

theorem test_wf_refuses_frames :
    Instr.wf (.linkError (frameBytes 0x12#8 0#8 [1#8, 6#8])) = false ∧
    Instr.wf (.strayFrame { kind := 0x04#8, stream := 1#4, payload := [] }) = false ∧
    Instr.wf (.sheet 0#4 { sides := 1#8, sizeClass := 0#8, media := 0#8, colour1 := false, colour2 := false }) = false ∧
    Instr.wf (.data 0#4 []) = false ∧ Instr.wf (.data 1#4 (List.replicate 1025 0#8)) = false ∧
    Instr.wf (.data 1#4 (List.replicate 1024 0#8)) = true ∧
    Instr.wf (.jobClose 0#4) = false ∧ Instr.wf (.jobAbort 0#4) = false ∧
    Instr.wf (.strayFrame { kind := 0x20#8, stream := 0#4, payload := List.replicate 1025 0#8 }) = false := by
  decide +kernel

theorem test_wf_refuses_open :
    Instr.wf (.jobOpen 0#4
      { tag := 1#16, queueTag := 0#8, account := none, copies := 1#8, priority := none
        needs := { colour := false, duplex := false, sizeMask := 0#4, mediaMask := 0#4 } }) = false := by
  decide

theorem test_wf_refuses_tables :
    Instr.wf (.tableWrite 0#8 1#8 0#16 1#8 (List.replicate 7 0#8)) = false ∧
    Instr.wf (.tableWrite 0#8 16#8 0#16 1#8 (List.replicate 1020 0#8)) = false ∧
    Instr.wf (.routeWrite 0#8 0#16 []) = false ∧
    Instr.wf (.poolWrite 0#8 16#16 [{ enabled := true, reroute := 0#16, pointer := 0#8 }]) = false ∧
    Instr.wf (.portWrite 0#8 8#16 [{ enabled := true, rate := 0#8, window := 0#8, poll := 0#16 }]) = false ∧
    Instr.wf (.printerWrite 0#8 0#16 []) = false ∧
    Instr.wf (.tariffWrite 0#8 0 15#16 [TariffClass.initial, TariffClass.initial]) = false ∧
    Instr.wf (.accountWrite 0#8 0#16 (List.replicate 30 (readAccountEntry []))) = false ∧
    Instr.wf (.accountWrite 0#8 0#16 (List.replicate 29 (readAccountEntry []))) = true ∧
    Instr.wf (.accountWrite 0#8 512#16 [readAccountEntry []]) = false ∧
    Instr.wf (.alertSetupWrite 0#8 0#16 (List.replicate 33 0#16)) = false ∧
    Instr.wf (.alertSetupWrite 0#8 73#16 [0#16]) = true ∧
    Instr.wf (.deviceConfigWrite 0#8 1#16 [{ timeout := 0#8, action := 0#8, beacon := 0#8 }]) = false ∧
    Instr.wf (.malformed .tableRead (List.replicate 5 0#8)) = false ∧
    Instr.wf (.malformed .command (List.replicate 1025 0#8)) = false := by
  decide +kernel

/-- A character whose samples all agree. -/
def clean (data : Byte) (mark stop : Bool) : CharSamples :=
  let v : BitVec 10 :=
    data.zeroExtend 10 ||| (if mark then 0x100#10 else 0#10) ||| (if stop then 0x200#10 else 0#10)
  { s8 := v
    s9 := v
    s10 := v }

theorem test_wf_refuses_samples :
    Instr.wf (.blockTransmitted 0 (clean 1#8 false false)) = false ∧
    Instr.wf (.replyReceived 0 (clean 0#8 false false)) = false ∧
    Instr.wf (.characterReceived 0 (clean 1#8 true false)) = false ∧
    Instr.wf (.framingFault 0 (clean 1#8 false true)) = false ∧ Instr.wf (.framingFault 0 (clean 0#8 false false)) = false ∧
    Instr.wf (.breakReceived 0 (clean 0#8 true false)) = false ∧
    Instr.wf (.startConfirmed 0 { ones := 2, s3 := false, s5 := false, s7 := false }) = false ∧
    Instr.wf (.startConfirmed 0 { ones := 3, s3 := true, s5 := true, s7 := false }) = false := by
  decide

/-! ### A small shop

Port 3 is IDLE; printer 13, its drop 1, is a member of pool 3 and ready; account 230 and class 5 are those of 7.8 and 6.8. -/

def class5 : TariffClass :=
  { TariffClass.initial with
    rates := #v[350#16, 1200#16, 0#16, 0#16, 0#16, 0#16, 0#16, 0#16]
    rebate := 25#8
    surcharges := #v[0#16, 0#16, 0#16, 400#16]
    tier := 90#8 }

def payer : Account :=
  { Account.initial with
    valid := true
    balance := 3000
    overdraft := 2000
    threshold := some 2
    periodSheets := 1
    periodMono := 1
    periodCharge := 350 }

def route1 : Route :=
  { Route.initial with
    valid := true
    pool := 3
    tariffClass := 5
    fixedAccount := 230
    priority := 2
    colour := true
    duplex := true }

def config13 : PrinterConfig where
  configured := true
  pool := some 3
  colour := true
  duplex := true
  sizeMask := 15#4
  mediaMask := 15#4
  limit := 3

def printer13 : Printer :=
  { Printer.initial config13 with
    link := .answering
    condition := some .ready
    room := 20
    pollDue := 100#32 }

def port3 : Port :=
  { Port.initial { PortConfig.initial with enabled := true } with
    line := .idle
    rx := { mode := .searching, idleFlag := true, ones := 176, startNoisy := false } }

def pool3 : Pool where
  enabled := true
  reroute := 120
  pointer := 0
  queue := []

def shop : State :=
  ((((((State.reset.setPool 3 pool3).setPort 3 port3).setPrinter 13 printer13).setAccount 230 payer).setRoute 1
    route1).setTariff 0 5 class5).setDisp 13 { Dispatch.initial with feeds := true }

/-- The JOB-OPEN of job 880 (7.8). -/
def request : OpenRequest where
  tag := 880#16
  queueTag := 1#8
  account := none
  copies := 1#8
  needs := { colour := true, duplex := true, sizeMask := 15#4, mediaMask := 15#4 }
  priority := none

/-- Its record at admission, from stream 1. -/
def job880 : Job := shop.admittedJob 0 request 230

def sheetA : SheetDesc where
  sides := 2
  sizeClass := 0
  media := 0
  ink1 := .mono
  ink2 := some .mono
  byteLen := 0
  complete := false
  blocks := []

/-- The shop with one job, in slot 0, of stream 1. -/
def oneJob (x : Job) : State := (shop.setJob 0 (some x)).setStream 0 (.opened 0)

/-- The same with sheet descriptor 0 in use. -/
def oneSheet (x : Job) (d : SheetDesc) : State := (oneJob { x with sheetList := [0] }).setDescs [(0, d)]

def entryOf (feed : Byte) (sheet estimate : Nat) : WindowEntry where
  feed := feed
  job := 0
  copy := 1
  sheet := sheet
  estimate := estimate
  sent := true

/-- The record of job 880 PRINTING on printer 13. -/
def printing (x : Job) : Job := { x with phase := .printing, printer := some 13, lastPrinter := some 13 }

/-- The shop with the job of slot 0 on printer 13. -/
def onPrinter (x : Job) (w : List WindowEntry) : State :=
  (oneJob (printing x)).setDisp 13 { Dispatch.initial with assigned := some 0, window := w, feeds := true }

theorem silence_kept (s : State) (h : s.mgu = State.reset.mgu) : s.silenceRule = s := by
  obtain ⟨a, m, b, c, d, e, f, g, i, j, k, l, n, o⟩ := s
  cases h
  rfl

theorem oneJob_job (x : Job) (k : Fin 128) : (oneJob x).job k = if k = 0 then some x else none := by
  have h : shop.job k = none := get_replicate none k
  simp [oneJob, h]

theorem only_job (x : Job) : ∀ k y, (oneJob x).job k = some y → k = 0 ∧ y = x := by
  intro k y h
  rw [oneJob_job] at h
  split at h
  · next e => exact ⟨e, by cases h; rfl⟩
  · cases h

theorem range_fin (n : Nat) [NeZero n] : (List.range n).map (Fin.ofNat n) = List.finRange n := by
  apply List.ext_getElem
  · simp
  · intro i h1 h2
    simp only [List.length_map, List.length_range] at h1
    simp [Fin.ext_iff, Nat.mod_eq_of_lt h1]

theorem spoolOk_of (s : State) (h : s.spm.freeList = (List.range 32768).map (Fin.ofNat 32768))
    (hb : blocksInUse s.spm.descs = []) (hs : (s.spm.descs.map Prod.fst).Pairwise (· < ·))
    (hr : ∀ x ∈ s.spm.descs, x.1 < 16384) (ho : sheetsOf s.spm.jobs = s.spm.descs.map Prod.fst) : SpoolOk s where
  blocks := by
    rw [h, range_fin, hb, List.append_nil]
  sorted := hs
  range := hr
  owned := by rw [ho]

/-! ### Values of the worked sequences -/

/-- 6.8.1 and 6.8.2. -/
theorem test_charges :
    estimate class5 2 0 3 = 2500 ∧ sideTotal class5 0 [.colour, .mono] = 1463 ∧
    charge class5 0 3 [.colour, .mono] true = 1677 ∧ charge class5 0 3 [.colour, .mono] false = 1863 ∧
    charge class5 0 3 [.colour, .colour] false = 2500 ∧ charge class5 0 3 [.colour] true = 1440 ∧
    estimate class5 2 0 0 = 2100 ∧ charge class5 0 0 [.mono, .mono] true = 552 := by decide

/-- The meter values of 7.9. -/
theorem test_meters :
    raiseMeters { sheets := ⟨999999998, 3⟩, mono := ⟨412006150, 0⟩, colour := ⟨999999999, 255⟩ } [.colour, .colour] =
      { sheets := ⟨999999999, 3⟩, mono := ⟨412006150, 0⟩, colour := ⟨1, 0⟩ } := by decide

/-- The outcome of a command in which the spec's rules leave no fault and no refusal. -/
def after1 (c : Instr) (s : State) : State :=
  match exec c s with
  | .next t => t
  | _ => s

/-- 1.11, steps 1 to 3: the slot, the descriptor and the first block. -/
theorem test_open : ((after1 (.jobOpen 1#4 request) shop).job 0, (after1 (.jobOpen 1#4 request) shop).stream 0) =
    (some job880, .opened 0) := by decide +kernel

theorem test_sheet : (after1 (.sheet 1#4 { sides := 2#8, sizeClass := 0#8, media := 0#8, colour1 := false, colour2 := false })
    (oneJob job880)).spm.descs = [(0, sheetA)] := by decide +kernel

theorem test_data :
    let t := after1 (.data 1#4 [7#8, 8#8]) ((oneSheet job880 { sheetA with byteLen := 4095, blocks := [9] }).setFreeList
      (0 :: 1 :: List.replicate 2047 9))
    t.spm.descs = [(0, { sheetA with byteLen := 4097, blocks := [9, 0] })] ∧ t.spm.freeList.head? = some 1 ∧
      t.spm.dram = [(0, 8#8), (40959, 7#8)] := by decide +kernel

/-- 7.8, steps 1 to 3: a job of three sheets that has closed is assigned, two sheets are released and the gate fails. -/
theorem test_close :
    let s := (oneJob { job880 with sheetList := [0, 1, 2], sheets := 3 }).setDescs
      [(0, { sheetA with complete := true }), (1, { sheetA with complete := true }), (2, { sheetA with complete := true })]
    let t := after1 (.jobClose 1#4) s
    ((t.job 0).map fun x => (x.phase, x.releasePos, x.drain)) = some (.printing, 2, some .budget) ∧
      (t.account 230).reserved = 4200 ∧ ((t.disp 13).window.map WindowEntry.estimate) = [2100, 2100] ∧
      (t.arl.queue.map AlertEntry.key) = [budgetKey 230] := by decide +kernel

/-- 7.8, step 4: the delivery of (1, 1). -/
theorem test_delivery :
    let s := (onPrinter { job880 with sheetList := [0, 1, 2], sheets := 3, isOpen := false, releasePos := 2, drain := some .budget }
      [entryOf 0#8 1 2100, entryOf 1#8 2 2100]).setDescs
      [(0, { sheetA with complete := true }), (1, { sheetA with complete := true }), (2, { sheetA with complete := true })]
    let u := (s.setAccount 230 { payer with reserved := 4200 }).setFreeList (List.replicate 2048 9)
    let t := State.takeRecord 13 u { feed := 0#8, printed := [.mono, .mono] }
    ((t.job 0).map fun x => (x.confirmPos, x.releasePos, x.drain, x.chargeTotal)) = some (1, 3, none, 613) ∧
      (t.account 230).balance = 2387 ∧ (t.account 230).reserved = 4200 ∧ (t.account 230).periodCharge = 963 := by
  decide +kernel

/-- The characters of LINE-RESET (R86, R179). -/
theorem test_line_reset : (lineResetCharacters.map fun c => (c.data, c.mark)) =
    [(0x0F#8, true), (0x0F#8, false), (0#8, false), (crc8 [0x0F#8, 0#8], false)] := by decide +kernel

/-- A queue of 64 entries as in 9.8. -/
def fullQueue : List AlertEntry := (List.range 64).map fun n =>
  newAlert { kind := .account, index := n, cls := if n = 0 ∨ n = 5 ∨ n = 20 then .budgetHold else .tonerOut } true 0#32

/-- 9.8, steps 1 and 2. -/
theorem test_full_queue :
    let t := (shop.setAlerts fullQueue).raise (portFaultKey 6)
    let v := t.raiseEvent (damagedKey 5120#16)
    t.arl.queue.length = 64 ∧ t.arl.queue.head?.map AlertEntry.key = some { kind := .account, index := 1, cls := .tonerOut } ∧
      t.arl.dropped = 1 ∧ v.arl.dropped = 2 ∧ v.arl.queue = t.arl.queue := by decide +kernel

/-- 9.9: the third low sample of a slot in LEVEL mode stalls its printer. -/
theorem test_sense :
    let s := (onPrinter job880 []).setSense 13 { Sense.initial .level with run := 2 }
    let t := after1 (.senseSample 0xFFFFDFFF#32) (s.setNow 40002#32)
    (t.sense 13) = { high := false, run := 0, stamp := 40002#32, mode := .level, active := true, sampled := 40002#32 } ∧
      (t.disp 13).stall = some 160002#32 ∧ (t.job 0).map Job.stalled = some true := by decide +kernel

/-- 9.9: a filter takes one sample at a tick; its next low sample of the tick is none. -/
theorem test_one_sample_a_tick :
    let s := (shop.setSense 13 { Sense.initial .level with run := 2, sampled := 7#32 }).setNow 7#32
    let t := after1 (.senseSample 0#32) s
    t.sense 13 = s.sense 13 ∧ (t.sense 12).run = 1 ∧ (after1 (.fallingChange 13) s).sense 13 = s.sense 13 := by decide +kernel

/-- R172: the FRAME_SENT that sends the reply of a RESTART resets the part. -/
theorem test_restart_resets :
    let t := after1 .frameSent ((shop.setTx [.commandReply 1#8 11#8 .ok [], .pause 0]).setRestart (some 1))
    t.jli.tx = [.hello .restart] ∧ t.jli.restart = none ∧ t.mgu.cause = .restart ∧ (t.port 3).config.enabled = true := by
  decide +kernel

/-! ### The hypotheses of the statements are met

Each theorem names a statement and gives states and operands that meet the hypotheses of its clauses, at the ends of their
ranges. Every state here is one that no RESTART holds and that the silence rule leaves as it is, unless it is said. -/

theorem witness_quiet (x : Job) (w : List WindowEntry) (d : SheetDesc) :
    (shop.jli.restart = none ∧ shop = shop.silenceRule) ∧
    ((oneJob x).jli.restart = none ∧ oneJob x = (oneJob x).silenceRule) ∧
    ((oneSheet x d).jli.restart = none ∧ oneSheet x d = (oneSheet x d).silenceRule) ∧
    ((onPrinter x w).jli.restart = none ∧ onPrinter x w = (onPrinter x w).silenceRule) :=
  ⟨⟨rfl, (silence_kept shop rfl).symm⟩, ⟨rfl, (silence_kept (oneJob x) rfl).symm⟩,
    ⟨rfl, (silence_kept (oneSheet x d) rfl).symm⟩, ⟨rfl, (silence_kept (onPrinter x w) rfl).symm⟩⟩

theorem witness_IdleStepIsATick :
    shop.pending = [] ∧ shop.jli.restart ≠ some 0 ∧ (shop.setRestart (some 0)).pending = [] ∧
      (shop.setRestart (some 0)).jli.restart = some 0 := ⟨rfl, by decide, rfl, rfl⟩

theorem shop_routes : RoutesOk shop := by
  unfold RoutesOk
  decide +kernel

/-- For RoutesAfterEachReset, PoolsAfterEachReset and EveryResetSetsTheState. -/
theorem witness_Resets :
    ((shop.setRestart (some 0)).jli.restart = some 0 ∧ RoutesOk (shop.setRestart (some 0)) ∧ shop.jli.restart ≠ some 0) ∧
    (((shop.setTx [.pause 0, .resume 0]).setRestart (some 1)).jli.tx = .pause 0 :: [.resume 0] ∧
      ((shop.setTx [.pause 0, .resume 0]).setRestart (some 1)).jli.restart = some 1 ∧
      RoutesOk ((shop.setTx [.pause 0, .resume 0]).setRestart (some 1))) ∧
    ((shop.setTx (List.replicate 256 (.pause 0))).jli.restart = none ∧
      256 ≤ (shop.setTx (List.replicate 256 (.pause 0))).silenceRule.jli.tx.length ∧
      RoutesOk (shop.setTx (List.replicate 256 (.pause 0)))) :=
  ⟨⟨rfl, shop_routes, by decide⟩, ⟨rfl, rfl, shop_routes⟩, rfl, by decide +kernel, shop_routes⟩

theorem witness_RestartArmsTheReset :
    ((shop.setRestart (some 1)).jli.restart ≠ none ∧ isFrame (.restart 0#8) = true) ∧
    (shop.setTx (List.replicate 255 (.pause 0))).silenceRule.jli.tx.length < 256 ∧
    256 ≤ (shop.setTx (List.replicate 256 (.pause 0))).silenceRule.jli.tx.length := by decide +kernel

theorem witness_WrongFormsAreRefused :
    ([] : List Byte).length < 5 ∧ [1#8, 1#8, 0#8, 0#8].length < 5 ∧ [1#8, 1#8, 0#8, 0#8, 1#8, 0#8].length ≠ 5 ∧
    5 ≤ [1#8, 1#8, 0#8, 0#8, 1#8, 0#8].length ∧ [1#8].length < 2 ∧
    commandArgLength (byteAt [1#8, 6#8, 0#8] 1).toNat ≠ some ([1#8, 6#8, 0#8].length - 2) ∧
    commandArgLength (byteAt [1#8, 12#8] 1).toNat ≠ some ([1#8, 12#8].length - 2) := by decide

theorem witness_DiscardedAndStrayFrames :
    frameFault [] = true ∧ frameFault (frameBytes 0x12#8 16#8 [1#8, 6#8]) = true ∧
    frameFault (frameBytes 0x12#8 0#8 (List.replicate 1025 0#8)) = true ∧
    frameFault [0x12#8, 0#8, 0#8, 0#8, 0#8, 0#8] = true ∧
    strayInFrame { kind := 0x04#8, stream := 0#4, payload := [] } = true ∧
    strayInFrame { kind := 0x04#8, stream := 1#4, payload := [0#8] } = true ∧
    strayInFrame { kind := 0x12#8, stream := 1#4, payload := [1#8, 6#8] } = true ∧
    strayInFrame { kind := 0x26#8, stream := 0#4, payload := [] } = true ∧
    strayInFrame { kind := 0x03#8, stream := 15#4, payload := [] } = false ∧
    strayInFrame { kind := 0x01#8, stream := 1#4, payload := List.replicate 9 0#8 } = true ∧
    strayInFrame { kind := 0x02#8, stream := 1#4, payload := List.replicate 5 0#8 } = true ∧
    strayInFrame { kind := 0x10#8, stream := 0#4, payload := [] } = false ∧
    shop.jli.restart = none ∧ (shop.setRestart (some 1)).jli.restart ≠ none := by decide +kernel

theorem witness_TransmitListRule :
    (shop.setTx (List.replicate 255 (.pause 0))).jli.tx.length < 256 ∧
    256 ≤ (shop.setTx (List.replicate 256 (.pause 0))).jli.tx.length ∧
    (shop.setTx (List.replicate 191 (.pause 0))).jli.tx.length < 192 ∧
    192 ≤ (shop.setTx (List.replicate 192 (.pause 0))).jli.tx.length ∧
    shop.jli.tx = .hello .powerOn :: [] ∧ shop.jli.restart = none ∧
    (shop.setRestart (some (0 + 2))).jli.restart = some (0 + 2) ∧ (shop.setRestart (some 1)).jli.restart = some 1 ∧
    (shop.setTx []).jli.tx = [] ∧ (shop.setRestart (some 0)).jli.restart = some 0 := by decide +kernel

/-- A part that has fallen silent, with an action. -/
def silent (hold : Bool) : State :=
  shop.setMgu { shop.mgu with timeout := 30, holdAction := hold, attended := false, timer := none }

theorem witness_SilenceRule :
    (isFrame (.frameSent) = false ∧ isFrame (.jobClose 1#4) = true ∧ Instr.wf (.jobClose 1#4) = true) ∧
    (shop.mgu.attended = true ∧ 0 < (silent true).mgu.timeout ∧ shop.mgu.timeout = 0) ∧
    ((silent false).mgu.attended = false ∧ (silent false).mgu.holdAction = false ∧ (silent true).mgu.attended = false ∧
      (silent true).unattendedHold = true) ∧
    (reached 5#32 5#32 = true ∧ reached 5#32 6#32 = false ∧ reached 0#32 0xFFFFFFFF#32 = true) := by decide +kernel

theorem witness_FramesRoundTripAndMakeCommands : (List.replicate 1024 0#8).length ≤ 1024 := by decide +kernel

/-! #### Streams and jobs -/

theorem witness_JobFramesOnIdleAndDiscardStreams :
    shop.stream 14 = .idle ∧ (shop.setStream 14 .discard).stream 14 = .discard ∧ Instr.wf (.data (streamNumber 14) []) = true ∧
    Instr.wf (.jobClose (streamNumber 0)) = true ∧ Instr.wf (.jobOpen (streamNumber 0) request) = true := by
  decide +kernel

theorem shop_job (k : Fin 128) : shop.job k = none := get_replicate none k

theorem shop_passes : ∀ n, 1 ≤ n → n ≤ 7 → AdmissionPasses shop request n
  | 1, _, _ => fun j x h => by rw [shop_job] at h; cases h
  | 2, _, _ => show (shop.routeOf request).valid = true by decide +kernel
  | 3, _, _ => fun h => absurd h (by decide +kernel)
  | 4, _, _ => ⟨230, by decide +kernel⟩
  | 5, _, _ => by constructor <;> intro _ <;> decide +kernel
  | 6, _, _ => ⟨13, ⟨by decide +kernel, by decide +kernel, fun _ => by decide +kernel, fun _ => by decide +kernel,
      fun _ h => h, fun _ h => h⟩⟩
  | 7, _, _ => ⟨0, shop_job 0⟩

theorem witness_JobOpenIsAdmitted :
    shop.stream 0 = .idle ∧ (∀ n, 1 ≤ n → n ≤ 7 → AdmissionPasses shop request n) ∧
      ChargedNumber (shop.routeOf request) request = some (230 : Fin 512).val ∧ shop.job 0 = none ∧
      ∀ k, k < (0 : Fin 128) → shop.job k ≠ none :=
  ⟨rfl, shop_passes, by decide +kernel, shop_job 0, fun k h => absurd h (by omega)⟩

/-- Each of the seven checks is the first to fail somewhere. -/
theorem witness_JobOpenIsRefusedByTheFirstFailingCheck :
    (¬AdmissionPasses (oneJob job880) request 1) ∧
    ((∀ m, 1 ≤ m → m < 2 → AdmissionPasses (shop.setRoute 1 { route1 with valid := false }) request m) ∧
      ¬AdmissionPasses (shop.setRoute 1 { route1 with valid := false }) request 2) ∧
    ((∀ m, 1 ≤ m → m < 3 → AdmissionPasses (shop.setRoute 1 { route1 with fromJob := true }) request m) ∧
      ¬AdmissionPasses (shop.setRoute 1 { route1 with fromJob := true }) request 3) ∧
    ((∀ m, 1 ≤ m → m < 4 → AdmissionPasses (shop.setAccount 230 { payer with blocked := true }) request m) ∧
      ¬AdmissionPasses (shop.setAccount 230 { payer with blocked := true }) request 4) ∧
    ((∀ m, 1 ≤ m → m < 5 → AdmissionPasses (shop.setRoute 1 { route1 with colour := false }) request m) ∧
      ¬AdmissionPasses (shop.setRoute 1 { route1 with colour := false }) request 5) := by
  refine ⟨fun h => h 0 job880 (oneJob_job _ 0) rfl,
    ⟨?_, fun h => absurd (show Route.valid _ = true from h) (by decide +kernel)⟩, ⟨?_, fun h => h (by decide +kernel) rfl⟩,
    ⟨?_, ?_⟩, ⟨?_, ?_⟩⟩
  · intro m h1 h2
    obtain rfl : m = 1 := by omega
    intro j x h
    cases (show shop.job j = some x from h).symm.trans (shop_job j)
  · intro m h1 h2
    have : m = 1 ∨ m = 2 := by omega
    rcases this with rfl | rfl
    · intro j x h
      cases (show shop.job j = some x from h).symm.trans (shop_job j)
    · show Route.valid _ = true
      decide +kernel
  · intro m h1 h2
    have : m = 1 ∨ m = 2 ∨ m = 3 := by omega
    rcases this with rfl | rfl | rfl
    · intro j x h
      rw [State.job_setAccount, shop_job] at h
      cases h
    · show Route.valid _ = true
      decide +kernel
    · exact fun h => absurd h (by decide +kernel)
  · rintro ⟨a, h, _, hb⟩
    have : a = 230 := by
      have e : ChargedNumber ((shop.setAccount 230 { payer with blocked := true }).routeOf request) request = some 230 := by
        decide +kernel
      rw [e] at h
      exact Fin.ext (Option.some.inj h).symm
    subst this
    exact absurd hb (by decide +kernel)
  · intro m h1 h2
    have : m = 1 ∨ m = 2 ∨ m = 3 ∨ m = 4 := by omega
    rcases this with rfl | rfl | rfl | rfl
    · intro j x h
      cases (show shop.job j = some x from h).symm.trans (shop_job j)
    · show Route.valid _ = true
      decide +kernel
    · exact fun h => absurd h (by decide +kernel)
    · exact ⟨230, by decide +kernel⟩
  · rintro ⟨h, _⟩
    exact absurd (h rfl) (by decide +kernel)

/-- A shop whose printer has no colour, and one whose slots are full. -/
def monoShop : State := shop.setPrinter 13 { printer13 with config := { config13 with colour := false } }

def fullShop : State :=
  { shop with spm := { shop.spm with jobs := Vector.replicate 128 (some { job880 with tag := 1#16 }) } }

theorem witness_JobOpenIsRefusedByTheLastChecks :
    ((∀ m, 1 ≤ m → m < 6 → AdmissionPasses monoShop request m) ∧ ¬AdmissionPasses monoShop request 6) ∧
    ((∀ m, 1 ≤ m → m < 7 → AdmissionPasses fullShop request m) ∧ ¬AdmissionPasses fullShop request 7) := by
  refine ⟨⟨?_, ?_⟩, ?_, ?_⟩
  · intro m h1 h2
    have := shop_passes m h1 (by omega)
    have : m = 1 ∨ m = 2 ∨ m = 3 ∨ m = 4 ∨ m = 5 := by omega
    rcases this with rfl | rfl | rfl | rfl | rfl <;> assumption
  · rintro ⟨p, h⟩
    have all : ∀ p, ((monoShop.printer p).config.configured && (monoShop.printer p).config.colour) = false := by
      decide +kernel
    have := all p
    rw [h.configured, h.colour rfl] at this
    cases this
  · have old : ∀ j x, fullShop.job j = some x → x.tag ≠ request.tag := by
      intro j x h
      have e : fullShop.job j = some { job880 with tag := 1#16 } := get_replicate _ j
      rw [e] at h
      cases h
      decide
    intro m h1 h2
    have := shop_passes m h1 (by omega)
    have : m = 1 ∨ m = 2 ∨ m = 3 ∨ m = 4 ∨ m = 5 ∨ m = 6 := by omega
    rcases this with rfl | rfl | rfl | rfl | rfl | rfl
    · exact old
    · assumption
    · assumption
    · assumption
    · assumption
    · obtain ⟨p, c⟩ := this
      exact ⟨p, ⟨c.configured, c.pool, c.colour, c.duplex, c.sizes, c.media⟩⟩
  · rintro ⟨j, h⟩
    have e : fullShop.job j = some { job880 with tag := 1#16 } := get_replicate _ j
    rw [e] at h
    cases h

/-- The job of slot 0 in a phase. -/
def inPhase (p : Phase) : Job := { job880 with phase := p }

/-- For JobOpenOnAnOpenStream, FaultyFramesEndTheJob and CancellationPath: an open stream, and each clause of `Cancelled`. -/
theorem witness_Cancelled :
    ((oneJob job880).stream 0 = .opened 0 ∧ (oneJob job880).job 0 = some job880 ∧ job880.phase ≠ .cancelling) ∧
    (EndsAtOnce (oneJob job880) job880 ∧ EndsAtOnce (oneJob (inPhase .held)) (inPhase .held) ∧
      EndsAtOnce (oneJob (inPhase .queued)) (inPhase .queued) ∧ EndsAtOnce (onPrinter job880 []) (printing job880)) ∧
    (((onPrinter job880 [entryOf 9#8 1 0]).disp 13).window = entryOf 9#8 1 0 :: [] ∧ (entryOf 9#8 1 0).job = 0 ∧
      ((onPrinter job880 [entryOf 9#8 1 0]).printer 13).link ≠ .lost ∧
      ((onPrinter job880 [entryOf 9#8 1 0]).port (portOf 13)).line ≠ .disabled) ∧
    (((onPrinter job880 [entryOf 9#8 1 0]).setPrinter 13 { printer13 with link := .lost }).printer 13).link = .lost := by
  refine ⟨⟨by decide +kernel, oneJob_job _ 0, by decide⟩, ⟨.inl rfl, .inr (.inl rfl), .inr (.inr (.inl rfl)), ?_⟩,
    by decide +kernel, by decide +kernel⟩
  exact .inr (.inr (.inr ⟨rfl, 13, rfl, by decide +kernel⟩))

/-- A sheet of a given number of sides, size class and medium. -/
def decl (sides size media : Byte) : SheetDecl where
  sides := sides
  sizeClass := size
  media := media
  colour1 := true
  colour2 := true

/-- The shop with every descriptor in use. -/
def noDescriptors : State := (oneJob job880).setDescs ((List.range 16384).map fun n => (n, sheetA))

theorem witness_FaultyFramesEndTheJob :
    ((decl 3#8 0#8 0#8).sides ≠ 1#8 ∧ (decl 3#8 0#8 0#8).sides ≠ 2#8 ∧ job880.needs.sizeMask.getLsbD (4#8).toNat = false ∧
      job880.needs.mediaMask.getLsbD (255#8).toNat = false) ∧
    (sheetFault job880.needs (decl 1#8 3#8 3#8) = none ∧ noDescriptors.job 0 = some job880 ∧
      16384 ≤ noDescriptors.spm.descs.length) ∧
    ((oneSheet job880 { sheetA with byteLen := 16777216 }).lastIncomplete { job880 with sheetList := [0] } =
      some (0, { sheetA with byteLen := 16777216 }) ∧ 16777216 < 16777216 + [7#8].length ∧
      Instr.wf (.data (streamNumber 0) [7#8]) = true) ∧
    (4096 + [7#8].length ≤ 16777216 ∧ ((oneSheet job880 { sheetA with byteLen := 4096 }).setFreeList []).spm.freeList.length <
      (4096 + [7#8].length + 4095) / 4096 - (4096 + 4095) / 4096) := by
  refine ⟨by decide, ⟨by decide, by rw [noDescriptors, State.job_setDescs, oneJob_job]; rfl, ?_⟩, by decide +kernel, by decide +kernel⟩
  exact Nat.le_of_eq (by rw [noDescriptors, State.setDescs_descs, List.length_map, List.length_range])

theorem shop_freeList : shop.spm.freeList = (List.range 32768).map (Fin.ofNat 32768) := by
  have e : shop.spm = State.reset.spm := rfl
  rw [e]
  simp only [State.reset, Spm.initial]

theorem oneSheet_freeList (x : Job) (d : SheetDesc) :
    (oneSheet x d).spm.freeList = (List.range 32768).map (Fin.ofNat 32768) := by
  simp only [oneSheet, oneJob, State.setDescs_freeList, State.setStream_freeList, State.setJob_freeList, shop_freeList]

theorem oneJob_spoolOk (x : Job) (h : x.sheetList = []) : SpoolOk (oneJob x) := by
  refine spoolOk_of _ ?_ rfl .nil (by intro y hy; cases hy) ?_
  · simp only [oneJob, State.setStream_freeList, State.setJob_freeList, shop_freeList]
  · have e : (oneJob x).spm.jobs.toList = some x :: List.replicate 127 none := rfl
    simp only [sheetsOf, e, List.flatMap_cons, h]
    rfl

theorem oneSheet_spoolOk (x : Job) (d : SheetDesc) (h : d.blocks = []) : SpoolOk (oneSheet x d) := by
  refine spoolOk_of _ (oneSheet_freeList x d) ?_ (List.pairwise_singleton _ _)
    (by intro y hy; cases hy with | head => exact Nat.zero_lt_succ _ | tail _ h => cases h) ?_
  · show d.blocks ++ [] = []
    rw [h]
    rfl
  · have e : (oneSheet x d).spm.jobs.toList = some { x with sheetList := [0] } :: List.replicate 127 none := rfl
    simp only [sheetsOf, e, List.flatMap_cons]
    rfl

theorem witness_SheetIsTaken :
    (SpoolOk (oneJob job880) ∧ (oneJob job880).lastIncomplete job880 = none ∧ sheetFault job880.needs (decl 2#8 0#8 0#8) = none ∧
      findDesc (oneJob job880).spm.descs 0 = none) ∧
    (∀ (p : Phase) (n : Nat), SpoolOk (oneSheet { inPhase p with startThreshold := n } sheetA) ∧
      (oneSheet { inPhase p with startThreshold := n } sheetA).lastIncomplete
        { inPhase p with startThreshold := n, sheetList := [0] } = some (0, sheetA) ∧
      findDesc (oneSheet { inPhase p with startThreshold := n } sheetA).spm.descs 1 = none ∧
      ∀ k, k < 1 → findDesc (oneSheet { inPhase p with startThreshold := n } sheetA).spm.descs k ≠ none) := by
  refine ⟨⟨oneJob_spoolOk _ rfl, rfl, by decide, rfl⟩, fun p n => ⟨oneSheet_spoolOk _ _ rfl, rfl, rfl, ?_⟩⟩
  intro k h
  obtain rfl : k = 0 := by omega
  intro e
  cases e

theorem witness_DataIsStored :
    (oneJob job880).lastIncomplete job880 = none ∧ Instr.wf (.data (streamNumber 0) []) = true ∧
    (oneSheet job880 sheetA).lastIncomplete { job880 with sheetList := [0] } = some (0, sheetA) ∧ SpoolOk (oneSheet job880 sheetA) ∧
    Memory.wf (oneSheet job880 sheetA).spm.dram = true ∧ sheetA.byteLen + [7#8].length ≤ 16777216 ∧
    (sheetA.byteLen + [7#8].length + 4095) / 4096 - (sheetA.byteLen + 4095) / 4096 ≤
      (oneSheet job880 sheetA).spm.freeList.length ∧
    sheetA.blocks.length = (sheetA.byteLen + 4095) / 4096 := by
  refine ⟨rfl, by decide, rfl, oneSheet_spoolOk _ _ rfl, rfl, by decide, ?_, by decide⟩
  rw [oneSheet_freeList, List.length_map, List.length_range]
  decide

theorem witness_JobCloseEndsTheInput (p : Phase) (h : Holds) :
    (SpoolOk (oneJob job880) ∧ (oneJob job880).lastIncomplete job880 = none ∧ job880.sheets = 0 ∧ job880.printer = none) ∧
    (SpoolOk (oneSheet { inPhase p with holds := h } sheetA) ∧
      ((oneSheet { inPhase p with holds := h } sheetA).lastIncomplete
        { inPhase p with holds := h, sheetList := [0] }).isSome = true ∧ noHolds emptyHolds = true ∧
      noHolds { emptyHolds with arrival := true } = false) :=
  ⟨⟨oneJob_spoolOk _ rfl, rfl, rfl, rfl⟩, oneSheet_spoolOk _ _ rfl, rfl, rfl, rfl⟩

theorem witness_CancellationPath (p : Phase) :
    (oneJob (inPhase p)).stream 0 = .opened 0 ∧ (oneJob (inPhase p)).job 0 = some (inPhase p) ∧
    (∀ k y, (oneJob (inPhase p)).job k = some y → y.tag ≠ 881#16) ∧
    (∀ k y, (oneJob (inPhase p)).job k = some y → y.tag = 880#16 → k = 0) ∧
    ∀ k y, shop.job k = some y → y.tag ≠ 880#16 := by
  refine ⟨rfl, oneJob_job _ 0, fun k y h => ?_, fun k y h _ => (only_job _ k y h).1, fun k y h => ?_⟩
  · rw [(only_job _ k y h).2]
    show (880#16 : Half) ≠ 881#16
    decide
  · rw [show shop.job k = none from get_replicate none k] at h
    cases h

theorem witness_JobEndFreesWhatTheJobHeld :
    SpoolOk (oneSheet job880 sheetA) ∧ (oneSheet job880 sheetA).job 0 = some { job880 with sheetList := [0] } :=
  ⟨oneSheet_spoolOk _ _ rfl, oneJob_job _ 0⟩

theorem witness_WatermarksPauseAndResume :
    (shop.setFreeList (List.replicate 2047 0)).spm.freeList.length < 2048 ∧
    2048 ≤ (shop.setFreeList (List.replicate 2048 0)).spm.freeList.length ∧ shop.spm.paused = false ∧
    (shop.setPaused true).spm.paused = true ∧ 4096 ≤ (shop.setFreeList (List.replicate 4096 0)).spm.freeList.length ∧
    (shop.setFreeList (List.replicate 4095 0)).spm.freeList.length < 4096 := by
  refine ⟨?_, ?_, rfl, rfl, ?_, ?_⟩ <;> rw [State.setFreeList_freeList, List.length_replicate] <;> decide

/-! #### Tables and commands -/

theorem witness_TableReadsReturnTheEntries :
    (0#8).toNat = 0 ∧ 32 < (33#8).toNat ∧ 1 ≤ (1#8).toNat ∧ (32#8).toNat ≤ 32 ∧ tableShape 0#8 = none ∧
    tableShape 15#8 = none ∧ tableShape 21#8 = none ∧ tableShape 1#8 = some (256, some 7) ∧ tableShape 20#8 = some (1, none) ∧
    256 < (225#16).toNat + (32#8).toNat ∧ (224#16).toNat + (32#8).toNat ≤ 256 ∧ (0#16).toNat + (1#8).toNat ≤ 1 ∧
    1 < (1#16).toNat + (1#8).toNat ∧ ∀ k, (shop.pool k).queue.length ≤ 128 := by decide +kernel

/-- Accounts at both ends of their ranges. -/
def lowest : Account := { Account.initial with balance := -2147483648 }

def highest : Account where
  valid := true
  blocked := true
  unlimited := true
  balance := 2147483647
  overdraft := 2147483647
  reserved := 0
  threshold := some 16777215
  periodSheets := 4294967295
  periodMono := 4294967295
  periodColour := 4294967295
  periodCharge := 4294967295
  bound := 128

theorem witness_EntriesReadAsTheyAreWritten :
    ({ route1 with startThreshold := 255 } : Route).startThreshold ≤ 255 ∧
    PortConfigOk { enabled := true, rate := 0, window := 1, poll := 20 } ∧
    PortConfigOk { enabled := true, rate := 5, window := 20, poll := 1000 } ∧ AccountOk lowest ∧ AccountOk highest ∧
    shop.mgu.timeout ≤ 255 := by
  refine ⟨by decide, by unfold PortConfigOk; decide, by unfold PortConfigOk; decide, ⟨by decide, by decide, by decide, ?_,
    by decide, by decide, by decide, by decide⟩, ⟨by decide, by decide, by decide, ?_, by decide, by decide, by decide,
    by decide⟩, by decide +kernel⟩
  · intro t h
    cases h
  · intro t h
    cases h
    decide

/-- For TableReadsReturnTheEntries: a FREE slot, a queue of two jobs with their tags, and the alert queue past its end. -/
theorem witness_TableReadsReturnTheEntries_bytes :
    shop.job 127 = none ∧ (oneJob job880).job 0 = some job880 ∧
    [0, 0].map (fun j => ((oneJob job880).job j).map Job.tag) = [880#16, 880#16].map some ∧
    shop.arl.queue.length ≤ 0 ∧ (shop.raise (printerKey 13 .jam)).arl.queue.length = 1 := by decide +kernel

theorem witness_RawTableWritesAreTestedInOrder :
    tableShape 10#8 = none ∧ tableShape 16#8 = some (128, none) ∧ tableShape 9#8 = some (1, some 3) ∧
    1 < (1#16).toNat + (1#8).toNat ∧ (0#16).toNat + (1#8).toNat ≤ 1 ∧ [0#8, 0#8].length ≠ (1#8).toNat * 3 ∧
    [0#8, 0#8, 0#8].length = (1#8).toNat * 3 ∧ [0#8, 0#8, 0#8, 0#8].length ≠ (1#8).toNat * 3 := by decide

theorem witness_WritesApplyInIndexOrder :
    (Instr.routeWrite 0#8 224#16 (List.replicate 32 (readRouteEntry []))).wf = true ∧
    (Instr.poolWrite 0#8 15#16 [readPoolEntry []]).wf = true ∧ (Instr.portWrite 0#8 7#16 [readPortEntry []]).wf = true ∧
    (Instr.printerWrite 0#8 31#16 [readPrinterEntry []]).wf = true ∧
    (Instr.accountWrite 0#8 483#16 (List.replicate 29 (readAccountEntry []))).wf = true ∧
    (Instr.alertSetupWrite 0#8 42#16 (List.replicate 32 0#16)).wf = true ∧
    (Instr.deviceConfigWrite 0#8 0#16 [readDeviceConfigEntry []]).wf = true := by decide +kernel

/-- For RouteIsStoredClamped: a route that is not valid; one in an enabled pool, from the job or of a valid account; one in a
disabled pool; one of an account that is not valid. -/
theorem witness_RouteIsStoredClamped :
    Route.initial.valid = false ∧ route1.valid = true ∧ (shop.pool route1.pool).enabled = true ∧
    (shop.account route1.fixedAccount).valid = true ∧ (shop.pool 15).enabled = false ∧ (shop.account 511).valid = false := by
  decide +kernel

theorem witness_PoolWrites :
    ((∀ r, (shop.route r).valid = true → (shop.route r).pool ≠ 2) ∧ (∀ j x, shop.job j = some x → x.pool ≠ 2) ∧
      ∀ p, (shop.printer p).config.configured = true → (shop.printer p).config.pool ≠ some 2) ∧
    ((shop.route 1).valid = true ∧ (shop.route 1).pool = 3) ∧ ((oneJob job880).job 0 = some job880 ∧ job880.pool = 3) ∧
    (shop.printer 13).config.configured = true ∧ (shop.printer 13).config.pool = some 3 := by
  refine ⟨⟨by decide +kernel, fun j x h => ?_, by decide +kernel⟩, by decide +kernel, ⟨oneJob_job _ 0, by decide +kernel⟩,
    by decide +kernel⟩
  rw [shop_job] at h
  cases h

/-- An empty alert queue is legal. -/
theorem alertsOk_empty (a : Arl) (h : a.queue = []) (d : a.dropped = 0) : AlertsOk a where
  fits := by rw [h]; decide
  keys := by rw [h]; exact .nil
  settled := by rw [h]; intro e he; cases he
  counted := by rw [h]; intro e he; cases he
  dropped := by rw [d]; decide

theorem witness_PortWrites :
    ((onPrinter job880 []).port 3).config.enabled = true ∧ ((onPrinter job880 []).disp (printerAt 3 1)).assigned ≠ none ∧
    (shop.port 0).config.enabled = false ∧ (shop.port 0).line = .disabled ∧ (∀ d, (shop.disp (printerAt 3 d)).assigned = none) ∧
    (shop.port 3).line = .idle ∧
    (((shop.setPort 3 { port3 with line := .recovering, exchange := some lineResetExchange }).port 3).exchange ≠ none ∧
      ((shop.setPort 3 { port3 with line := .recovering }).port 3).exchange = none) ∧
    (shop.printer (printerAt 3 1)).config.configured = true := by decide +kernel

theorem witness_PortWrites_alerts : AlertsOk shop.arl := alertsOk_empty _ rfl rfl

theorem witness_PrinterAndAccountRequests_writes :
    ((onPrinter job880 []).disp 13).assigned ≠ none ∧ (shop.pool 2).enabled = false ∧ (shop.pool 3).enabled = true ∧
    (shop.disp 13).assigned = none ∧ (shop.printer 13).config.configured = true ∧
    (shop.printer 31).config.configured = false ∧ (shop.disp 31).assigned = none := by decide +kernel

theorem witness_AccountWrites :
    (readAccountEntry []).valid = false ∧ 0 < ((shop.setAccount 9 { payer with bound := 1 }).account 9).bound ∧
    ((shop.route 1).valid = true ∧ (shop.route 1).fromJob = false ∧ (shop.route 1).fixedAccount = 230) ∧
    (shop.account 511).bound = 0 ∧
    (∀ r, (shop.route r).valid = true → (shop.route r).fromJob = false → (shop.route r).fixedAccount ≠ 511) ∧
    (readAccountEntry [1#8]).valid = true := by decide +kernel

/-- A queue of one entry that is neither acked nor announced, of a class that is not enabled. -/
def muted : State :=
  (shop.setMask 0#12).setAlerts [{ newAlert (printerKey 13 .jam) true 0#32 with sent := false }]

theorem alertsOk_one (a : Arl) (e : AlertEntry) (h : a.queue = [e]) (d : a.dropped = 0) (hs : e.acked = true → e.active = true)
    (hc : 1 ≤ e.count ∧ e.count ≤ 255) : AlertsOk a where
  fits := by rw [h]; exact Nat.le_of_ble_eq_true rfl
  keys := by rw [h]; exact List.pairwise_singleton _ _
  settled := by
    rw [h]
    intro x hx
    cases hx with
    | head => exact hs
    | tail _ h => cases h
  counted := by
    rw [h]
    intro x hx
    cases hx with
    | head => exact hc
    | tail _ h => cases h
  dropped := by rw [d]; decide

theorem witness_AlertSetupAndSenseInputs_setup :
    (AlertsOk muted.arl ∧ ((muted.arl.queue.filter fun a => enabledIn (BitVec.truncate 12 0xFFF#16) a.key.cls &&
      !enabledIn muted.arl.mask a.key.cls && !a.acked && !a.sent).length = 1) ∧ muted.jli.tx.length + 1 ≤ 192) ∧
    ((shop.setSense 13 { Sense.initial .level with active := true }).sense 13).active = true ∧
    ((shop.setSense 13 { Sense.initial .edge with high := false }).sense 13).high = false ∧
    (shop.sense 13).mode = .off ∧ (shop.sense 13).high = true :=
  ⟨⟨alertsOk_one _ _ rfl rfl (fun h => (by cases h)) (by decide), by decide +kernel, by decide +kernel⟩, by decide +kernel⟩

theorem witness_TariffBankWrites :
    (Instr.tariffWrite 0#8 1 0#16 (List.replicate 16 class5)).wf = true ∧ shop.chg.current = 0 ∧ shop.chg.bound.get 1 = 0 ∧
    0 < (shop.setBankBound 1 1).chg.bound.get 1 ∧ (shop.setCurrentBank 1).chg.current = 1 := by decide +kernel

/-- For HoldAndRelease: a job of every phase with a tag of its own; on a printer, with and without entries. -/
theorem witness_HoldAndRelease (x : Job) (h : x.tag = 880#16) :
    (∀ k y, shop.job k = some y → y.tag ≠ 880#16) ∧
    ((oneJob x).job 0 = some x ∧ ∀ k y, (oneJob x).job k = some y → y.tag = 880#16 → k = 0) ∧
    ((onPrinter x []).job 0 = some (printing x) ∧ (printing x).printer = some 13 ∧ (printing x).drain = x.drain ∧
      ((onPrinter x []).disp 13).window = [] ∧ ((onPrinter x [entryOf 9#8 1 0]).disp 13).window ≠ [] ∧
      ∀ k, (0 : Fin 128) ∉ ((onPrinter x []).pool k).queue) := by
  have tagged := h
  refine ⟨fun k y hy => ?_, ⟨oneJob_job x 0, fun k y hy _ => (only_job x k y hy).1⟩, oneJob_job (printing x) 0, rfl, rfl, ?_,
    ?_, ?_⟩
  · rw [shop_job] at hy
    cases hy
  · rw [onPrinter, State.disp_setDisp]
    rfl
  · rw [onPrinter, State.disp_setDisp, if_pos rfl]
    exact List.cons_ne_nil _ _
  · have e : ∀ k, (shop.pool k).queue = [] := by decide +kernel
    intro k hk
    have : ((onPrinter x []).pool k).queue = (shop.pool k).queue := rfl
    rw [this, e] at hk
    cases hk

theorem witness_PrinterAndAccountRequests_accounts :
    (∀ a : Fin 512, a.val = (512#16).toNat → (shop.account a).valid = false) ∧
    (∀ a : Fin 512, a.val = (511#16).toNat → (shop.account a).valid = false) ∧ (shop.account 230).valid = true := by
  refine ⟨fun a h => ?_, by decide +kernel, by decide +kernel⟩
  have h2 : (512#16).toNat = 512 := rfl
  omega

/-- For AccountChangeReachesItsJobs. -/
theorem witness_AccountChangeReachesItsJobs :
    (∀ x : Job, (oneJob x).job 0 = some x) ∧ (∀ k, (0 : Fin 128) ∉ (shop.pool k).queue) ∧ job880.account = 230 ∧
    AlertsOk (oneJob job880).arl ∧ ∀ j x, (oneJob job880).job j = some x → x.account = 230 →
      ¬(x.phase = .held ∧ x.holds.budget = true) ∧ ¬(x.phase = .printing ∧ x.drain = some .budget) := by
  refine ⟨fun x => oneJob_job x 0, by decide +kernel, by decide +kernel, alertsOk_empty _ rfl rfl, fun j x h _ => ?_⟩
  rw [(only_job _ j x h).2]
  decide +kernel

/-- For AccountChangeReachesItsJobs: a job that holds BUDGET alone, and one that drains for it on its printer with its gate
passing, failing, or without a next position; each is the only live job. -/
theorem witness_AccountChangeReachesItsJobs_only :
    (∀ x k y, k ≠ 0 → (oneJob x).job k ≠ some y) ∧ (∀ x w k y, k ≠ 0 → (onPrinter x w).job k ≠ some y) ∧
    (let x : Job := { job880 with sheets := 1, sheetList := [0], drain := some .budget }
     let s := (onPrinter x []).setDescs [(0, { sheetA with complete := true })]
     (s.disp 13).assigned = some 0 ∧ (printing x).printer = some 13 ∧
       s.nextEstimate (printing x) = some ((1, 1), 2100) ∧ gatePasses (s.account 230) 2100 = true ∧
       gatePasses { payer with balance := 99, reserved := 0 } 2100 = false ∧
       s.nextEstimate (printing { x with releasePos := 1 }) = none) := by
  have h : ∀ x k y, k ≠ 0 → (oneJob x).job k ≠ some y := fun x k y hk h => hk (only_job x k y h).1
  exact ⟨h, fun x _ => h (printing x), by decide +kernel⟩

/-- A queue of one acked entry, as an acknowledgment of an active one leaves it, or of one not acked. -/
def oneAlert (active acked : Bool) : State :=
  shop.setAlerts [{ newAlert (printerKey 13 .jam) active 0#32 with acked := acked }]

theorem witness_SwapAndAcknowledge :
    (1 : Fin 2) ≠ shop.chg.current ∧ sourceOfCode 5 = none ∧ classOfCode 0 = none ∧ classOfCode 13 = none ∧
    sourceOfCode 0 = some .printer ∧ classOfCode 1 = some .jam ∧ (∀ e ∈ shop.arl.queue, e.key ≠ printerKey 13 .jam) ∧
    AlertsOk (oneAlert true false).arl ∧ AlertsOk (oneAlert false false).arl ∧ AlertsOk (oneAlert true true).arl :=
  ⟨by decide +kernel, rfl, rfl, rfl, rfl, rfl, fun e h => (by cases h),
    alertsOk_one _ _ rfl rfl (fun h => (by cases h)) (by decide), alertsOk_one _ _ rfl rfl (fun h => (by cases h)) (by decide),
    alertsOk_one _ _ rfl rfl (fun _ => rfl) (by decide)⟩

/-- The printer of the job is leaving service. -/
def leavingWith (x : Job) : State := (onPrinter x []).setDisp 13 { Dispatch.initial with assigned := some 0, leaving := true }

/-- For PrinterAndAccountRequests: no printer; no job, IN and OUT; a PRINTING job on an empty window and on another, and a
CANCELLING one; a job whose printer is leaving, draining for SERVICE with OPERATOR and without, or not at all. -/
theorem witness_PrinterAndAccountRequests_service :
    32 ≤ (32#8).toNat ∧ ((31 : Fin 32).val = (31#8).toNat ∧ (shop.disp 31).assigned = none ∧ (shop.printer 31).inService = true) ∧
    (((shop.setPrinter 13 { printer13 with inService := false }).printer 13).inService = false ∧
      (shop.disp 13).leaving = false) ∧
    (((onPrinter job880 []).disp 13).assigned = some 0 ∧ ((onPrinter job880 []).disp 13).leaving = false ∧
      (onPrinter job880 []).job 0 = some (printing job880) ∧ (printing job880).phase = .printing ∧
      ((onPrinter job880 []).disp 13).window = [] ∧ ((onPrinter job880 [entryOf 9#8 1 0]).disp 13).window ≠ []) ∧
    (((onPrinter job880 [entryOf 9#8 1 0]).setJob 0 (some { printing job880 with phase := .cancelling })).job 0 =
        some { printing job880 with phase := .cancelling } ∧
      (((onPrinter job880 [entryOf 9#8 1 0]).setJob 0 (some { printing job880 with phase := .cancelling })).disp 13).leaving =
        false) ∧
    (((leavingWith job880).disp 13).leaving = true ∧ ((leavingWith job880).disp 13).assigned = some 0 ∧
      (leavingWith job880).job 0 = some (printing job880) ∧ (printing job880).drain = none ∧
      (leavingWith { job880 with drain := some .service }).job 0 = some (printing { job880 with drain := some .service }) ∧
      job880.holds.operator = false ∧ (holdOperator job880).holds.operator = true) := by decide +kernel

theorem witness_PortRestartByLineState :
    8 ≤ (8#8).toNat ∧ (7 : Fin 8).val = (7#8).toNat ∧ (shop.port 7).config.enabled = false ∧ (shop.port 3).config.enabled = true ∧
    (shop.port 3).line = .idle ∧ (shop.port 3).rx.idleFlag = true ∧ (shop.port 3).exchange = none ∧
    lineResetExchange.kind = .lineReset := by decide +kernel

theorem witness_BeaconsAndOverrides :
    8 ≤ (8#8).toNat ∧ (7#8).toNat < 8 ∧ 4 ≤ (4#8).toNat ∧ (7 : Fin 8).val = (7#8).toNat ∧
    [Pattern.off, .steady, .slow, .fast][(3#8).toNat]? = some .fast ∧
    ((shop.setOverride 7 (some { pattern := .slow, expiry := 0#32 })).arl.overrides.get 7 =
      some { pattern := .slow, expiry := 0#32 } ∧ reached shop.now 0#32 = true ∧ reached shop.now 1#32 = false) ∧
    shop.arl.overrides.get 7 = none ∧
    (((shop.setOfficeBeacon (some 7)).setAlerts [newAlert (deviceKey .unattended) true 0#32]).arl.beaconOf
      (deviceKey .unattended) = some 7 ∧ severity .unattended = 2 ∧ severity .portFault = 3) := by decide +kernel

/-! #### Alerts, lines and printers -/

theorem fullQueue_ok : AlertsOk (shop.setAlerts fullQueue).arl :=
  ⟨by decide +kernel, by decide +kernel, by decide +kernel, by decide +kernel, by decide +kernel⟩

theorem witness_AlertsAreRaisedAndCleared :
    (AlertsOk shop.arl ∧ (∀ e ∈ shop.arl.queue, e.key ≠ portFaultKey 6) ∧ shop.arl.queue.length < 64) ∧
    ((shop.setAlerts fullQueue).arl.queue.length = 64 ∧ (∀ e ∈ fullQueue, e.key ≠ portFaultKey 6) ∧
      (∀ y ∈ fullQueue, severity .budgetHold ≤ severity y.key.cls) ∧ fullQueue[0]?.map (fun x => x.key.cls) =
        some .budgetHold) ∧
    (AlertsOk (oneAlert true false).arl ∧ AlertsOk (oneAlert true true).arl ∧ AlertsOk (oneAlert false false).arl) :=
  ⟨⟨alertsOk_empty _ rfl rfl, fun e h => (by cases h), by decide +kernel⟩, by decide +kernel,
    alertsOk_one _ _ rfl rfl (fun h => (by cases h)) (by decide), alertsOk_one _ _ rfl rfl (fun _ => rfl) (by decide),
    alertsOk_one _ _ rfl rfl (fun h => (by cases h)) (by decide)⟩

theorem witness_ReceiverReports :
    (port3.line ≠ .disabled ∧ port3.rx.mode = .searching ∧ 3 ≤ 3) ∧
    ({ port3 with rx := { port3.rx with mode := .inCharacter } } : Port).rx.mode = .inCharacter ∧
    ((majorityBits (clean 5#8 false true)).getLsbD 9 = true ∧ (majorityBits (clean 5#8 false false)).getLsbD 9 = false ∧
      majorityBits (clean 5#8 false false) ≠ 0#10 ∧ majorityBits (clean 0#8 false false) = 0#10) ∧
    port3.rx.idleFlag = true ∧ ({ port3 with rx := { port3.rx with idleFlag := false } } : Port).rx.idleFlag = false ∧
    (shop.port 0).line = .disabled := by decide +kernel

/-- An exchange of a POLL of drop 1 all of whose characters but the last have been echoed. -/
def pollExchange (kind : BlockKind) (contentions : Nat) : Exchange where
  kind := kind
  drop := 1
  chars := blockCharacters 1#8 0x01#8 []
  echoed := 3
  contentions := contentions

/-- Port 3 in a state of the line, in an exchange, the receiver in a character. -/
def busy (state : LineState) (e : Exchange) (reply : List Byte) : Port :=
  { port3 with
    line := state
    exchange := some e
    reply := reply
    rx := { mode := .inCharacter, idleFlag := false, ones := 0, startNoisy := false }
    windowExpiry := some 0#32
    recoverExpiry := some 0#32
    restExpiry := some 0#32 }

theorem witness_ExchangesEnd :
    ((pollExchange .poll 0).chars[3]? = some { data := crc8 [0x01#8, 0#8], mark := false } ∧
      charReport (clean (crc8 [0x01#8, 0#8]) false true) = .character (crc8 [0x01#8, 0#8]) false ∧
      (pollExchange .poll 0).echoed + 1 = (pollExchange .poll 0).chars.length) ∧
    ((busy .awaiting (pollExchange .poll 0) []).windowExpiry = some 0#32 ∧ reached shop.now 0#32 = true ∧
      (shop.printer (printerAt 3 1)).config.configured = true ∧ (shop.printer (printerAt 3 1)).missed + 1 < 3) ∧
    (({ busy .awaiting (pollExchange .poll 0) [] with restartPending := true } : Port).restartPending = true) ∧
    ((busy .receiving (pollExchange .poll 0) [0x81#8, 5#8, 0#8, 20#8, 0#8, 0#8, 0#8]).reply ++
        [crc8 [0x81#8, 5#8, 0#8, 20#8, 0#8, 0#8, 0#8]]).length = 5 + 3 ∧
    (readStatus [0#8, 20#8, 0#8, 0#8, 0#8]).isSome = true ∧ charReport (clean 5#8 false false) = .framing ∧
    charReport (clean 0#8 false false) = .brk ∧
    (charReport (clean 5#8 true true) = .character 5#8 true ∧
      ((busy .receiving (pollExchange .poll 0) [0x81#8]).reply ++ [251#8])[1]? = some 251#8 ∧ 250 < (251#8).toNat) ∧
    ({ busy .receiving (pollExchange .poll 0) [] with rx := Receiver.initial } : Port).rx.mode ≠ .inCharacter ∧
    Receiver.initial.idleFlag = false ∧
    (3 ≤ ((shop.setPrinter 13 { printer13 with missed := 2 }).printer 13).missed + 1 ∧ printerAt 3 1 = 13 ∧
      ((shop.setPrinter 13 { printer13 with missed := 2 }).printer 13).link ≠ .lost ∧
      (busy .awaiting (pollExchange .poll 0) []).restartPending = false) := by decide +kernel

theorem witness_ContentionsAndFaults :
    ((pollExchange .poll 1).contentions + 1 < 3 ∧ 3 ≤ (pollExchange .poll 2).contentions + 1) ∧
    charReport (clean 0#8 true true) ≠ .character (crc8 [0x01#8, 0#8]) false ∧
    (busy .transmitting (pollExchange .poll 2) []).config.enabled = true ∧
    ((busy .recovering (pollExchange .poll 2) []).recoverExpiry = some 0#32 ∧
      (busy .faulted (pollExchange .poll 2) []).restExpiry = some 0#32 ∧ reached shop.now 0#32 = true) := by decide +kernel

/-- A sheet of job 880 in the window, its START still to be sent. -/
def sending : State :=
  ((onPrinter { job880 with sheetList := [0] } [{ entryOf 9#8 1 0 with sent := false }]).setDescs [(0, sheetA)]).setPrinter 13
    { printer13 with stage := some .start }

/-- For LineArbiterClasses: an attention request, a control block that may go and one that must wait, a poll that is due, a
data exchange that is offered, and none of these. -/
theorem witness_LineArbiterClasses :
    ((busy .awaiting (pollExchange .poll 0) []).line ≠ .idle ∧ port3.line = .idle) ∧
    (({ port3 with attention := 2#4 } : Port).attention.getLsbD 1 = true ∧
      ({ port3 with attention := 2#4 } : Port).controlWaits 1 = false) ∧
    ({ port3 with control := [{ drop := 1, waitDue := false }] } : Port).controlWaits 1 = true ∧
    (reached shop.now (shop.printer (printerAt 3 1)).pollDue = false ∧ shop.pollOffered 13 = false ∧
      (shop.setNow 100#32).pollOffered 13 = true ∧ portOf 13 = 3) ∧
    (sending.dataOffered (printerAt 3 1) = true ∧ (sending.dataBlock (printerAt 3 1)).isSome = true ∧
      (1 : Fin 4).val = (port3.lastDrop.val + 1 + 1) % 4) ∧
    (∀ d : Fin 4, shop.dataOffered (printerAt 3 d) = false) := by decide +kernel

/-- For LineArbiterClasses: two polls equally overdue, of drops 1 and 2, and a block that waits for its poll due time. -/
theorem witness_LineArbiterClasses_ties :
    (let s := (shop.setPrinter 14 printer13).setNow 100#32
     s.pollOffered (printerAt 3 1) = true ∧ s.pollOffered (printerAt 3 2) = true ∧ s.overdue 3 1 = s.overdue 3 2) ∧
    (let s := shop.setPort 3 { port3 with control := [{ drop := 1, waitDue := true }] }
     (s.port 3).control[0]? = some { drop := 1, waitDue := true } ∧ reached s.now (s.printer (printerAt 3 1)).pollDue = false ∧
       (s.port 3).controlWaits 1 = true) := by decide +kernel

/-- For LineArbiterClasses: the offers at the ends of their ranges, and the block of a START, a DATA and a last DATA. -/
theorem witness_LineArbiterClasses_blocks :
    ((shop.setNow 99#32).pollOffered 13 = false ∧ (shop.setNow 2147483747#32).pollOffered 13 = true ∧
      (shop.setNow 2147483748#32).pollOffered 13 = false) ∧
    ((sending.setPrinter 13 { printer13 with stage := some (.data 0), room := 1 }).dataOffered 13 = true ∧
      (sending.setPrinter 13 { printer13 with stage := some (.data 0), room := 0 }).dataOffered 13 = false) ∧
    ((sending.disp 13).window = [] ++ { entryOf 9#8 1 0 with sent := false } :: [] ∧
      (sending.job 0).isSome = true ∧
      sending.sheetDesc { printing job880 with sheetList := [0] } 1 = some sheetA ∧
      (sending.printer 13).stage = some .start) ∧
    (481 ≤ 240 * (2 + 1) ∧ ¬481 ≤ 240 * (1 + 1) ∧ min 240 (481 - 240 * 2) = 1 ∧ min 240 (481 - 240 * 1) = 240) := by
  decide +kernel

/-- At timestamp 1 no filter of the shop has sampled; each kind of sample, and the two changes. -/
theorem witness_AlertSetupAndSenseInputs_sense :
    ((shop.sense 0).sampled = shop.now ∧ ((shop.setNow 1#32).sense 0).sampled ≠ (shop.setNow 1#32).now) ∧
    (({ Sense.initial .level with run := 2 } : Sense).high = true ∧ ({ Sense.initial .level with run := 2 } : Sense).run = 2 ∧
      ({ Sense.initial .level with run := 2 } : Sense).sampled ≠ 1#32) ∧
    (({ Sense.initial .edge with run := 2, high := false } : Sense).high = false ∧
      ({ Sense.initial .edge with run := 2, high := false } : Sense).run = 2) ∧ (shop.sense 0).run ≠ 2 ∧
    (0xFFFFFFFE#32).getLsbD 0 ≠ (shop.sense 0).high ∧ (0xFFFFFFFF#32).getLsbD 31 = (shop.sense 31).high := by decide +kernel

theorem witness_StallTimerExpiry :
    ((shop.setDisp 13 { Dispatch.initial with stall := some 0#32 }).disp 13 = { Dispatch.initial with stall := some 0#32 } ∧
      reached shop.now 0#32 = true) ∧
    (((onPrinter job880 [entryOf 9#8 1 0]).disp 13).assigned = some 0 ∧
      (onPrinter job880 [entryOf 9#8 1 0]).job 0 = some (printing job880) ∧ (printing job880).drain = none ∧
      ((onPrinter job880 [entryOf 9#8 1 0]).disp 13).window = entryOf 9#8 1 0 :: [] ∧ (entryOf 9#8 1 0).job = 0 ∧
      ((onPrinter job880 [entryOf 9#8 1 0]).printer 13).link ≠ .lost) ∧
    ({ job880 with phase := .cancelling, ending := some (.cancelled, .operator) } : Job).ending =
      some (.cancelled, .operator) ∧
    (((onPrinter job880 []).disp 13).assigned = some 0 ∧ ((onPrinter job880 []).disp 13).window = []) ∧
    reached shop.now 1#32 = false := by decide +kernel

/-- Job 880, of two complete sheets in the window of a printer that is jammed or LOST, its stall timer expired: it drains or
not, and of its account so much is reserved. -/
def stalledJob (drain : Option DrainReason) (holds : Holds) (w : List WindowEntry) (link : LinkState) (reserved : Nat) : State :=
  let x : Job := { printing job880 with
    sheetList := [0, 1], sheets := 2, releasePos := 2, isOpen := false, stalled := true, drain := drain, holds := holds }
  ((((onPrinter x w).setDisp 13 { Dispatch.initial with assigned := some 0, window := w, stall := some 0#32 }).setDescs
    [(0, { sheetA with complete := true }), (1, { sheetA with complete := true })]).setPrinter 13
    { printer13 with link := link, condition := some .jam }).setAccount 230 { payer with reserved := reserved }

/-- What the expiry leaves of the job and of the printer. -/
def stalledAfter (s : State) : Option (Phase × Holds × Nat) × Bool × Option Byte :=
  let t := s.stallExpired 13
  ((t.job 0).map fun x => (x.phase, x.holds, x.sheetsLost), (t.printer 13).needsDrop, (t.printer 13).dropFrom)

/-- Two sheets of job 880, sent. -/
def bothSheets : List WindowEntry := [entryOf 9#8 1 2100, entryOf 10#8 2 2100]

/-- For StallTimerExpiry: the stalled job, and a gate that passes or fails once the estimates are released. -/
theorem witness_StallTimerExpiry_stalled (drain : Option DrainReason) :
    ((stalledJob drain emptyHolds bothSheets .lost 9200).disp 13).assigned = some 0 ∧
    ((stalledJob drain emptyHolds bothSheets .lost 9200).disp 13).window = bothSheets ∧
    ((stalledJob drain emptyHolds bothSheets .lost 9200).disp 13).stall = some 0#32 ∧
    ((stalledJob drain emptyHolds bothSheets .lost 9200).job 0).map Job.drain = some drain ∧
    gatePasses { payer with reserved := 4200 - (bothSheets.map WindowEntry.estimate).sum } 2100 = true ∧
    gatePasses { payer with reserved := 9200 - (bothSheets.map WindowEntry.estimate).sum } 2100 = false :=
  ⟨rfl, rfl, rfl, rfl, by decide, by decide⟩

/-- For StallTimerExpiry: no drain, on a LOST printer, and an empty window. -/
theorem witness_StallTimerExpiry_noDrain :
    stalledAfter (stalledJob none emptyHolds bothSheets .lost 4200) = (some (.queued, emptyHolds, 2), false, none) ∧
    stalledAfter (stalledJob none emptyHolds [] .answering 0) = (some (.queued, emptyHolds, 0), false, none) := by
  decide +kernel

/-- For StallTimerExpiry: a BUDGET drain whose gate passes on the loss and one whose gate fails. -/
theorem witness_StallTimerExpiry_budget :
    stalledAfter (stalledJob (some .budget) emptyHolds bothSheets .answering 4200) =
      (some (.queued, emptyHolds, 2), true, some 9#8) ∧
    stalledAfter (stalledJob (some .budget) emptyHolds bothSheets .lost 9200) =
      (some (.held, { operator := false, arrival := false, budget := true }, 2), false, none) := by decide +kernel

def operatorHold : Holds where
  operator := true
  arrival := false
  budget := false

/-- For StallTimerExpiry: a SERVICE drain without and with a hold, and a HOLD drain. -/
theorem witness_StallTimerExpiry_drains :
    stalledAfter (stalledJob (some .service) emptyHolds bothSheets .answering 4200) =
      (some (.queued, emptyHolds, 2), true, some 9#8) ∧
    stalledAfter (stalledJob (some .service) operatorHold bothSheets .lost 4200) =
      (some (.held, operatorHold, 2), false, none) ∧
    stalledAfter (stalledJob (some .hold) operatorHold bothSheets .answering 4200) =
      (some (.held, operatorHold, 2), true, some 9#8) := by decide +kernel

/-- One sheet of job 880 in the window of printer 13. -/
def delivering : State :=
  (oneSheet { printing job880 with sheets := 1 } { sheetA with complete := true }).setDisp 13
    { Dispatch.initial with assigned := some 0, window := [entryOf 9#8 1 2100], feeds := true }

/-- For DeliveryRecordsAreTaken: a = 0 with and without a window, a = 1 and 128, and a = 129. -/
theorem witness_DeliveryRecordsAreTaken :
    ([Ink.mono, .mono].length ≤ 2) ∧ (9#8 - 9#8).toNat = 0 ∧ (9#8 - 8#8).toNat = 1 ∧ (9#8 - 137#8).toNat = 128 ∧
    128 < (9#8 - 136#8).toNat ∧ (shop.disp 13).window = [] ∧
    (delivering.disp 13).window = entryOf 9#8 1 2100 :: [] ∧
    delivering.job 0 = some { printing job880 with sheets := 1, sheetList := [0] } ∧
    delivering.sheetDesc { printing job880 with sheets := 1, sheetList := [0] } 1 = some { sheetA with complete := true } := by
  decide +kernel

theorem witness_charging :
    dearerRate class5 0 = max 350 1200 ∧ class5.rebate.toNat ≤ 100 ∧ class5.tier.toNat ≤ 100 ∧
    ({ class5 with rebate := 100#8, tier := 100#8 } : TariffClass).tier.toNat ≤ 100 ∧ 1 * 50 % 100 = 50 ∧
    ({ class5 with rebate := 0#8 } : TariffClass).rebate = 0#8 := by decide +kernel

theorem witness_GateTierAndMeterRules : MeterOk { value := 999999999, rolls := 255 } ∧ 999999999 + 1 ≥ 1000000000 ∧
    MeterOk { value := 0, rolls := 0 } := by unfold MeterOk; decide

theorem witness_EventsChangeOnlyTheirOwn : isEvent (.pollDue 31) = true ∧ isEvent (.senseSample 0#32) = true := by decide

/-- The small shop, with a job, meets the invariants of the headline statements. -/
theorem witness_invariants :
    (AlertsOk (oneJob job880).arl ∧ LinkOk (oneJob job880).jli ∧ Memory.wf (oneJob job880).spm.dram = true) ∧
    RoutesOk shop ∧ MembersOk shop ∧ SpoolOk (oneJob job880) := by
  refine ⟨⟨alertsOk_empty _ rfl rfl, ⟨by decide +kernel, by decide +kernel, by decide +kernel⟩, rfl⟩, shop_routes, ?_,
    oneJob_spoolOk _ rfl⟩
  unfold MembersOk
  decide +kernel

theorem initial_ok : AccountOk Account.initial :=
  ⟨by decide, by decide, by decide, (by intro t h; cases h), by decide, by decide, by decide, by decide⟩

theorem payer_ok : AccountOk payer :=
  ⟨by decide, by decide, by decide, (by intro t h; cases h; decide), by decide, by decide, by decide, by decide⟩

theorem shop_account (a : Fin 512) : shop.account a = if a = 230 then payer else Account.initial := by
  have h : State.reset.account a = Account.initial := get_replicate _ a
  simp [shop, h]

theorem witness_ranges : RangesOk shop where
  accounts a := by
    rw [shop_account]
    split
    · exact payer_ok
    · exact initial_ok
  meters := by
    intro p
    have e : shop.acm.meters.get p = Meters.initial := get_replicate _ p
    rw [e]
    unfold MetersOk MeterOk
    decide
  routes := by decide +kernel
  timeout := by decide +kernel
  pools := by decide +kernel
  portConfigs := by unfold PortConfigOk; decide +kernel
  ports q := ⟨by revert q; decide +kernel, by revert q; decide +kernel, by revert q; decide +kernel, by revert q; decide +kernel,
    by revert q; decide +kernel⟩
  limits := by decide +kernel
  printers p := ⟨by revert p; decide +kernel, by revert p; decide +kernel, by revert p; decide +kernel,
    by revert p; decide +kernel⟩
  jobs j x h := by rw [shop_job] at h; cases h
  tariffs := by unfold TariffOk; decide +kernel
  sense := by decide +kernel

theorem witness_bound : BoundOk shop ∧ step shop = .next shop.tick := by
  have none : ∀ (f : Option Job → Bool), f none = false → shop.spm.jobs.toList.countP f = 0 := by
    intro f h
    have e : shop.spm.jobs.toList = List.replicate 128 none := rfl
    rw [e, List.countP_replicate, h]
    rfl
  refine ⟨⟨fun a => ?_, fun b => ?_, fun j x h => ?_, fun j x h => ?_⟩, rfl⟩
  · have e : (shop.account a).bound = 0 := by
      rw [shop_account]
      split <;> rfl
    rw [e]
    exact (none _ rfl).symm
  · have e : shop.chg.bound.get b = 0 := by revert b; decide +kernel
    rw [e]
    exact (none _ rfl).symm
  · rw [shop_job] at h
    cases h
  · rw [shop_job] at h
    cases h

/-! #### The arbiter, outcomes and the dispatch invariant -/

/-- Job 880 waits in the queue of pool 3, its one sheet complete. -/
def waiting : State :=
  ((oneSheet { inPhase .queued with sheets := 1 } { sheetA with complete := true }).setQueue 3 [0])

/-- Job 880 on printer 13 with its one sheet complete, none of it released. -/
def ready (x : Job) : State :=
  (oneSheet (printing { x with sheets := 1 }) { sheetA with complete := true }).setDisp 13
    { Dispatch.initial with assigned := some 0, feeds := true }

/-- For ArbiterAssignsReleasesAndFeeds: a printer that is available and one that is not; a pick, and none, and a disabled pool;
a next position of an open job, of a closed one, and none; a release that may be made, with a gate that passes and one that
fails, and none that may. -/
theorem witness_ArbiterAssignsReleasesAndFeeds :
    (shop.available 13 = true ∧ (shop.printer 13).config.pool = some 3 ∧ shop.available 12 = false) ∧
    (waiting.pick 3 = some (13, 0) ∧ (waiting.pool 3).enabled = true ∧ (waiting.pool 3).queue = [0] ∧ shop.pick 3 = none ∧
      (shop.pool 2).enabled = false) ∧
    (waiting.job 0).isSome = true ∧
    (job880.isOpen = true ∧ (({ job880 with isOpen := false, sheets := 3, copies := 2, releasePos := 5 } : Job).releasePos < 6 ∧
      nextPosition { job880 with isOpen := false, sheets := 3, copies := 2, releasePos := 5 } = some (2, 3) ∧
      nextPosition { job880 with isOpen := false, sheets := 3, copies := 2, releasePos := 6 } = none)) ∧
    (let x : Job := { printing { job880 with sheets := 1 } with sheetList := [0] }
     (ready job880).job 0 = some x ∧ x.printer = some 13 ∧ (ready job880).mayRelease x 13 = true ∧
       (ready job880).nextEstimate x = some ((1, 1), 2100) ∧
       gatePasses ((ready job880).account x.account) 2100 = true ∧
       gatePasses { payer with blocked := true } 2100 = false ∧ ((ready job880).disp 13).window = [] ∧
       ((onPrinter job880 [entryOf 9#8 1 0]).disp 13).window ≠ [] ∧ (ready job880).mayRelease { x with stalled := true } 13 = false) ∧
    ({ job880 with phase := .printing, drain := some .budget } : Job).drain = some .budget := by decide +kernel

/-- For ArbiterAssignsReleasesAndFeeds: can feed as it was, changed to false and to true, with no job, a PRINTING one and a
CANCELLING one. -/
theorem witness_ArbiterAssignsReleasesAndFeeds_feeds :
    (shop.canFeed 13 = true ∧ (shop.disp 13).feeds = true) ∧
    (let s := shop.setSense 13 { Sense.initial .level with active := true }
     s.canFeed 13 = false ∧ (s.disp 13).feeds = true ∧ (s.disp 13).assigned = none) ∧
    (let s := (onPrinter job880 []).setSense 13 { Sense.initial .level with active := true }
     s.canFeed 13 = false ∧ (s.disp 13).feeds = true ∧ (s.disp 13).assigned = some 0 ∧ s.job 0 = some (printing job880)) ∧
    (let s := shop.setDisp 13 Dispatch.initial
     s.canFeed 13 = true ∧ (s.disp 13).feeds = false ∧ (s.disp 13).assigned = none) ∧
    (let s := (onPrinter job880 []).setDisp 13 { Dispatch.initial with assigned := some 0 }
     s.canFeed 13 = true ∧ (s.disp 13).feeds = false ∧ (s.disp 13).assigned = some 0) ∧
    ({ printing job880 with phase := .cancelling } : Job).phase = .cancelling := by decide +kernel

/-- A CANCELLING job on printer 13 with three entries in its window. -/
def cancelling : State :=
  (onPrinter job880 [entryOf 9#8 1 10, entryOf 10#8 2 20, entryOf 11#8 3 30]).setJob 0
    (some { printing job880 with phase := .cancelling, ending := some (.cancelled, .operator) })

/-- For OutcomesReachThePrinter: a reply's last character and an expired window; an entry that is still sending and one that is
not; the next segment, the last block; the second and the fourth NAK; the second and the third miss. -/
theorem witness_OutcomesReachThePrinter :
    ((busy .receiving (pollExchange (.start 9#8 false) 0) [0x82#8, 1#8, 7#8]).rx.mode = .inCharacter ∧
      ((busy .receiving (pollExchange (.start 9#8 false) 0) [0x82#8, 1#8, 7#8]).reply ++
        [crc8 [0x82#8, 1#8, 7#8]]).length = (1#8).toNat + 3 ∧
      (busy .awaiting (pollExchange .poll 0) []).windowExpiry = some 0#32 ∧ reached shop.now 0#32 = true ∧
      (busy .awaiting (pollExchange .poll 0) []).config.enabled = true) ∧
    ((oldestSending (sending.disp 13).window).map WindowEntry.feed = some 9#8 ∧
      (oldestSending (sending.disp 13).window).map WindowEntry.feed ≠ some 10#8 ∧
      (oldestSending [entryOf 9#8 1 0]).map WindowEntry.feed ≠ some 9#8 ∧ (sending.printer 13).config.configured = true) ∧
    (({ printer13 with naks := 1 } : Printer).naks + 1 < 4 ∧ 4 ≤ ({ printer13 with naks := 3 } : Printer).naks + 1) ∧
    (({ printer13 with missed := 1 } : Printer).missed + 1 < 3 ∧ 3 ≤ ({ printer13 with missed := 2 } : Printer).missed + 1 ∧
      printer13.link ≠ .lost ∧ ({ printer13 with link := .lost } : Printer).link = .lost) ∧
    ((readStatus [0#8, 20#8, 1#8, 9#8, 0#8]).isSome = true ∧ statusOf .noReply = none ∧
      ({ printer13 with needsDrop := true } : Printer).needsDrop = true ∧ (shop.port (portOf 13)).line ≠ .disabled) := by
  decide +kernel

/-- For OutcomesReachThePrinter: the committed field for a job that is not CANCELLING, and for one with three entries: none,
b = 0 and 1 (entries after it), 2 (the last), 3 and 127 (a protocol error), 128; and a condition as it was, JAM and another. -/
theorem witness_OutcomesReachThePrinter_committed :
    ((cancelling.disp 13).assigned = some 0 ∧ (cancelling.job 0).map Job.phase = some .cancelling ∧
      (cancelling.job 0).map Job.ending = some (some (.cancelled, .operator)) ∧
      (cancelling.disp 13).window = [entryOf 9#8 1 10, entryOf 10#8 2 20, entryOf 11#8 3 30] ∧
      ∀ l ∈ (cancelling.disp 13).window, l.job = 0) ∧
    ((9#8 - 9#8).toNat = 0 ∧ (10#8 - 9#8).toNat = 1 ∧ (11#8 - 9#8).toNat = 2 ∧ (12#8 - 9#8).toNat = 3 ∧
      (136#8 - 9#8).toNat = 127 ∧ (137#8 - 9#8).toNat = 128 ∧
      [entryOf 10#8 2 20, entryOf 11#8 3 30][0]? = some (entryOf 10#8 2 20) ∧
      [entryOf 10#8 2 20, entryOf 11#8 3 30][1]? = some (entryOf 11#8 3 30)) ∧
    ((onPrinter job880 [entryOf 9#8 1 0]).disp 13).assigned = some 0 ∧ (printing job880).phase ≠ .cancelling ∧
    (printer13.condition = some .ready ∧ printer13.condition ≠ some .jam ∧ printer13.condition ≠ some .doorOpen ∧
      (onPrinter job880 [entryOf 9#8 1 0]).job (entryOf 9#8 1 0).job = some (printing job880)) := by decide +kernel

/-- For OutcomesReachThePrinter, ContentionsAndFaults and DeliveryRecordsAreTaken: a CANCELLING job that its printer's third
miss, a JAM, an out-of-step record and a port fault end. -/
theorem witness_cancelling_ends :
    ((cancelling.printer 13).link ≠ .lost ∧ 3 ≤ ({ printer13 with missed := 2 } : Printer).missed + 1 ∧
      (cancelling.printer 13).condition ≠ some .jam ∧ (cancelling.printer 13).config.configured = true) ∧
    (128 < (9#8 - 136#8).toNat ∧ (entryOf 9#8 1 10).job = 0 ∧ printerAt 3 1 = 13) ∧
    (∀ p, (cancelling.disp p).assigned = some 0 → p = 13) ∧
    ∀ k y, cancelling.job k = some y → y.printer = some 13 → k = 0 := by
  refine ⟨by decide +kernel, by decide +kernel, by decide +kernel, fun k y h _ => ?_⟩
  have e : cancelling.job k = (oneJob { printing job880 with phase := .cancelling, ending := some (.cancelled, .operator) }).job k := by
    rw [oneJob_job]
    simp only [cancelling, onPrinter, oneJob]
    by_cases hk : k = 0
    · subst hk; rfl
    · have : shop.job k = none := get_replicate none k
      simp [hk, this]
  rw [e] at h
  exact (only_job _ k y h).1

/-- The shop with one SPOOLING job meets what DispatchInvariant asks. -/
theorem witness_DispatchInvariant : DispatchOk (oneJob job880) ∧ step (oneJob job880) = .next (oneJob job880).tick := by
  have queue : ∀ k, ((oneJob job880).pool k).queue = [] := by decide +kernel
  have record : ∀ p, ((oneJob job880).disp p).assigned = none ∧ ((oneJob job880).disp p).window = [] ∧
      ((oneJob job880).disp p).leaving = false ∧ ((oneJob job880).disp p).stall = none := by decide +kernel
  refine ⟨⟨fun k => ⟨?_, fun j => ⟨?_, ?_⟩, ?_⟩, fun p => ⟨?_, ?_, ?_, ?_⟩, ?_, ?_, fun a => ?_, ?_⟩, rfl⟩
  · rw [queue]; exact .nil
  · rw [queue]; intro h; cases h
  · rintro ⟨x, h, hp, _⟩
    rw [(only_job _ j x h).2] at hp
    exact absurd hp (by decide +kernel)
  · rw [queue]; exact .nil
  · intro j h; rw [(record p).1] at h; cases h
  · intro _; exact (record p).2
  · rw [(record p).2.1]
    exact ⟨Nat.zero_le _, by revert p; decide +kernel⟩
  · rw [(record p).2.1]; intro e h; cases h
  · intro j x h
    obtain ⟨rfl, rfl⟩ := only_job _ j x h
    refine ⟨by decide +kernel, fun _ => by decide +kernel, ?_, by decide +kernel, by decide +kernel, ⟨by decide +kernel, ?_⟩,
      by decide +kernel⟩
    · intro p h; rw [show job880.printer = none from rfl] at h; cases h
    · intro i h
      obtain rfl : i = 0 := by
        have e : job880.stream = some 0 := by decide +kernel
        rw [e] at h; cases h; rfl
      decide +kernel
  · intro i j h
    have e : ∀ i : Fin 15, (oneJob job880).stream i = if i = 0 then .opened 0 else .idle := by decide +kernel
    rw [e] at h
    split at h
    · next hi => cases h; subst hi; exact ⟨job880, oneJob_job _ 0, by decide +kernel⟩
    · cases h
  · have e : reservedFor (oneJob job880) a = 0 := by
      unfold reservedFor
      simp only [(record _).2.1, List.map_nil, List.sum_nil]
      rfl
    rw [e]
    have h : (oneJob job880).account a = shop.account a := rfl
    rw [h, shop_account]
    split <;> rfl
  · intro n h; exact absurd h (by rw [show (oneJob job880).jli.restart = none from rfl]; exact fun h => nomatch h)

end Sys2Proof.Tests
end

/-! ## The spool's partition (R6 to R8, R22)

What the operations of the spool do to the free list, to the descriptors in use and to the sheet lists of the jobs. -/

namespace Sys2Proof.Machine

/-! ### The sheets of the jobs -/

/-- The sheets that a slot holds; a FREE slot holds none. -/
def heldSheets : Option Job → List Nat
  | some x => x.sheetList
  | none => []

@[simp] theorem heldSheets_some (x : Job) : heldSheets (some x) = x.sheetList := rfl

@[simp] theorem heldSheets_none : heldSheets none = [] := rfl

theorem sheetsOf_eq (jobs : Vector (Option Job) 128) : sheetsOf jobs = jobs.toList.flatMap heldSheets := by
  unfold sheetsOf
  congr 1

/-- What a table holds is the list of what its places hold. -/
theorem toList_eq_map_get {α : Type} {n : Nat} (v : Vector α n) : v.toList = (List.finRange n).map v.get := by
  apply List.ext_getElem
  · simp
  · intro i h1 h2
    simp [Vector.get]

theorem sheetsOf_congr {u v : Vector (Option Job) 128} (h : ∀ j, heldSheets (v.get j) = heldSheets (u.get j)) :
    sheetsOf v = sheetsOf u := by
  simp only [sheetsOf_eq, toList_eq_map_get, List.flatMap_map, h]

/-- One slot's sheets are replaced by others. -/
theorem sheetsOf_put (jobs : Vector (Option Job) 128) (j : Fin 128) (o : Option Job) :
    (sheetsOf (put jobs j o) ++ heldSheets (jobs.get j)).Perm (sheetsOf jobs ++ heldSheets o) := by
  simp only [sheetsOf_eq]
  exact flatMap_put heldSheets jobs j o

/-! ### Descriptors -/

theorem findDesc_isSome_iff {l : List (Nat × SheetDesc)} {n : Nat} : (findDesc l n).isSome = true ↔ n ∈ l.map Prod.fst := by
  refine ⟨fun h => ?_, findDesc_isSome⟩
  obtain ⟨d, hd⟩ := Option.isSome_iff_exists.1 h
  exact List.mem_map.2 ⟨_, findDesc_mem hd, rfl⟩

theorem findDesc_none_iff {l : List (Nat × SheetDesc)} {n : Nat} : findDesc l n = none ↔ n ∉ l.map Prod.fst := by
  rw [← findDesc_isSome_iff, Option.not_isSome_iff_eq_none]

/-- What a number names after a descriptor is put. -/
theorem findDesc_putDesc {l : List (Nat × SheetDesc)} (h : Sorted l) (n m : Nat) (d : SheetDesc) :
    findDesc (putDesc l n d) m = if m = n then some d else findDesc l m := by
  induction l with
  | nil => rfl
  | cons y l ih =>
    obtain ⟨k, z⟩ := y
    unfold putDesc
    split
    · rfl
    split
    · next e =>
      subst e
      simp only [findDesc]
      split <;> rfl
    · next e =>
      simp only [findDesc, ih h.tail]
      split
      · next em => subst em; rw [if_neg fun e2 => e e2.symm]
      · rfl

theorem findDesc_of_mem {l : List (Nat × SheetDesc)} (h : Sorted l) {x : Nat × SheetDesc} (hx : x ∈ l) :
    findDesc l x.1 = some x.2 := by
  induction l with
  | nil => cases hx
  | cons y l ih =>
    obtain ⟨k, z⟩ := y
    unfold findDesc
    cases List.mem_cons.1 hx with
    | inl e => rw [e, if_pos rfl]
    | inr e =>
      have := h.head x e
      rw [if_neg (by simp only at this; omega)]
      exact ih h.tail e

/-- R6: what a number names once the descriptors of a sheet list are free. -/
theorem findDesc_freeDescs (l : List (Nat × SheetDesc)) (sheets : List Nat) (m : Nat) :
    findDesc (freeDescs l sheets) m = if m ∈ sheets then none else findDesc l m := by
  unfold freeDescs
  induction l with
  | nil => simp [findDesc]
  | cons y l ih =>
    obtain ⟨k, z⟩ := y
    by_cases hk : k ∈ sheets
    · rw [List.filter_cons_of_neg (by simpa using hk), ih]
      by_cases hm : m ∈ sheets
      · simp [hm]
      · have : m ≠ k := fun e => hm (e ▸ hk)
        simp [hm, findDesc, this]
    · rw [List.filter_cons_of_pos (by simpa using hk)]
      simp only [findDesc, ih]
      by_cases hm : m = k
      · subst hm; simp [hk]
      · simp [hm]

theorem Sorted.nodup {l : List (Nat × SheetDesc)} (h : Sorted l) : (l.map Prod.fst).Nodup :=
  h.imp Nat.ne_of_lt

theorem Sorted.filter {l : List (Nat × SheetDesc)} (h : Sorted l) (f : Nat × SheetDesc → Bool) : Sorted (l.filter f) :=
  List.Pairwise.sublist (List.filter_sublist.map _) h

/-- The blocks of the descriptor of a number; a free one has none. -/
def blocksOf (l : List (Nat × SheetDesc)) (n : Nat) : List (Fin 32768) :=
  match findDesc l n with
  | some d => d.blocks
  | none => []

theorem blocksOf_some {l : List (Nat × SheetDesc)} {n : Nat} {d : SheetDesc} (h : findDesc l n = some d) :
    blocksOf l n = d.blocks := by
  simp [blocksOf, h]

theorem blocksOf_none {l : List (Nat × SheetDesc)} {n : Nat} (h : findDesc l n = none) : blocksOf l n = [] := by
  simp [blocksOf, h]

/-! ### A sheet's blocks are freed (R8) -/

/-- R8: a descriptor with its blocks freed. -/
def emptied (d : SheetDesc) : SheetDesc := { d with blocks := [] }

theorem freeSheetBlocks_some {s : State} {n : Nat} {d : SheetDesc} (h : findDesc s.spm.descs n = some d) :
    s.freeSheetBlocks n = (s.setFreeList (s.spm.freeList ++ d.blocks)).setDescs (putDesc s.spm.descs n (emptied d)) := by
  simp [State.freeSheetBlocks, h, State.freeBlockList, emptied]

theorem freeSheetBlocks_none {s : State} {n : Nat} (h : findDesc s.spm.descs n = none) : s.freeSheetBlocks n = s := by
  simp [State.freeSheetBlocks, h]

theorem freeSheetBlocks_freeList (s : State) (n : Nat) :
    (s.freeSheetBlocks n).spm.freeList = s.spm.freeList ++ blocksOf s.spm.descs n := by
  cases h : findDesc s.spm.descs n with
  | none => rw [freeSheetBlocks_none h, blocksOf_none h, List.append_nil]
  | some d => rw [freeSheetBlocks_some h, blocksOf_some h]; rfl

theorem freeSheetBlocks_findDesc {s : State} (hs : Sorted s.spm.descs) (n m : Nat) :
    findDesc (s.freeSheetBlocks n).spm.descs m =
      if m = n then (findDesc s.spm.descs m).map emptied else findDesc s.spm.descs m := by
  cases h : findDesc s.spm.descs n with
  | none =>
    rw [freeSheetBlocks_none h]
    split
    · next e => rw [e, h]; rfl
    · rfl
  | some d =>
    rw [freeSheetBlocks_some h, State.setDescs_descs, findDesc_putDesc hs]
    split
    · next e => rw [e, h]; rfl
    · rfl

theorem freeSheetBlocks_keys {s : State} (hs : Sorted s.spm.descs) (n : Nat) :
    (s.freeSheetBlocks n).spm.descs.map Prod.fst = s.spm.descs.map Prod.fst := by
  cases h : findDesc s.spm.descs n with
  | none => rw [freeSheetBlocks_none h]
  | some d => rw [freeSheetBlocks_some h, State.setDescs_descs, putDesc_keys _ hs h]

theorem freeSheetBlocks_jobs (s : State) (n : Nat) : (s.freeSheetBlocks n).spm.jobs = s.spm.jobs := by
  cases h : findDesc s.spm.descs n with
  | none => rw [freeSheetBlocks_none h]
  | some d => rw [freeSheetBlocks_some h]; rfl

/-- R7, R8: the blocks freed come from the sheet. -/
theorem freeSheetBlocks_blocks {s : State} (hs : Sorted s.spm.descs) (n : Nat) :
    ((s.freeSheetBlocks n).spm.freeList ++ blocksInUse (s.freeSheetBlocks n).spm.descs).Perm
      (s.spm.freeList ++ blocksInUse s.spm.descs) := by
  cases h : findDesc s.spm.descs n with
  | none => rw [freeSheetBlocks_none h]
  | some d =>
    rw [freeSheetBlocks_some h]
    have hb := blocks_putDesc (emptied d) hs h
    rw [show (emptied d).blocks = [] from rfl, List.append_nil] at hb
    show ((s.spm.freeList ++ d.blocks) ++ blocksInUse (putDesc s.spm.descs n (emptied d))).Perm _
    rw [List.append_assoc]
    exact List.Perm.append_left _ (List.perm_append_comm.trans hb)

theorem Sorted.freeSheetBlocks {s : State} (hs : Sorted s.spm.descs) (n : Nat) : Sorted (s.freeSheetBlocks n).spm.descs := by
  unfold Sorted
  rw [freeSheetBlocks_keys hs]
  exact hs

/-! ### The sheets of a job are freed (R22, steps 2 and 3) -/

/-- What the freeing of the blocks of each sheet of a list has made of the spool. -/
structure SheetsEmptied (s t : State) (l : List Nat) : Prop where
  keys : t.spm.descs.map Prod.fst = s.spm.descs.map Prod.fst
  found : ∀ m, findDesc t.spm.descs m = if m ∈ l then (findDesc s.spm.descs m).map emptied else findDesc s.spm.descs m
  blocks : (t.spm.freeList ++ blocksInUse t.spm.descs).Perm (s.spm.freeList ++ blocksInUse s.spm.descs)
  jobs : t.spm.jobs = s.spm.jobs

theorem SheetsEmptied.sorted {s t : State} {l : List Nat} (h : SheetsEmptied s t l) (hs : Sorted s.spm.descs) :
    Sorted t.spm.descs := by
  unfold Sorted
  rw [h.keys]
  exact hs

theorem sheetsEmptied_each (l : List Nat) : ∀ {s : State}, Sorted s.spm.descs →
    SheetsEmptied s (s.each l State.freeSheetBlocks) l := by
  induction l with
  | nil => exact fun _ => ⟨rfl, fun _ => by simp, List.Perm.refl _, rfl⟩
  | cons n l ih =>
    intro s hs
    have h := ih (Sorted.freeSheetBlocks hs n)
    rw [State.each_cons]
    refine ⟨h.keys.trans (freeSheetBlocks_keys hs n), fun m => ?_, h.blocks.trans (freeSheetBlocks_blocks hs n),
      h.jobs.trans (freeSheetBlocks_jobs s n)⟩
    rw [h.found, freeSheetBlocks_findDesc hs]
    by_cases hn : m = n
    · subst hn
      cases findDesc s.spm.descs m <;> simp [emptied]
    · simp [hn]

/-- R22, step 2: the blocks of different sheets go to the tail of the free list, sheet by sheet. -/
theorem each_freeSheetBlocks_freeList (l : List Nat) : ∀ {s : State}, Sorted s.spm.descs → l.Nodup →
    (s.each l State.freeSheetBlocks).spm.freeList = s.spm.freeList ++ l.flatMap (blocksOf s.spm.descs) := by
  induction l with
  | nil => intro s _ _; simp
  | cons n l ih =>
    intro s hs hl
    obtain ⟨hn, hl⟩ := List.nodup_cons.1 hl
    have hb : ∀ m ∈ l, blocksOf (s.freeSheetBlocks n).spm.descs m = blocksOf s.spm.descs m := by
      intro m hm
      unfold blocksOf
      rw [freeSheetBlocks_findDesc hs, if_neg (fun e : m = n => hn (e ▸ hm))]
    rw [State.each_cons, ih (Sorted.freeSheetBlocks hs n) hl, freeSheetBlocks_freeList, List.flatMap_cons,
      List.append_assoc]
    congr 2
    exact List.flatMap_congr hb

theorem freeSheets_freeList {s : State} (hs : Sorted s.spm.descs) {l : List Nat} (hl : l.Nodup) :
    (s.freeSheets l).spm.freeList = s.spm.freeList ++ l.flatMap (blocksOf s.spm.descs) :=
  each_freeSheetBlocks_freeList l hs hl

theorem freeSheets_descs (s : State) (l : List Nat) :
    (s.freeSheets l).spm.descs = freeDescs (s.each l State.freeSheetBlocks).spm.descs l := rfl

theorem freeSheets_findDesc {s : State} (hs : Sorted s.spm.descs) (l : List Nat) (m : Nat) :
    findDesc (s.freeSheets l).spm.descs m = if m ∈ l then none else findDesc s.spm.descs m := by
  rw [freeSheets_descs, findDesc_freeDescs, (sheetsEmptied_each l hs).found]
  split <;> rfl

theorem freeSheets_jobs {s : State} (hs : Sorted s.spm.descs) (l : List Nat) : (s.freeSheets l).spm.jobs = s.spm.jobs :=
  (sheetsEmptied_each l hs).jobs

/-- The numbers left in use are those not of the sheet list. -/
theorem freeDescs_keys (l : List (Nat × SheetDesc)) (sheets : List Nat) :
    (freeDescs l sheets).map Prod.fst = (l.map Prod.fst).filter fun n => !sheets.contains n := by
  unfold freeDescs
  rw [List.filter_map]
  rfl

theorem freeSheets_keys {s : State} (hs : Sorted s.spm.descs) (l : List Nat) :
    (s.freeSheets l).spm.descs.map Prod.fst = (s.spm.descs.map Prod.fst).filter fun n => !l.contains n := by
  rw [freeSheets_descs, freeDescs_keys, (sheetsEmptied_each l hs).keys]

/-- Descriptors without blocks are freed without a block. -/
theorem blocksInUse_freeDescs {l : List (Nat × SheetDesc)} {sheets : List Nat}
    (h : ∀ x ∈ l, x.1 ∈ sheets → x.2.blocks = []) : blocksInUse (freeDescs l sheets) = blocksInUse l := by
  unfold freeDescs
  induction l with
  | nil => rfl
  | cons x l ih =>
    have hl := ih fun y hy => h y (List.mem_cons_of_mem _ hy)
    by_cases hx : x.1 ∈ sheets
    · rw [List.filter_cons_of_neg (by simpa using hx), hl]
      simp [blocksInUse, h x (List.mem_cons_self ..) hx]
    · rw [List.filter_cons_of_pos (by simpa using hx)]
      simp only [blocksInUse, List.flatMap_cons] at hl ⊢
      rw [hl]

theorem freeSheets_blocks {s : State} (hs : Sorted s.spm.descs) (l : List Nat) :
    ((s.freeSheets l).spm.freeList ++ blocksInUse (s.freeSheets l).spm.descs).Perm
      (s.spm.freeList ++ blocksInUse s.spm.descs) := by
  have h := sheetsEmptied_each l hs
  rw [freeSheets_descs, blocksInUse_freeDescs]
  · exact h.blocks
  · intro x hx hm
    have hf := findDesc_of_mem (h.sorted hs) hx
    rw [h.found, if_pos hm] at hf
    obtain ⟨d, _, he⟩ := Option.map_eq_some_iff.1 hf
    rw [← he]
    rfl

/-! ### Operations that leave the spool as it is -/

/-- The free list and the descriptors are the same, and each slot holds the same sheets. -/
structure SameSpool (s t : State) : Prop where
  freeList : t.spm.freeList = s.spm.freeList
  descs : t.spm.descs = s.spm.descs
  sheets : ∀ j, heldSheets (t.job j) = heldSheets (s.job j)

theorem SameSpool.refl (s : State) : SameSpool s s := ⟨rfl, rfl, fun _ => rfl⟩

theorem SameSpool.trans {s t u : State} (h : SameSpool s t) (k : SameSpool t u) : SameSpool s u :=
  ⟨k.freeList.trans h.freeList, k.descs.trans h.descs, fun j => (k.sheets j).trans (h.sheets j)⟩

theorem SameSpool.spoolOk {s t : State} (h : SameSpool s t) (k : SpoolOk s) : SpoolOk t where
  blocks := by rw [h.freeList, h.descs]; exact k.blocks
  sorted := by rw [h.descs]; exact k.sorted
  range := by rw [h.descs]; exact k.range
  owned := by rw [h.descs, sheetsOf_congr h.sheets]; exact k.owned

theorem SpoolOk.same {s t : State} (k : SpoolOk s) (h : SameSpool s t) : SpoolOk t := h.spoolOk k

/-- Two states with the same Spool Manager. -/
theorem SameSpool.of_spm {s t : State} (h : t.spm = s.spm) : SameSpool s t :=
  ⟨by rw [h], by rw [h], fun j => by unfold State.job; rw [h]⟩

theorem SpoolOk.of_spm {s t : State} (k : SpoolOk s) (h : t.spm = s.spm) : SpoolOk t := k.same (.of_spm h)

/-- A job record changes in a slot and keeps its sheets. -/
theorem sameSpool_setJob {s : State} {j : Fin 128} {o : Option Job} (h : heldSheets o = heldSheets (s.job j)) :
    SameSpool s (s.setJob j o) := by
  refine ⟨rfl, rfl, fun i => ?_⟩
  rw [State.job_setJob]
  split
  · next e => rw [e, h]
  · rfl

theorem JobKept.sheetList {x y : Job} (h : JobKept x y) : y.sheetList = x.sheetList := by
  unfold JobKept at h; rw [h]

theorem sameSpool_job {s : State} {j : Fin 128} {x y : Job} (e : s.job j = some x) (h : JobKept x y) :
    SameSpool s (s.setJob j (some y)) :=
  sameSpool_setJob (by rw [e, heldSheets_some, heldSheets_some, h.sheetList])

theorem DispatchOnly.sameSpool {s t : State} (h : DispatchOnly s t) : SameSpool s t := by
  refine ⟨by rw [h.rest], by rw [h.rest], fun j => ?_⟩
  cases e : s.job j with
  | none => rw [h.free j e]
  | some x =>
    obtain ⟨y, hy, k⟩ := h.live j x e
    rw [hy, heldSheets_some, heldSheets_some, k.kept.sheetList]

theorem AlertOnly.sameSpool {s t : State} (h : AlertOnly s t) : SameSpool s t := h.dispatchOnly.sameSpool

theorem hand_spm (s : State) (f : OutFrame) : (s.hand f).spm = s.spm := by rw [hand_only]

theorem sameSpool_hand (s : State) (f : OutFrame) : SameSpool s (s.hand f) := .of_spm (hand_spm s f)

/-- R16: the watermarks move no block. -/
theorem sameSpool_applyWatermarks (s : State) : SameSpool s s.applyWatermarks := by
  have paused : ∀ (t : State) (b : Bool), SameSpool t (t.setPaused b) := fun _ _ => ⟨rfl, rfl, fun _ => rfl⟩
  unfold State.applyWatermarks
  dsimp only
  split
  · exact ((sameSpool_hand s _).trans (paused _ true)).trans (alertOnly_raiseAt _ _ _ _).sameSpool
  · split
    · exact ((sameSpool_hand s _).trans (paused _ false)).trans (alertOnly_clear _ _).sameSpool
    · exact .refl s

/-! ### The end of a job -/

theorem unassignEnded_only (s : State) (j : Fin 128) (x : Job) : DispatchOnly s (s.unassignEnded j x) := by
  unfold State.unassignEnded
  split
  · exact (keepsDispatch_only s).offerPrinter _ ((keepsDispatch_only s).detach j _ (.refl s))
  · exact .refl s

theorem budgetTest_only (s : State) (a : Fin 512) : DispatchOnly s (s.budgetTest a) :=
  (keepsDispatch_only s).budgetTest a (.refl s)

/-- R22, step 1 to 4: the state of a job's end once its report is handed over, its sheets are free and its bound counts
lower. -/
def State.released (s : State) (x : Job) (o : JobOutcome) (c : Cause) : State :=
  ((s.hand (.jobReport (reportOf x o c))).freeSheets x.sheetList).unbindJob x.account x.bank

/-- R22, step 5 and 6: the state of a job's end once the job is out of its pool's queue and off its printer. -/
def State.unqueued (s : State) (j : Fin 128) (x : Job) : State := (s.leaveQueue x.pool j).unassignEnded j x

theorem endJob_none {s : State} {j : Fin 128} (h : s.job j = none) (o : JobOutcome) (c : Cause) : s.endJob j o c = s := by
  simp [State.endJob, h]

/-- R22: the end of a live job, step by step. -/
theorem endJob_some {s : State} {j : Fin 128} {x : Job} (h : s.job j = some x) (o : JobOutcome) (c : Cause) :
    s.endJob j o c = ((((s.released x o c).unqueued j x).setJob j none).budgetTest x.account).applyWatermarks := by
  simp [State.endJob, h, State.released, State.unqueued]

theorem unqueued_only (s : State) (j : Fin 128) (x : Job) : DispatchOnly s (s.unqueued j x) :=
  ((keepsDispatch_only s).leaveQueue _ _ (.refl s)).trans (unassignEnded_only _ j x)

theorem SameSpool.setJob {s t : State} (h : SameSpool s t) (j : Fin 128) (o : Option Job) :
    SameSpool (s.setJob j o) (t.setJob j o) := by
  refine ⟨h.freeList, h.descs, fun i => ?_⟩
  simp only [State.job_setJob]
  split
  · rfl
  · exact h.sheets i

/-- R22: the spool as the end of a job leaves it: its sheets freed, and its slot FREE. -/
theorem sameSpool_endJob {s : State} {j : Fin 128} {x : Job} (h : s.job j = some x) (o : JobOutcome) (c : Cause) :
    SameSpool ((s.released x o c).setJob j none) (s.endJob j o c) := by
  rw [endJob_some h]
  have hu : SameSpool ((s.released x o c).setJob j none) (((s.released x o c).unqueued j x).setJob j none) :=
    (unqueued_only _ j x).sameSpool.setJob j none
  exact (hu.trans (budgetTest_only _ _).sameSpool).trans (sameSpool_applyWatermarks _)

theorem released_spm (s : State) (x : Job) (o : JobOutcome) (c : Cause) :
    (s.released x o c).spm = ((s.hand (.jobReport (reportOf x o c))).freeSheets x.sheetList).spm := rfl

theorem SpoolOk.nodup_sheets {s : State} (h : SpoolOk s) : (sheetsOf s.spm.jobs).Nodup :=
  (h.owned.nodup_iff).2 (Sorted.nodup h.sorted)

/-- The sheets of a live job and those of the other slots are those in use. -/
theorem SpoolOk.sheets_of_job {s : State} (h : SpoolOk s) {j : Fin 128} {x : Job} (e : s.job j = some x) :
    (sheetsOf (put s.spm.jobs j none) ++ x.sheetList).Perm (s.spm.descs.map Prod.fst) := by
  have hp := sheetsOf_put s.spm.jobs j none
  rw [show s.spm.jobs.get j = some x from e, heldSheets_none, List.append_nil] at hp
  exact hp.trans h.owned

/-- R6: a job lists each of its sheets once. -/
theorem SpoolOk.nodup_sheetList {s : State} (h : SpoolOk s) {j : Fin 128} {x : Job} (e : s.job j = some x) :
    x.sheetList.Nodup :=
  (List.nodup_append.1 (((h.sheets_of_job e).nodup_iff).2 (Sorted.nodup h.sorted))).2.1

/-- R22: the partition with the sheets of a job freed and its slot FREE. -/
theorem SpoolOk.released {s : State} (h : SpoolOk s) {j : Fin 128} {x : Job} (e : s.job j = some x) (o : JobOutcome)
    (c : Cause) : SpoolOk ((s.released x o c).setJob j none) := by
  have hs : Sorted (s.hand (.jobReport (reportOf x o c))).spm.descs := by rw [hand_spm]; exact h.sorted
  have keys := freeSheets_keys hs x.sheetList
  rw [hand_spm] at keys
  have hsub : (((s.hand (.jobReport (reportOf x o c))).freeSheets x.sheetList).spm.descs.map Prod.fst).Sublist
      (s.spm.descs.map Prod.fst) := by rw [keys]; exact List.filter_sublist
  have hjobs := freeSheets_jobs hs x.sheetList
  rw [hand_spm] at hjobs
  constructor
  case blocks =>
    have hb := freeSheets_blocks hs x.sheetList
    rw [hand_spm] at hb
    exact hb.trans h.blocks
  case sorted => exact h.sorted.sublist hsub
  case range =>
    intro y hy
    obtain ⟨z, hz, e⟩ := List.mem_map.1 (hsub.subset (List.mem_map_of_mem hy))
    rw [← e]
    exact h.range z hz
  case owned =>
    show (sheetsOf (put ((s.hand (.jobReport (reportOf x o c))).freeSheets x.sheetList).spm.jobs j none)).Perm
      (((s.hand (.jobReport (reportOf x o c))).freeSheets x.sheetList).spm.descs.map Prod.fst)
    rw [keys, hjobs]
    have hp := h.sheets_of_job e
    have hn : (sheetsOf (put s.spm.jobs j none) ++ x.sheetList).Nodup := (hp.nodup_iff).2 (Sorted.nodup h.sorted)
    have hd := (List.nodup_append.1 hn).2.2
    have hf := hp.filter fun n => !x.sheetList.contains n
    rw [List.filter_append, List.filter_eq_self.2 (fun n hn => by simpa using fun hx => hd n hn n hx rfl),
      List.filter_eq_nil_iff.2 (fun n hn => by simpa using hn), List.append_nil] at hf
    exact hf

/-- R22: the end of a job keeps the partition. -/
theorem spoolOk_endJob {s : State} (h : SpoolOk s) (j : Fin 128) (o : JobOutcome) (c : Cause) : SpoolOk (s.endJob j o c) := by
  cases e : s.job j with
  | none => rw [endJob_none e]; exact h
  | some x => exact (sameSpool_endJob e o c).spoolOk (h.released e o c)

/-! ### Sheets declared, completed and filled (R6, R7, R10 to R12) -/

/-- R8: the freeing of a sheet's blocks keeps the partition. -/
theorem spoolOk_freeSheetBlocks {s : State} (h : SpoolOk s) (n : Nat) : SpoolOk (s.freeSheetBlocks n) where
  blocks := (freeSheetBlocks_blocks h.sorted n).trans h.blocks
  sorted := Sorted.freeSheetBlocks h.sorted n
  range y hy := by
    have hm := List.mem_map_of_mem (f := Prod.fst) hy
    rw [freeSheetBlocks_keys h.sorted] at hm
    obtain ⟨z, hz, e⟩ := List.mem_map.1 hm
    rw [← e]
    exact h.range z hz
  owned := by rw [freeSheetBlocks_jobs, freeSheetBlocks_keys h.sorted]; exact h.owned

/-- A descriptor in use filled anew, with blocks moved between it and the free list. -/
theorem SpoolOk.refill {s : State} (h : SpoolOk s) {n : Nat} {d y : SheetDesc} {free : List (Fin 32768)}
    (e : findDesc s.spm.descs n = some d) (hb : (free ++ y.blocks).Perm (s.spm.freeList ++ d.blocks)) :
    SpoolOk ((s.setFreeList free).setDescs (putDesc s.spm.descs n y)) where
  blocks := by
    show (free ++ blocksInUse (putDesc s.spm.descs n y)).Perm _
    have hp := blocks_putDesc y h.sorted e
    refine ((List.perm_append_right_iff d.blocks).1 ?_).trans h.blocks
    calc (free ++ blocksInUse (putDesc s.spm.descs n y)) ++ d.blocks
        = free ++ (blocksInUse (putDesc s.spm.descs n y) ++ d.blocks) := List.append_assoc ..
      List.Perm _ (free ++ (blocksInUse s.spm.descs ++ y.blocks)) := hp.append_left _
      List.Perm _ (free ++ (y.blocks ++ blocksInUse s.spm.descs)) := List.perm_append_comm.append_left _
      _ = (free ++ y.blocks) ++ blocksInUse s.spm.descs := (List.append_assoc ..).symm
      List.Perm _ ((s.spm.freeList ++ d.blocks) ++ blocksInUse s.spm.descs) := hb.append_right _
      _ = s.spm.freeList ++ (d.blocks ++ blocksInUse s.spm.descs) := List.append_assoc ..
      List.Perm _ (s.spm.freeList ++ (blocksInUse s.spm.descs ++ d.blocks)) := List.perm_append_comm.append_left _
      _ = (s.spm.freeList ++ blocksInUse s.spm.descs) ++ d.blocks := (List.append_assoc ..).symm
  sorted := putDesc_sorted n y h.sorted
  range x hx := by
    cases putDesc_mem hx with
    | inl e2 => rw [e2]; exact h.range (n, d) (findDesc_mem e)
    | inr e2 => exact h.range x e2
  owned := by
    show (sheetsOf s.spm.jobs).Perm ((putDesc s.spm.descs n y).map Prod.fst)
    rw [putDesc_keys y h.sorted e]
    exact h.owned

/-- R10, R12: the completion of a sheet keeps the partition. -/
theorem spoolOk_completeLast {s : State} (h : SpoolOk s) (j : Fin 128) : SpoolOk (s.completeLast j) := by
  unfold State.completeLast
  split
  · next x e =>
    split
    · next n d hd =>
      have hf := (lastIncomplete_found hd).1
      have h1 : SpoolOk (s.setDescs (putDesc s.spm.descs n { d with complete := true })) :=
        h.refill (free := s.spm.freeList) hf (List.Perm.refl _)
      exact h1.same (sameSpool_job e (y := { x with sheets := x.sheets + 1 }) rfl)
    · exact h
  · exact h

/-- R7, R11: the filling of a sheet keeps the partition. -/
theorem spoolOk_storeData {s : State} (h : SpoolOk s) {n : Nat} {d : SheetDesc} (e : findDesc s.spm.descs n = some d)
    (l : List Byte) : SpoolOk (s.storeData n d l) := by
  let need := blocksFor (d.byteLen + l.length) - blocksFor d.byteLen
  have h1 := h.refill (y := { d with byteLen := d.byteLen + l.length, blocks := d.blocks ++ s.spm.freeList.take need })
    (free := s.spm.freeList.drop need) e (by
      show (s.spm.freeList.drop need ++ (d.blocks ++ s.spm.freeList.take need)).Perm _
      refine (List.perm_append_comm (l₁ := s.spm.freeList.drop need)).trans ?_
      rw [List.append_assoc, List.take_append_drop]
      exact List.perm_append_comm)
  exact h1.same ⟨rfl, rfl, fun _ => rfl⟩

/-- R6, R10: the descriptor taken is free and in range. -/
theorem lowestFree_lt {s : State} (hs : Sorted s.spm.descs) (hf : s.freeDescriptors ≠ 0) :
    lowestFree 0 s.spm.descs < Config.sheetDescriptors := by
  have := (lowestFree_spec hs (low := 0) fun _ _ => Nat.zero_le _).2.2.2
  unfold State.freeDescriptors at hf
  omega

theorem takeDescriptor_some {s : State} {j : Fin 128} {x : Job} (e : s.job j = some x) (d : SheetDecl) :
    s.takeDescriptor j d = (s.setDescs (putDesc s.spm.descs (lowestFree 0 s.spm.descs) (descOf d))).setJob j
      (some { x with sheetList := x.sheetList ++ [lowestFree 0 s.spm.descs] }) := by
  unfold State.takeDescriptor
  dsimp only
  have e' : (s.setDescs (putDesc s.spm.descs (lowestFree 0 s.spm.descs) (descOf d))).job j = some x := e
  exact State.modJob_some _ e' _

/-- R6, R10: a descriptor taken keeps the partition. -/
theorem spoolOk_takeDescriptor {s : State} (h : SpoolOk s) {j : Fin 128} (hj : (s.job j).isSome = true)
    (hf : s.freeDescriptors ≠ 0) (d : SheetDecl) : SpoolOk (s.takeDescriptor j d) := by
  obtain ⟨x, e⟩ := Option.isSome_iff_exists.1 hj
  have hn := (lowestFree_spec h.sorted (low := 0) fun _ _ => Nat.zero_le _).1
  rw [takeDescriptor_some e]
  constructor
  case blocks =>
    show (s.spm.freeList ++ blocksInUse (putDesc s.spm.descs _ (descOf d))).Perm _
    rw [blocks_putDesc_new rfl hn]
    exact h.blocks
  case sorted => exact putDesc_sorted _ _ h.sorted
  case range =>
    intro y hy
    cases putDesc_mem hy with
    | inl e2 => rw [e2]; exact lowestFree_lt h.sorted hf
    | inr e2 => exact h.range y e2
  case owned =>
    show (sheetsOf (put s.spm.jobs j (some _))).Perm ((putDesc s.spm.descs _ (descOf d)).map Prod.fst)
    have hp := sheetsOf_put s.spm.jobs j (some { x with sheetList := x.sheetList ++ [lowestFree 0 s.spm.descs] })
    rw [show s.spm.jobs.get j = some x from e, heldSheets_some, heldSheets_some] at hp
    refine ((List.perm_append_right_iff x.sheetList).1 ?_).trans (putDesc_keys_new (descOf d) hn).symm
    refine hp.trans ?_
    refine (List.Perm.append_left _ List.perm_append_comm).trans ?_
    rw [← List.append_assoc]
    refine List.Perm.append_right _ (List.perm_append_comm.trans ?_)
    exact h.owned.cons _

/-- R38: the slot of an admitted job was FREE. -/
theorem job_lowestFreeSlot {s : State} {j : Fin 128} (h : s.lowestFreeSlot = some j) : s.job j = none := by
  simpa [State.slotFree] using List.find?_some h

/-! ### Every command -/

theorem writePool_some {s t : State} {i : Nat} {e : PoolEntry} (h : s.writePool i e = some t) :
    ∃ k x, t = s.setPool k x := by
  unfold State.writePool at h
  split at h
  · dsimp only at h
    split at h
    · cases h
    · cases h; exact ⟨_, _, rfl⟩
  · cases h

/-- R25: the free list after a reset is the blocks by rising number. -/
theorem initial_freeList (dram : List Host.Cell) : (Spm.initial dram).freeList = List.finRange 32768 := by
  simp only [Spm.initial]
  apply List.ext_getElem
  · simp
  · intro i h1 h2
    simp only [List.length_finRange] at h2
    simp [Fin.ext_iff, Nat.mod_eq_of_lt h2]

/-- R25: every block and every descriptor is free. -/
theorem spoolOk_initial {s : State} {dram : List Host.Cell} (h : s.spm = Spm.initial dram) : SpoolOk s := by
  have hsheets : sheetsOf (Vector.replicate 128 none) = [] := by
    rw [sheetsOf_eq, toList_eq_map_get]
    simp [List.flatMap_map]
  have hlist : s.spm.freeList = List.finRange 32768 := (congrArg Spm.freeList h).trans (initial_freeList dram)
  have hdescs : s.spm.descs = [] := by rw [h]; rfl
  constructor
  case blocks =>
    have hused : s.spm.freeList ++ blocksInUse s.spm.descs = s.spm.freeList := by rw [hdescs]; exact List.append_nil _
    exact List.Perm.of_eq (hused.trans hlist)
  case sorted => rw [hdescs]; exact List.Pairwise.nil
  case range => rw [hdescs]; exact fun _ hx => nomatch hx
  case owned => rw [hdescs, show s.spm.jobs = Vector.replicate 128 none by rw [h]; rfl, hsheets]; rfl

/-- The partition survives each single change that the commands are made of. -/
theorem keepsCommands_spoolOk : KeepsCommands SpoolOk where
  raiseAt h := (alertOnly_raiseAt _ _ _ _).sameSpool.spoolOk h
  clear h := (alertOnly_clear _ _).sameSpool.spoolOk h
  job e k h := (sameSpool_job e k.1.kept).spoolOk h
  disp h := h.of_spm rfl
  pool _ _ h := h.of_spm rfl
  printer _ _ h := h.of_spm rfl
  reserved h := h.of_spm rfl
  account _ h := h.of_spm rfl
  hand h := (sameSpool_hand _ _).spoolOk h
  paused h := h.same ⟨rfl, rfl, fun _ => rfl⟩
  freeSheet h := spoolOk_freeSheetBlocks h _
  meters _ h := h.of_spm rfl
  progress e k h := (sameSpool_job e k.1).spoolOk h
  control h := h.of_spm rfl
  protocolError h := h.of_spm rfl
  endJob h := spoolOk_endJob h _ _ _
  choice h := h.of_spm rfl
  port _ _ h := h.of_spm rfl
  stream h := h.same ⟨rfl, rfl, fun _ => rfl⟩
  stray h := h.of_spm rfl
  declare hj hf h := spoolOk_takeDescriptor h hj (hf h.sorted) _
  complete h := spoolOk_completeLast h _
  store _ hd _ h := spoolOk_storeData h (lastIncomplete_found hd).1 _
  admitJob {s i r a j} _ hj h := by
    have h1 : SameSpool s (s.setJob j (some (s.admittedJob i r a))) :=
      sameSpool_setJob (by rw [job_lowestFreeSlot hj]; rfl)
    exact (h.same h1).same ⟨rfl, rfl, fun _ => rfl⟩
  sense _ _ h := h.of_spm rfl
  linkError h := h.of_spm rfl
  sent _ h := h.of_spm rfl
  mgu _ _ h := h.of_spm rfl
  restartWait h := h.of_spm rfl
  route _ _ h := h.of_spm rfl
  poolWrite e h := by
    obtain ⟨k, x, rfl⟩ := writePool_some e
    exact h.of_spm rfl
  portWrite h := h.of_spm rfl
  printerWrite _ _ _ h := h.of_spm rfl
  tariff h := h.of_spm rfl
  bank h := h.of_spm rfl
  accountWrite _ h := h.of_spm rfl
  mask {s m} h := (h.of_spm (t := s.setMask m) rfl).same (alertOnly_writeMask s m).sameSpool
  printerBeacon h := h.of_spm rfl
  portBeacon h := h.of_spm rfl
  officeBeacon h := h.of_spm rfl
  override h := h.of_spm rfl
  acknowledge _ h := (alertOnly_acknowledge _ _ _).sameSpool.spoolOk h
  mode h := h.of_spm rfl
  senseLines h := h.of_spm rfl
  reset _ := spoolOk_initial rfl

/-- Settles O59: the partition survives each single change, and so every step. -/
theorem spoolInvariant : Obligations.SpoolInvariant := fun _ _ h e =>
  step_kept keepsCommands_spoolOk (fun _ => spoolOk_initial rfl) (fun k => k.of_spm rfl)
    (fun k => k.of_spm rfl) h e

end Sys2Proof.Machine

/-! ## The ranges of the listed fields (R1, R26, R42, R70, R72, R83, R88, R90, R106, R117, R132, R161, R174) -/

namespace Sys2Proof.Machine

/-! ### Operations that leave the listed fields as they are -/

/-- The parts of the state that the ranges speak of. -/
def rangedParts (s : State) :=
  (s.rcl.routes, s.mgu.timeout, s.acm, s.dsc.pools, s.dlc, s.pra, s.spm.jobs, s.chg.banks, s.arl.sense)

theorem RangesOk.same {s t : State} (h : RangesOk s) (k : rangedParts t = rangedParts s) : RangesOk t := by
  simp only [rangedParts, Prod.mk.injEq] at k
  obtain ⟨routes, timeout, acm, pools, dlc, pra, jobs, banks, sense⟩ := k
  exact
    { routes := fun r => by unfold State.route; rw [routes]; exact h.routes r
      timeout := by rw [timeout]; exact h.timeout
      accounts := fun a => by unfold State.account; rw [acm]; exact h.accounts a
      meters := fun p => by rw [acm]; exact h.meters p
      pools := fun i => by unfold State.pool; rw [pools]; exact h.pools i
      portConfigs := fun q => by unfold State.port; rw [dlc]; exact h.portConfigs q
      ports := fun q => by unfold State.port; rw [dlc]; exact h.ports q
      limits := fun p => by unfold State.printer; rw [pra]; exact h.limits p
      printers := fun p => by unfold State.printer; rw [pra]; exact h.printers p
      jobs := fun j x e => h.jobs j x (by unfold State.job at e ⊢; rwa [jobs] at e)
      tariffs := fun b i => by rw [banks]; exact h.tariffs b i
      sense := fun p => by unfold State.sense; rw [sense]; exact h.sense p }

theorem AlertOnly.rangedParts {s t : State} (h : AlertOnly s t) : rangedParts t = rangedParts s := by
  unfold AlertOnly at h
  rw [h]
  rfl

theorem rangedParts_hand (s : State) (f : OutFrame) : rangedParts (s.hand f) = rangedParts s := by
  rw [hand_only]
  rfl

theorem rangedParts_freeSheetBlocks (s : State) (n : Nat) : rangedParts (s.freeSheetBlocks n) = rangedParts s := by
  unfold State.freeSheetBlocks
  split <;> rfl

/-! ### One entry of a table is replaced -/

theorem RangesOk.setJob {s : State} (h : RangesOk s) (j : Fin 128) {o : Option Job} (ho : ∀ x, o = some x → JobOk x) :
    RangesOk (s.setJob j o) where
  routes := h.routes
  timeout := h.timeout
  accounts := h.accounts
  meters := h.meters
  pools := h.pools
  portConfigs := h.portConfigs
  ports := h.ports
  limits := h.limits
  printers := h.printers
  jobs i x e := by
    rw [State.job_setJob] at e
    split at e
    · exact ho x e
    · exact h.jobs i x e
  tariffs := h.tariffs
  sense := h.sense

theorem RangesOk.setPool {s : State} (h : RangesOk s) (k : Fin 16) {x : Pool} (hx : x.reroute ≤ 3600) :
    RangesOk (s.setPool k x) where
  routes := h.routes
  timeout := h.timeout
  accounts := h.accounts
  meters := h.meters
  pools i := by
    rw [State.pool_setPool]
    split
    · exact hx
    · exact h.pools i
  portConfigs := h.portConfigs
  ports := h.ports
  limits := h.limits
  printers := h.printers
  jobs := h.jobs
  tariffs := h.tariffs
  sense := h.sense

theorem RangesOk.setPrinter {s : State} (h : RangesOk s) (p : Fin 32) {x : Printer}
    (hl : 1 ≤ x.config.limit ∧ x.config.limit ≤ 8) (hx : PrinterOk x) : RangesOk (s.setPrinter p x) where
  routes := h.routes
  timeout := h.timeout
  accounts := h.accounts
  meters := h.meters
  pools := h.pools
  portConfigs := h.portConfigs
  ports := h.ports
  limits i := by
    rw [State.printer_setPrinter]
    split
    · exact hl
    · exact h.limits i
  printers i := by
    rw [State.printer_setPrinter]
    split
    · exact hx
    · exact h.printers i
  jobs := h.jobs
  tariffs := h.tariffs
  sense := h.sense

theorem RangesOk.setAccount {s : State} (h : RangesOk s) (a : Fin 512) {x : Account} (hx : AccountOk x) :
    RangesOk (s.setAccount a x) where
  routes := h.routes
  timeout := h.timeout
  accounts i := by
    rw [State.account_setAccount]
    split
    · exact hx
    · exact h.accounts i
  meters := h.meters
  pools := h.pools
  portConfigs := h.portConfigs
  ports := h.ports
  limits := h.limits
  printers := h.printers
  jobs := h.jobs
  tariffs := h.tariffs
  sense := h.sense

theorem RangesOk.setMeters {s : State} (h : RangesOk s) (p : Fin 32) {x : Meters} (hx : MetersOk x) :
    RangesOk (s.setMeters p x) where
  routes := h.routes
  timeout := h.timeout
  accounts := h.accounts
  meters i := by
    rw [State.setMeters_meters, put_get]
    split
    · exact hx
    · exact h.meters i
  pools := h.pools
  portConfigs := h.portConfigs
  ports := h.ports
  limits := h.limits
  printers := h.printers
  jobs := h.jobs
  tariffs := h.tariffs
  sense := h.sense

theorem RangesOk.setPort {s : State} (h : RangesOk s) (q : Fin 8) {x : Port} (hc : PortConfigOk x.config) (hx : PortOk x) :
    RangesOk (s.setPort q x) where
  routes := h.routes
  timeout := h.timeout
  accounts := h.accounts
  meters := h.meters
  pools := h.pools
  portConfigs i := by
    rw [State.port_setPort]
    split
    · exact hc
    · exact h.portConfigs i
  ports i := by
    rw [State.port_setPort]
    split
    · exact hx
    · exact h.ports i
  limits := h.limits
  printers := h.printers
  jobs := h.jobs
  tariffs := h.tariffs
  sense := h.sense

theorem RangesOk.setSense {s : State} (h : RangesOk s) (p : Fin 32) {x : Sense} (hx : x.run ≤ 2) : RangesOk (s.setSense p x) where
  routes := h.routes
  timeout := h.timeout
  accounts := h.accounts
  meters := h.meters
  pools := h.pools
  portConfigs := h.portConfigs
  ports := h.ports
  limits := h.limits
  printers := h.printers
  jobs := h.jobs
  tariffs := h.tariffs
  sense i := by
    rw [State.sense_setSense]
    split
    · exact hx
    · exact h.sense i

theorem RangesOk.setRoute {s : State} (h : RangesOk s) (r : Fin 256) {x : Route} (hx : x.startThreshold ≤ 255) :
    RangesOk (s.setRoute r x) where
  routes i := by
    rw [State.route_setRoute]
    split
    · exact hx
    · exact h.routes i
  timeout := h.timeout
  accounts := h.accounts
  meters := h.meters
  pools := h.pools
  portConfigs := h.portConfigs
  ports := h.ports
  limits := h.limits
  printers := h.printers
  jobs := h.jobs
  tariffs := h.tariffs
  sense := h.sense

theorem RangesOk.setTariff {s : State} (h : RangesOk s) (b : Fin 2) (k : Fin 16) {c : TariffClass} (hc : TariffOk c) :
    RangesOk (s.setTariff b k c) where
  routes := h.routes
  timeout := h.timeout
  accounts := h.accounts
  meters := h.meters
  pools := h.pools
  portConfigs := h.portConfigs
  ports := h.ports
  limits := h.limits
  printers := h.printers
  jobs := h.jobs
  tariffs b' k' := by
    rw [State.setTariff_banks, put_get]
    split
    · next e =>
      rw [put_get]
      split
      · exact hc
      · exact h.tariffs b k'
    · exact h.tariffs b' k'
  sense := h.sense

theorem RangesOk.setMgu {s : State} (h : RangesOk s) {x : Mgu} (hx : x.timeout ≤ 255) : RangesOk (s.setMgu x) where
  routes := h.routes
  timeout := hx
  accounts := h.accounts
  meters := h.meters
  pools := h.pools
  portConfigs := h.portConfigs
  ports := h.ports
  limits := h.limits
  printers := h.printers
  jobs := h.jobs
  tariffs := h.tariffs
  sense := h.sense

/-! ### The values that are stored -/

/-- R132: a meter that rises by a few sides stays in its range. -/
theorem meterOk_raiseMeter {m : Meter} (h : MeterOk m) {n : Nat} (hn : n ≤ 2) : MeterOk (raiseMeter m n) := by
  obtain ⟨hv, hr⟩ := h
  unfold Config.meterModulus at hv
  unfold raiseMeter MeterOk Config.meterModulus
  split
  · refine ⟨by simp only; omega, ?_⟩
    simp only
    split <;> omega
  · exact ⟨by simp only; omega, hr⟩

theorem sidesIn_le (k : Ink) (l : List Ink) : sidesIn k l ≤ l.length := List.length_filter_le ..

theorem metersOk_raiseMeters {m : Meters} (h : MetersOk m) {l : List Ink} (hl : l.length ≤ 2) : MetersOk (raiseMeters m l) := by
  obtain ⟨hs, hm, hc⟩ := h
  exact ⟨meterOk_raiseMeter hs (by omega), meterOk_raiseMeter hm (Nat.le_trans (sidesIn_le _ l) hl),
    meterOk_raiseMeter hc (Nat.le_trans (sidesIn_le _ l) hl)⟩

theorem portConfigOk_storedPort (e : PortEntry) : PortConfigOk (storedPort e) := by
  unfold PortConfigOk storedPort
  simp only
  omega

theorem limit_storedPrinter (e : PrinterEntry) : 1 ≤ (storedPrinter e).limit ∧ (storedPrinter e).limit ≤ 8 := by
  unfold storedPrinter
  simp only
  omega

theorem tariffOk_clampClass (c : TariffClass) : TariffOk (clampClass c) := by
  unfold TariffOk clampClass
  constructor
  · simp only
    split
    · decide
    · omega
  · simp only
    split
    · decide
    · omega

theorem accountOk_storedAccount (old : Account) (e : AccountEntry) : AccountOk (storedAccount old e) where
  low := by
    show Config.minBalance ≤ e.balance.toInt
    have := BitVec.le_toInt e.balance
    unfold Config.minBalance
    omega
  high := by
    show e.balance.toInt ≤ Config.maxBalance
    have := BitVec.toInt_lt (x := e.balance)
    unfold Config.maxBalance
    omega
  overdraft := by
    show min e.overdraft.toNat 2147483647 ≤ _
    omega
  threshold t ht := by
    have ht : storedThreshold e.threshold = some t := ht
    unfold storedThreshold at ht
    split at ht
    · cases ht
    · cases ht
      omega
  sheets := Nat.le_of_lt_succ e.periodSheets.isLt
  mono := Nat.le_of_lt_succ e.periodMono.isLt
  colour := Nat.le_of_lt_succ e.periodColour.isLt
  charged := Nat.le_of_lt_succ e.periodCharge.isLt

theorem clampCopies_range (n : Byte) : 1 ≤ clampCopies n ∧ clampCopies n ≤ 99 := by
  unfold clampCopies
  split
  · exact ⟨Nat.le_refl 1, by omega⟩
  · omega

/-- R38 to R41: an admitted job's record. -/
theorem jobOk_admittedJob {s : State} (h : RangesOk s) (i : Fin 15) (r : OpenRequest) (a : Fin 512) :
    JobOk (s.admittedJob i r a) :=
  ⟨clampCopies_range r.copies, Nat.zero_le _, Nat.zero_le _, h.routes _⟩

/-! ### Operations of the commands -/

theorem rangesOk_account {s : State} {a : Fin 512} {x : Account} (k : SameAccount (s.account a) x) (h : RangesOk s) :
    RangesOk (s.setAccount a x) := h.setAccount a (k.2 (h.accounts a))

theorem rangesOk_job {s : State} {j : Fin 128} {old x : Job} (e : s.job j = some old) (k : SameJob old x) (h : RangesOk s) :
    RangesOk (s.setJob j (some x)) :=
  h.setJob j fun y hy => by cases hy; exact k.2 (h.jobs j old e)

theorem rangesOk_reserved {s : State} {a : Fin 512} {n : Nat} (h : RangesOk s) :
    RangesOk (s.setAccount a { s.account a with reserved := n }) :=
  rangesOk_account ⟨rfl, fun o => ⟨o.1, o.2, o.3, o.4, o.5, o.6, o.7, o.8⟩⟩ h

theorem rangesOk_unbind {s : State} {a : Fin 512} {b : Fin 2} (h : RangesOk s) : RangesOk (s.unbindJob a b) := by
  have o := h.accounts a
  have h1 : RangesOk (s.setAccount a { s.account a with bound := (s.account a).bound - 1 }) :=
    h.setAccount a ⟨o.1, o.2, o.3, o.4, o.5, o.6, o.7, o.8⟩
  exact h1.same rfl

theorem rangesOk_freeSheets {s : State} {l : List Nat} (h : RangesOk s) : RangesOk (s.freeSheets l) := by
  have h1 : RangesOk (s.each l State.freeSheetBlocks) :=
    State.each_kept (fun t n ht => ht.same (rangedParts_freeSheetBlocks t n)) l h
  exact h1.same rfl

theorem keepsDispatch_rangesOk : KeepsDispatch RangesOk where
  raiseAt h := h.same (alertOnly_raiseAt _ _ _ _).rangedParts
  clear h := h.same (alertOnly_clear _ _).rangedParts
  job e k h := rangesOk_job e k.same h
  disp h := h.same rfl
  pool {s k x} _ hr h := h.setPool k (by rw [hr]; exact h.pools k)
  printer {s p x} hc hx h := h.setPrinter p (by rw [hc]; exact h.limits p) (hx (h.printers p))
  reserved h := rangesOk_reserved h

theorem rangesOk_completeLast {s : State} (h : RangesOk s) (j : Fin 128) : RangesOk (s.completeLast j) := by
  unfold State.completeLast
  split
  · next x e =>
    split
    · next n d _ =>
      have h1 : RangesOk (s.setDescs (putDesc s.spm.descs n { d with complete := true })) :=
        h.same rfl
      exact rangesOk_job (old := x) e ⟨rfl, fun o => ⟨o.1, o.2, o.3, o.4⟩⟩ h1
    · exact h
  · exact h

theorem rangesOk_takeDescriptor {s : State} (h : RangesOk s) (j : Fin 128) (d : SheetDecl) : RangesOk (s.takeDescriptor j d) := by
  have h1 : RangesOk (s.setDescs (putDesc s.spm.descs (lowestFree 0 s.spm.descs) (descOf d))) :=
    h.same rfl
  unfold State.takeDescriptor
  dsimp only
  cases e : (s.setDescs (putDesc s.spm.descs (lowestFree 0 s.spm.descs) (descOf d))).job j with
  | none => rw [State.modJob_none _ e]; exact h1
  | some x =>
    rw [State.modJob_some _ e]
    refine h1.setJob j fun y hy => ?_
    cases hy
    have o := h1.jobs j x e
    exact ⟨o.1, o.2, o.3, o.4⟩

theorem rangesOk_admitJob {s : State} (h : RangesOk s) (i : Fin 15) (r : OpenRequest) (a : Fin 512) (j : Fin 128) :
    RangesOk (s.admitJob i r a j) := by
  have h1 : RangesOk (s.setJob j (some (s.admittedJob i r a))) :=
    h.setJob j fun y hy => by cases hy; exact jobOk_admittedJob h i r a
  have o := h1.accounts a
  have h2 : RangesOk ((s.setJob j (some (s.admittedJob i r a))).setAccount a
      { s.account a with bound := (s.account a).bound + 1 }) :=
    h1.setAccount a ⟨o.1, o.2, o.3, o.4, o.5, o.6, o.7, o.8⟩
  exact h2.same rfl

theorem rangesOk_writePool {s t : State} {i : Nat} {e : PoolEntry} (ht : s.writePool i e = some t) (h : RangesOk s) :
    RangesOk t := by
  unfold State.writePool at ht
  split at ht
  · dsimp only at ht
    split at ht
    · cases ht
    · cases ht
      exact h.setPool _ (by simp only; omega)
  · cases ht

/-- R72, R73: a port after a reset. -/
theorem portOk_keepPort (x : Port) : (keepPort x).config = x.config ∧ PortOk (keepPort x) := by
  have o : PortOk (Port.initial x.config) :=
    ⟨Nat.zero_le _, Nat.zero_le _, Nat.zero_le _, Nat.zero_le _, List.nodup_nil⟩
  unfold keepPort
  split
  · have k := samePort_startLineReset (Port.initial x.config) 0#32
    exact ⟨k.1, k.2 o⟩
  · exact ⟨rfl, o⟩

theorem printerOk_initial (c : PrinterConfig) : PrinterOk (Printer.initial c) :=
  ⟨Nat.zero_le _, Nat.zero_le _, Nat.zero_le _, Nat.zero_le _⟩

/-- The ranges hold after a reset that keeps the tables. -/
theorem rangesOk_resetKeeping {s : State} (h : RangesOk s) (c : ResetCause) : RangesOk (s.resetKeeping c) where
  routes := h.routes
  timeout := h.timeout
  accounts a := by
    show AccountOk ((s.acm.accounts.map keepAccount).get a)
    rw [get_map]
    have o := h.accounts a
    exact ⟨o.1, o.2, o.3, o.4, o.5, o.6, o.7, o.8⟩
  meters := h.meters
  pools k := by
    show ((s.dsc.pools.map keepPool).get k).reroute ≤ _
    rw [get_map]
    exact h.pools k
  portConfigs q := by
    show PortConfigOk ((s.dlc.map keepPort).get q).config
    rw [get_map, (portOk_keepPort _).1]
    exact h.portConfigs q
  ports q := by
    show PortOk ((s.dlc.map keepPort).get q)
    rw [get_map]
    exact (portOk_keepPort _).2
  limits p := by
    show 1 ≤ ((s.pra.map keepPrinter).get p).config.limit ∧ ((s.pra.map keepPrinter).get p).config.limit ≤ 8
    rw [get_map]
    exact h.limits p
  printers p := by
    show PrinterOk ((s.pra.map keepPrinter).get p)
    rw [get_map]
    exact printerOk_initial _
  jobs j x e := by
    have e : (Vector.replicate 128 none).get j = some x := e
    rw [get_replicate] at e
    cases e
  tariffs := h.tariffs
  sense p := by
    show ((s.arl.sense.map keepSense).get p).run ≤ 2
    rw [get_map]
    exact Nat.zero_le _

/-- The ranges hold at power-on. -/
theorem rangesOk_reset : RangesOk State.reset where
  routes r := by
    show ((Vector.replicate 256 Route.initial).get r).startThreshold ≤ 255
    rw [get_replicate]
    exact Nat.zero_le _
  timeout := Nat.zero_le _
  accounts a := by
    show AccountOk ((Vector.replicate 512 Account.initial).get a)
    rw [get_replicate]
    exact ⟨by decide, by decide, by decide, (fun _ h => nomatch h), by decide, by decide, by decide, by decide⟩
  meters p := by
    show MetersOk ((Vector.replicate 32 Meters.initial).get p)
    rw [get_replicate]
    have h : MeterOk Meter.initial := by unfold MeterOk; decide
    exact ⟨h, h, h⟩
  pools k := by
    show ((Vector.replicate 16 Pool.initial).get k).reroute ≤ 3600
    rw [get_replicate]
    exact Nat.zero_le _
  portConfigs q := by
    show PortConfigOk ((Vector.replicate 8 (Port.initial PortConfig.initial)).get q).config
    rw [get_replicate]
    unfold PortConfigOk
    decide
  ports q := by
    show PortOk ((Vector.replicate 8 (Port.initial PortConfig.initial)).get q)
    rw [get_replicate]
    exact ⟨Nat.zero_le _, Nat.zero_le _, Nat.zero_le _, Nat.zero_le _, List.nodup_nil⟩
  limits p := by
    show 1 ≤ ((Vector.replicate 32 (Printer.initial PrinterConfig.initial)).get p).config.limit ∧
      ((Vector.replicate 32 (Printer.initial PrinterConfig.initial)).get p).config.limit ≤ 8
    rw [get_replicate]
    decide
  printers p := by
    show PrinterOk ((Vector.replicate 32 (Printer.initial PrinterConfig.initial)).get p)
    rw [get_replicate]
    exact printerOk_initial _
  jobs j x e := by
    have e : (Vector.replicate 128 none).get j = some x := e
    rw [get_replicate] at e
    cases e
  tariffs b k := by
    show TariffOk (((Vector.replicate 2 (Vector.replicate 16 TariffClass.initial)).get b).get k)
    rw [get_replicate, get_replicate]
    exact ⟨by decide, by decide⟩
  sense p := by
    show ((Vector.replicate 32 (Sense.initial .off)).get p).run ≤ 2
    rw [get_replicate]
    exact Nat.zero_le _

/-! ### Every command -/

/-- The ranges survive each single change that the commands are made of. -/
theorem keepsCommands_rangesOk : KeepsCommands RangesOk where
  toKeepsDispatch := keepsDispatch_rangesOk
  account k h := rangesOk_account k h
  hand h := h.same (rangedParts_hand _ _)
  paused h := h.same rfl
  freeSheet h := h.same (rangedParts_freeSheetBlocks _ _)
  meters {s p l} hl h := h.setMeters p (metersOk_raiseMeters (h.meters p) hl)
  progress e k h := rangesOk_job e k h
  control {s q b} h := by
    have o := h.ports q
    exact h.setPort q (h.portConfigs q) ⟨o.1, o.2, o.3, o.4, queueControl_nodup b _ o.5⟩
  protocolError {s p} h := by
    have o := h.ports (portOf p)
    exact h.setPort (portOf p) (h.portConfigs _) ⟨o.1, o.2, o.3, satAdd_le _ _ _, o.5⟩
  endJob h := keepsDispatch_rangesOk.endJob_of (fun h => h.same (rangedParts_hand _ _))
    (fun h => h.same rfl) rangesOk_freeSheets rangesOk_unbind
    (fun h => h.setJob _ fun _ e => nomatch e) h
  choice h := h.same rfl
  port {s q x} hc hx h := h.setPort q (by rw [hc]; exact h.portConfigs q) (hx (h.ports q))
  stream h := h.same rfl
  stray h := h.same rfl
  declare _ _ h := rangesOk_takeDescriptor h _ _
  complete h := rangesOk_completeLast h _
  store _ _ _ h := h.same rfl
  admitJob _ _ h := rangesOk_admitJob h _ _ _ _
  sense {s p x} _ hx h := h.setSense p (hx (h.sense p))
  linkError h := h.same rfl
  sent _ h := h.same rfl
  mgu _ hx h := h.setMgu (hx h.timeout)
  restartWait h := h.same rfl
  route _ hx h := h.setRoute _ hx
  poolWrite e h := rangesOk_writePool e h
  portWrite {s q e} h := by
    have o := h.ports q
    exact h.setPort q (portConfigOk_storedPort e) ⟨o.1, o.2, o.3, o.4, o.5⟩
  printerWrite {s p e x} _ hc hx h := h.setPrinter p (by rw [hc]; exact limit_storedPrinter e) (hx (h.printers p))
  tariff h := h.setTariff _ _ (tariffOk_clampClass _)
  bank h := h.same rfl
  accountWrite _ h := h.setAccount _ (accountOk_storedAccount _ _)
  mask {s m} h := (h.same (t := s.setMask m) rfl).same
    (alertOnly_writeMask s m).rangedParts
  printerBeacon h := h.same rfl
  portBeacon h := h.same rfl
  officeBeacon h := h.same rfl
  override h := h.same rfl
  acknowledge _ h := h.same (alertOnly_acknowledge _ _ _).rangedParts
  mode {s p m} h := h.setSense p (h.sense p)
  senseLines h := h.same rfl
  reset h := rangesOk_resetKeeping h _

/-- Settles O58: the ranges survive each single change, and so every step. -/
theorem fieldRangesInvariant : Obligations.FieldRangesInvariant := fun _ _ h e =>
  step_kept keepsCommands_rangesOk (fun _ => rangesOk_reset.same rfl)
    (fun k => k.same rfl)
    (fun k => k.same rfl) h e

end Sys2Proof.Machine

/-! ## What a run of the arbiter changes (R48 to R59), and the end of a job (R22 to R24) -/

namespace Sys2Proof.Machine

/-! ### The single changes of an arbiter's run

`KeepsDispatch` lets a change of dispatch set any queue and raise any alert. What follows a printer's offer does less: a job
only leaves a queue, it stays in its phase or becomes PRINTING or HELD, a printer keeps all but four fields, and the one alert
is BUDGET_HOLD. -/

/-- What an arbiter's run makes of a job's phase. -/
def ArbiterPhase (old x : Job) : Prop := x.phase = old.phase ∨ x.phase = .printing ∨ x.phase = .held

/-- `P` survives each single change that an arbiter's run is made of. -/
structure KeepsArbiter (P : State → Prop) : Prop where
  raiseBudget : ∀ {s a}, P s → P (s.raise (budgetKey a))
  job : ∀ {s j old x}, s.job j = some old → StepJob old x → ArbiterPhase old x → P s → P (s.setJob j (some x))
  disp : ∀ {s p x}, P s → P (s.setDisp p x)
  leave : ∀ {s k j}, P s → P (s.leaveQueue k j)
  pointer : ∀ {s k p}, P s → P (s.setPool k { s.pool k with pointer := p })
  printer : ∀ {s p x}, x = { s.printer p with
      inService := x.inService, nextFeed := x.nextFeed, stage := x.stage, naks := x.naks } → P s → P (s.setPrinter p x)
  reserved : ∀ {s a n}, P s → P (s.setAccount a { s.account a with reserved := n })

namespace KeepsArbiter

variable {P : State → Prop} (K : KeepsArbiter P) {s : State}
include K

theorem modJob (j : Fin 128) {f : Job → Job} (hf : ∀ x, s.job j = some x → StepJob x (f x) ∧ ArbiterPhase x (f x))
    (h : P s) : P (s.modJob j f) := by
  cases e : s.job j with
  | none => rwa [State.modJob_none s e]
  | some x => rw [State.modJob_some s e]; exact K.job e (hf x e).1 (hf x e).2 h

theorem detach (j : Fin 128) (p : Fin 32) (h : P s) : P (s.detach j p) := by
  have h2 := K.modJob j (f := fun x => { x with printer := none, drain := none, stalled := false })
    (fun x _ => ⟨⟨rfl, fun o => ⟨o.1, o.2, o.3, o.4⟩⟩, .inl rfl⟩)
    (K.disp (p := p) (x := { s.disp p with assigned := none, stall := none, leaving := false }) h)
  unfold State.detach
  dsimp only
  split
  · exact K.printer rfl h2
  · exact h2

theorem holdForBudget (j : Fin 128) (p : Fin 32) (h : P s) : P (s.holdForBudget j p) :=
  K.modJob j (fun _ _ => ⟨⟨rfl, fun o => ⟨o.1, o.2, o.3, o.4⟩⟩, .inr (.inr rfl)⟩)
    (K.detach j p (K.modJob j (fun _ _ => ⟨⟨rfl, fun o => ⟨o.1, o.2, o.3, o.4⟩⟩, .inl rfl⟩) h))

theorem gateFailed (j : Fin 128) (p : Fin 32) (a : Fin 512) (h : P s) : P (s.gateFailed j p a) := by
  have h1 : P ((s.modJob j fun x => { x with drain := some .budget }).raise (budgetKey a)) :=
    K.raiseBudget (K.modJob j (fun x _ => ⟨⟨rfl, fun o => ⟨o.1, o.2, o.3, o.4⟩⟩, .inl rfl⟩) h)
  unfold State.gateFailed
  dsimp only
  split
  · exact K.holdForBudget j p h1
  · exact h1

theorem release (j : Fin 128) (p : Fin 32) (a : Fin 512) (pos : Nat × Nat) (e : Nat) (h : P s) :
    P (s.release j p a pos e) := by
  unfold State.release
  dsimp only
  exact K.modJob j (fun x _ => ⟨⟨rfl, fun o => ⟨o.1, o.2, o.3, o.4⟩⟩, .inl rfl⟩)
    (K.printer rfl (K.disp (K.reserved h)))

theorem releaseLoop (j : Fin 128) : ∀ (fuel : Nat) {s : State}, P s → P (State.releaseLoop fuel j s)
  | 0, _, h => h
  | fuel + 1, s, h => by
    unfold State.releaseLoop
    split
    · exact h
    split
    · exact h
    split
    · split
      · exact h
      split
      · exact releaseLoop j fuel (K.release _ _ _ _ _ h)
      · exact K.gateFailed _ _ _ h
    · exact h

theorem assign (k : Fin 16) (p : Fin 32) (j : Fin 128) (h : P s) : P (s.assign k p j) := by
  unfold State.assign
  exact K.releaseLoop j _ (K.disp (K.modJob j
    (fun x _ => ⟨⟨rfl, fun o => ⟨o.1, o.2, o.3, o.4⟩⟩, .inr (.inl rfl)⟩) (K.leave h)))

theorem arbiterLoop (k : Fin 16) : ∀ (fuel : Nat) {s : State}, P s → P (State.arbiterLoop fuel k s)
  | 0, _, h => h
  | fuel + 1, s, h => by
    unfold State.arbiterLoop
    split
    · exact h
    · exact arbiterLoop k fuel (K.assign _ _ _ (K.pointer h))

theorem runArbiter (k : Fin 16) (h : P s) : P (s.runArbiter k) := by
  unfold State.runArbiter
  split
  · exact K.arbiterLoop k _ h
  · exact h

theorem offerPrinter (p : Fin 32) (h : P s) : P (s.offerPrinter p) := by
  unfold State.offerPrinter
  split
  · split
    · exact K.runArbiter _ h
    · exact h
  · exact h

theorem tryReleases (j : Fin 128) (h : P s) : P (s.tryReleases j) := by
  unfold State.tryReleases
  split
  · split
    · dsimp only
      split
      · exact K.releaseLoop j _ h
      · exact K.offerPrinter _ (K.releaseLoop j _ h)
    · exact h
  · exact h

theorem unqueued (j : Fin 128) (x : Job) (h : P s) : P (s.unqueued j x) := by
  unfold State.unqueued State.unassignEnded
  split
  · exact K.offerPrinter _ (K.detach j _ (K.leave h))
  · exact K.leave h

end KeepsArbiter

/-- A job that stands in no queue of a pool joins none by an arbiter's run. -/
theorem keepsArbiter_notQueued (k : Fin 16) (j : Fin 128) : KeepsArbiter fun t => j ∉ (t.pool k).queue where
  raiseBudget {s a} h := by
    unfold State.raise
    rw [alertOnly_raiseAt]
    exact h
  job _ _ _ h := h
  disp h := h
  leave {s k' j'} h := by
    unfold State.leaveQueue
    rw [State.pool_setQueue]
    split
    · next e =>
      subst e
      exact fun hm => h (List.mem_of_mem_filter hm)
    · exact h
  pointer {s k' p} h := by
    rw [State.pool_setPool]
    split
    · next e => subst e; exact h
    · exact h
  printer _ h := h
  reserved h := h

/-! ### The first frame handed over (R167) -/

theorem announce_tx {s u : State} (h : u.jli = s.jli) (e : AlertEntry) : s.jli.tx <+: (u.announce e).jli.tx := by
  rw [← h]
  unfold State.announce State.handAlert
  split
  · split
    · exact List.prefix_append ..
    · exact List.prefix_rfl
  · exact List.prefix_rfl

/-- R153: a raise hands its frame over behind those that wait. -/
theorem raiseAt_tx (s : State) (k : AlertKey) (c : Bool) (t : Time) : s.jli.tx <+: (s.raiseAt k c t).jli.tx := by
  unfold State.raiseAt State.addAlert State.createAlert
  split
  · split
    · exact announce_tx (s := s) (by rfl) _
    split
    · exact announce_tx (s := s) (by rfl) _
    · exact List.prefix_rfl
  · split
    · exact announce_tx (s := s) (by rfl) _
    · exact List.prefix_rfl

/-- R154: a clear hands its frame over behind those that wait. -/
theorem clear_tx (s : State) (k : AlertKey) : s.jli.tx <+: (s.clear k).jli.tx := by
  have hand (e : AlertEntry) : s.jli.tx <+: (s.handAlert false e).jli.tx := by
    unfold State.handAlert
    split
    · exact List.prefix_append ..
    · exact List.prefix_rfl
  unfold State.clear
  split
  · exact List.prefix_rfl
  split
  · dsimp only
    split <;> split
    · exact hand _
    · exact List.prefix_rfl
    · exact hand _
    · exact List.prefix_rfl
  · exact List.prefix_rfl

theorem hand_tx (s : State) (f : OutFrame) : s.jli.tx <+: (s.hand f).jli.tx := by
  unfold State.hand
  split
  · exact List.prefix_append ..
  · exact List.prefix_rfl

theorem hand_linkErrors (s : State) (f : OutFrame) (h : s.jli.linkErrors ≤ Config.max16) :
    s.jli.linkErrors ≤ (s.hand f).jli.linkErrors := by
  unfold State.hand
  split
  · exact Nat.le_refl _
  · show _ ≤ satAdd _ _ _
    unfold satAdd
    omega

/-- The frames that wait keep their places, and a discarded frame stays counted. -/
structure LinkGrows (s t : State) : Prop where
  tx : s.jli.tx <+: t.jli.tx
  linkErrors : min Config.max16 s.jli.linkErrors ≤ t.jli.linkErrors
  restart : t.jli.restart = s.jli.restart

theorem LinkGrows.refl (s : State) : LinkGrows s s := ⟨List.prefix_rfl, Nat.min_le_right .., rfl⟩

theorem LinkGrows.trans {s t u : State} (h : LinkGrows s t) (k : LinkGrows t u) : LinkGrows s u :=
  ⟨h.tx.trans k.tx, by have := h.linkErrors; have := k.linkErrors; omega, k.restart.trans h.restart⟩

/-- An operation that leaves the job link as it is. -/
theorem LinkGrows.of_jli {s t : State} (h : t.jli = s.jli) : LinkGrows s t := by
  refine ⟨?_, ?_, ?_⟩
  · rw [h]
  · rw [h]; exact Nat.min_le_right ..
  · rw [h]

theorem linkGrows_raiseAt (s : State) (k : AlertKey) (c : Bool) (t : Time) : LinkGrows s (s.raiseAt k c t) := by
  have e := alertOnly_raiseAt s k c t
  refine ⟨raiseAt_tx s k c t, ?_, ?_⟩
  · rw [e]; exact Nat.min_le_right ..
  · rw [e]

theorem linkGrows_clear (s : State) (k : AlertKey) : LinkGrows s (s.clear k) := by
  have e := alertOnly_clear s k
  refine ⟨clear_tx s k, ?_, ?_⟩
  · rw [e]; exact Nat.min_le_right ..
  · rw [e]

theorem linkGrows_hand (s : State) (f : OutFrame) : LinkGrows s (s.hand f) := by
  refine ⟨hand_tx s f, ?_, by rw [hand_only]⟩
  unfold State.hand
  split
  · exact Nat.min_le_right ..
  · show _ ≤ satAdd _ _ _
    unfold satAdd
    omega

theorem linkGrows_freeSheets (s : State) (l : List Nat) : LinkGrows s (s.freeSheets l) := by
  refine .of_jli ?_
  have h : (s.each l State.freeSheetBlocks).jli = s.jli :=
    State.each_kept (P := fun t => t.jli = s.jli)
      (fun t n ht => by rw [← ht]; unfold State.freeSheetBlocks; split <;> rfl) l rfl
  exact h

theorem linkGrows_freeSheetBlocks (s : State) (n : Nat) : LinkGrows s (s.freeSheetBlocks n) := by
  refine .of_jli ?_
  unfold State.freeSheetBlocks
  split <;> rfl

theorem keepsDispatch_linkGrows (s : State) : KeepsDispatch (LinkGrows s) where
  raiseAt h := h.trans (linkGrows_raiseAt _ _ _ _)
  clear h := h.trans (linkGrows_clear _ _)
  job _ _ h := h.trans (.of_jli rfl)
  disp h := h.trans (.of_jli rfl)
  pool _ _ h := h.trans (.of_jli rfl)
  printer _ _ h := h.trans (.of_jli rfl)
  reserved h := h.trans (.of_jli rfl)

/-- R167: printing hands frames over behind those that wait. -/
theorem keepsPrinting_linkGrows (s : State) : KeepsPrinting (LinkGrows s) where
  toKeepsDispatch := keepsDispatch_linkGrows s
  account _ h := h.trans (.of_jli rfl)
  hand h := h.trans (linkGrows_hand _ _)
  paused h := h.trans (.of_jli rfl)
  freeSheet h := h.trans (linkGrows_freeSheetBlocks _ _)
  meters _ h := h.trans (.of_jli rfl)
  progress _ _ h := h.trans (.of_jli rfl)
  control h := h.trans (.of_jli rfl)
  protocolError h := h.trans (.of_jli rfl)
  endJob h := (keepsDispatch_linkGrows s).endJob_of (fun h => h.trans (linkGrows_hand _ _)) (fun h => h.trans (.of_jli rfl))
    (fun h => h.trans (linkGrows_freeSheets _ _)) (fun h => h.trans (.of_jli rfl)) (fun h => h.trans (.of_jli rfl)) h

/-- A frame handed over is the first of all that are. -/
theorem handedFirst_hand {s t : State} {f : OutFrame} (h : LinkGrows (s.hand f) t) : HandedFirst s f t := by
  unfold HandedFirst
  by_cases hl : s.jli.tx.length < Config.txLimit
  · have e : (s.hand f).jli.tx = s.jli.tx ++ [f] := by unfold State.hand; rw [if_pos hl]; rfl
    rw [if_pos hl, ← e]
    exact h.tx
  · have e : (s.hand f).jli.linkErrors = min Config.max16 (s.jli.linkErrors + 1) := by
      unfold State.hand; rw [if_neg hl]; rfl
    have k := h.linkErrors
    rw [if_neg hl]
    omega

/-- Where no frame has been handed over, the first of those that follow is the first of all. -/
theorem HandedFirst.of_jli {s u t : State} {f : OutFrame} (h : HandedFirst s f t) (e : s.jli = u.jli) : HandedFirst u f t := by
  unfold HandedFirst at *
  rwa [← e]

/-! ### The end of a job -/

theorem job_clear (s : State) (k : AlertKey) (j : Fin 128) : (s.clear k).job j = s.job j := by
  rw [alertOnly_clear s k]; rfl

theorem job_raiseAt (s : State) (k : AlertKey) (c : Bool) (t : Time) (j : Fin 128) : (s.raiseAt k c t).job j = s.job j := by
  rw [alertOnly_raiseAt s k c t]; rfl

theorem job_hand (s : State) (f : OutFrame) (j : Fin 128) : (s.hand f).job j = s.job j := by rw [hand_only]; rfl

theorem budgetTest_alertOnly (s : State) (a : Fin 512) : AlertOnly s (s.budgetTest a) := by
  unfold State.budgetTest
  split
  · rfl
  · exact alertOnly_clear _ _

/-- R16: what the watermarks change. -/
theorem applyWatermarks_only (s : State) :
    s.applyWatermarks = { s with
      spm := { s.spm with paused := s.applyWatermarks.spm.paused }
      arl := { s.arl with queue := s.applyWatermarks.arl.queue, dropped := s.applyWatermarks.arl.dropped }
      jli := { s.jli with tx := s.applyWatermarks.jli.tx, linkErrors := s.applyWatermarks.jli.linkErrors } } := by
  unfold State.applyWatermarks
  dsimp only
  split
  · unfold State.raise
    rw [alertOnly_raiseAt, hand_only]
    rfl
  · split
    · rw [alertOnly_clear, hand_only]
      rfl
    · rfl

theorem linkGrows_applyWatermarks (s : State) : LinkGrows s s.applyWatermarks :=
  (keepsPrinting_linkGrows s).applyWatermarks (.refl s)

/-- The last steps of a job's end, once it is off its printer: its slot FREE, the budget condition tested and the watermarks
applied. -/
def State.slotFreed (s : State) (j : Fin 128) (a : Fin 512) : State := ((s.setJob j none).budgetTest a).applyWatermarks

theorem endJob_steps {s : State} {j : Fin 128} {x : Job} (h : s.job j = some x) (o : JobOutcome) (c : Cause) :
    s.endJob j o c = ((s.released x o c).unqueued j x).slotFreed j x.account := endJob_some h o c

/-- What the last steps of a job's end change. -/
theorem slotFreed_only (s : State) (j : Fin 128) (a : Fin 512) :
    s.slotFreed j a = { s with
      spm := { s.spm with jobs := put s.spm.jobs j none, paused := (s.slotFreed j a).spm.paused }
      arl := { s.arl with queue := (s.slotFreed j a).arl.queue, dropped := (s.slotFreed j a).arl.dropped }
      jli := { s.jli with tx := (s.slotFreed j a).jli.tx, linkErrors := (s.slotFreed j a).jli.linkErrors } } := by
  unfold State.slotFreed
  rw [applyWatermarks_only, budgetTest_alertOnly]
  rfl

theorem slotFreed_job (s : State) (j i : Fin 128) (a : Fin 512) :
    (s.slotFreed j a).job i = if i = j then none else s.job i := by
  rw [slotFreed_only]
  exact put_get _ _ _ _

/-- R22, step 7: the slot of an ended job is FREE. -/
theorem endJob_job {s : State} {j : Fin 128} {x : Job} (h : s.job j = some x) (o : JobOutcome) (c : Cause) :
    (s.endJob j o c).job j = none := by
  rw [endJob_steps h, slotFreed_job, if_pos rfl]

/-- R22, step 1: the report of an ended job is the first frame handed over. -/
theorem endJob_handedFirst {s : State} {j : Fin 128} {x : Job} (h : s.job j = some x) (o : JobOutcome) (c : Cause) :
    HandedFirst s (.jobReport (reportOf x o c)) (s.endJob j o c) := by
  refine handedFirst_hand ?_
  rw [endJob_steps h]
  have h1 : LinkGrows (s.hand (.jobReport (reportOf x o c))) (s.released x o c) :=
    (linkGrows_freeSheets _ _).trans (.of_jli rfl)
  have h2 : LinkGrows (s.hand (.jobReport (reportOf x o c))) ((s.released x o c).unqueued j x) := by
    have K := keepsDispatch_linkGrows (s.hand (.jobReport (reportOf x o c)))
    unfold State.unqueued State.unassignEnded
    split
    · exact K.offerPrinter _ (K.detach j _ (K.leaveQueue _ _ h1))
    · exact K.leaveQueue _ _ h1
  have h3 : LinkGrows ((s.released x o c).unqueued j x) (((s.released x o c).unqueued j x).slotFreed j x.account) :=
    (keepsPrinting_linkGrows _).applyWatermarks ((keepsDispatch_linkGrows _).budgetTest _ (.of_jli rfl))
  exact h2.trans h3

/-- R22, step 5: an ended job stands in its pool's queue no longer. -/
theorem endJob_notQueued {s : State} {j : Fin 128} {x : Job} (h : s.job j = some x) (o : JobOutcome) (c : Cause) :
    j ∉ ((s.endJob j o c).pool x.pool).queue := by
  have h1 : j ∉ (((s.released x o c).leaveQueue x.pool j).pool x.pool).queue := by
    unfold State.leaveQueue
    rw [State.pool_setQueue, if_pos rfl]
    simp
  have h2 : j ∉ (((s.released x o c).unqueued j x).pool x.pool).queue := by
    have K := keepsArbiter_notQueued x.pool j
    unfold State.unqueued State.unassignEnded
    split
    · exact K.offerPrinter _ (K.detach j _ h1)
    · exact h1
  rw [endJob_steps h, slotFreed_only]
  exact h2

/-- R22, step 4: the bound counts once a job is unbound. -/
theorem released_bound (s : State) (x : Job) (o : JobOutcome) (c : Cause) :
    ((s.released x o c).account x.account).bound = (s.account x.account).bound - 1 ∧
      (s.released x o c).chg.bound.get x.bank = s.chg.bound.get x.bank - 1 := by
  have e : ∀ (l : List Nat) (u : State), (u.freeSheets l).acm = u.acm ∧ (u.freeSheets l).chg = u.chg := by
    intro l u
    exact State.each_kept (P := fun t => t.acm = u.acm ∧ t.chg = u.chg)
      (fun t n ht => by unfold State.freeSheetBlocks; split <;> exact ht) l ⟨rfl, rfl⟩
  obtain ⟨ha, hc⟩ := e x.sheetList (s.hand (.jobReport (reportOf x o c)))
  have ha : ∀ a, ((s.hand (.jobReport (reportOf x o c))).freeSheets x.sheetList).account a = s.account a := by
    intro a; unfold State.account; rw [ha, hand_only]
  have hc : ((s.hand (.jobReport (reportOf x o c))).freeSheets x.sheetList).chg = s.chg := by rw [hc, hand_only]
  unfold State.released State.unbindJob
  constructor
  · rw [State.account_setBankBound, State.account_setAccount, if_pos rfl, ha]
  · rw [State.setBankBound_bound, put_get, if_pos rfl, hc]

theorem endJob_bound {s : State} {j : Fin 128} {x : Job} (h : s.job j = some x) (o : JobOutcome) (c : Cause) :
    ((s.endJob j o c).account x.account).bound = (s.account x.account).bound - 1 ∧
      (s.endJob j o c).chg.bound.get x.bank = s.chg.bound.get x.bank - 1 := by
  obtain ⟨ha, hc⟩ := released_bound s x o c
  have k := unqueued_only (s.released x o c) j x
  rw [endJob_steps h, slotFreed_only]
  constructor
  · show (((s.released x o c).unqueued j x).account x.account).bound = _
    rw [k.accounts]
    exact ha
  · show ((s.released x o c).unqueued j x).chg.bound.get x.bank = _
    rw [k.rest]
    exact hc

/-- Settles O23, from the steps of a job's end: what its sheets held, its slot, its place in the queue and its counts. -/
theorem jobEndFreesWhatTheJobHeld : Obligations.JobEndFreesWhatTheJobHeld := by
  intro s v j x o c hx hs hv
  subst hv
  have hd : Sorted (s.hand (.jobReport (reportOf x o c))).spm.descs := by rw [hand_spm]; exact hs.sorted
  have hsame := sameSpool_endJob hx o c
  obtain ⟨hacc, hbank⟩ := endJob_bound hx o c
  refine ⟨endJob_job hx o c, endJob_handedFirst hx o c, ?_, fun n => ?_, hacc, hbank, endJob_notQueued hx o c,
    (keepsPrinting_only s).endJob (.refl s)⟩
  · have hf := freeSheets_freeList hd (hs.nodup_sheetList hx)
    rw [hand_spm] at hf
    exact hsame.freeList.trans hf
  · have hf := freeSheets_findDesc hd x.sheetList n
    rw [hand_spm] at hf
    rw [hsame.descs]
    exact hf

end Sys2Proof.Machine

/-! ## Job frames on their streams, and the watermarks (R4, R16, R166, R176) -/

namespace Sys2Proof.Machine

/-! ### A job frame reaches its stream -/

theorem streamIndex_streamNumber (i : Fin 15) : streamIndex (streamNumber i) = some i := by
  revert i
  decide

/-- R166, R176: a job frame of a stream acts after the silence rule, and the line arbiters run. -/
theorem onJobFrame_stream {s : State} (h : s.jli.restart = none) (i : Fin 15) (f : State → Fin 15 → State) :
    s.onJobFrame (streamNumber i) f = (f s.silenceRule i).serviceLines := by
  unfold State.onJobFrame State.onFrame
  rw [streamIndex_streamNumber]
  simp [h]

theorem exec_jobOpen {s : State} (h : s.jli.restart = none) (i : Fin 15) (r : OpenRequest) :
    exec (.jobOpen (streamNumber i) r) s = .next (s.silenceRule.onJobOpen i r).serviceLines :=
  congrArg Host.Outcome.next (onJobFrame_stream h i _)

theorem exec_sheet {s : State} (h : s.jli.restart = none) (i : Fin 15) (d : SheetDecl) :
    exec (.sheet (streamNumber i) d) s = .next (s.silenceRule.onSheet i d).serviceLines :=
  congrArg Host.Outcome.next (onJobFrame_stream h i _)

theorem exec_jobClose {s : State} (h : s.jli.restart = none) (i : Fin 15) :
    exec (.jobClose (streamNumber i)) s = .next (s.silenceRule.onJobClose i).serviceLines :=
  congrArg Host.Outcome.next (onJobFrame_stream h i _)

theorem exec_jobAbort {s : State} (h : s.jli.restart = none) (i : Fin 15) :
    exec (.jobAbort (streamNumber i)) s = .next (s.silenceRule.onJobAbort i).serviceLines :=
  congrArg Host.Outcome.next (onJobFrame_stream h i _)

/-- R165: a DATA that can arrive carries at most 1024 bytes. -/
theorem exec_data {s : State} (h : s.jli.restart = none) (i : Fin 15) {bytes : List Byte}
    (hw : (Instr.data (streamNumber i) bytes).wf = true) :
    exec (.data (streamNumber i) bytes) s = .next (s.silenceRule.onData i bytes).serviceLines := by
  have hl : bytes.length ≤ Config.maxPayload := by
    simp only [Instr.wf, Bool.and_eq_true, decide_eq_true_eq] at hw
    exact hw.2
  refine congrArg Host.Outcome.next ?_
  rw [if_neg (by omega)]
  exact onJobFrame_stream h i _

/-! ### IDLE and DISCARD streams -/

theorem onSheet_idle {s : State} {i : Fin 15} (h : s.stream i = .idle) (d : SheetDecl) : s.onSheet i d = s.countStray := by
  simp [State.onSheet, h]

theorem onData_idle {s : State} {i : Fin 15} (h : s.stream i = .idle) (l : List Byte) : s.onData i l = s.countStray := by
  simp [State.onData, h]

theorem onJobClose_idle {s : State} {i : Fin 15} (h : s.stream i = .idle) : s.onJobClose i = s.countStray := by
  simp [State.onJobClose, h]

theorem onJobAbort_idle {s : State} {i : Fin 15} (h : s.stream i = .idle) : s.onJobAbort i = s.countStray := by
  simp [State.onJobAbort, h]

theorem onJobOpen_discard {s : State} {i : Fin 15} (h : s.stream i = .discard) (r : OpenRequest) : s.onJobOpen i r = s := by
  simp [State.onJobOpen, h]

theorem onSheet_discard {s : State} {i : Fin 15} (h : s.stream i = .discard) (d : SheetDecl) : s.onSheet i d = s := by
  simp [State.onSheet, h]

theorem onData_discard {s : State} {i : Fin 15} (h : s.stream i = .discard) (l : List Byte) : s.onData i l = s := by
  simp [State.onData, h]

theorem onJobClose_discard {s : State} {i : Fin 15} (h : s.stream i = .discard) : s.onJobClose i = s.setStream i .idle := by
  simp [State.onJobClose, h]

theorem onJobAbort_discard {s : State} {i : Fin 15} (h : s.stream i = .discard) : s.onJobAbort i = s.setStream i .idle := by
  simp [State.onJobAbort, h]

/-- R166: the stray-frame count after one more stray frame. -/
theorem countStray_eq (s : State) :
    s.countStray = { s with jli := { s.jli with strayFrames := min 65535 (s.jli.strayFrames + 1) } } := rfl

theorem setStream_eq (s : State) (i : Fin 15) (x : StreamState) :
    s.setStream i x = { s with spm := { s.spm with streams := put s.spm.streams i x } } := rfl

/-- Settles O14: by the stream's state, the frame is counted, dropped or ends the DISCARD. -/
theorem jobFramesOnIdleAndDiscardStreams : Obligations.JobFramesOnIdleAndDiscardStreams := by
  intro s u i c hr hu hw
  subst hu
  refine ⟨fun hi hc => ?_, fun hi hc => ?_, fun hi hc => ?_⟩
  · rw [← countStray_eq]
    obtain ⟨d, rfl⟩ | ⟨bytes, rfl⟩ | rfl | rfl := hc
    · exact ⟨_, exec_sheet hr i d, by rw [onSheet_idle hi]; exact linesOnly_serviceLines _⟩
    · exact ⟨_, exec_data hr i hw, by rw [onData_idle hi]; exact linesOnly_serviceLines _⟩
    · exact ⟨_, exec_jobClose hr i, by rw [onJobClose_idle hi]; exact linesOnly_serviceLines _⟩
    · exact ⟨_, exec_jobAbort hr i, by rw [onJobAbort_idle hi]; exact linesOnly_serviceLines _⟩
  · obtain ⟨r, rfl⟩ | ⟨d, rfl⟩ | ⟨bytes, rfl⟩ := hc
    · exact ⟨_, exec_jobOpen hr i r, by rw [onJobOpen_discard hi]; exact linesOnly_serviceLines _⟩
    · exact ⟨_, exec_sheet hr i d, by rw [onSheet_discard hi]; exact linesOnly_serviceLines _⟩
    · exact ⟨_, exec_data hr i hw, by rw [onData_discard hi]; exact linesOnly_serviceLines _⟩
  · rw [← setStream_eq]
    obtain rfl | rfl := hc
    · exact ⟨_, exec_jobClose hr i, by rw [onJobClose_discard hi]; exact linesOnly_serviceLines _⟩
    · exact ⟨_, exec_jobAbort hr i, by rw [onJobAbort_discard hi]; exact linesOnly_serviceLines _⟩

/-! ### The watermarks -/

/-- Below the low watermark with paused clear, the host is told to pause. -/
theorem applyWatermarks_low {s : State} (hp : s.spm.paused = false) (hn : s.freeBlocks < Config.lowMark) :
    s.applyWatermarks = ((s.hand (.pause s.freeBlocks)).setPaused true).raise (deviceKey .spoolLow) := by
  simp [State.applyWatermarks, hp, hn]

/-- At the high watermark with paused set, the host is told to resume. -/
theorem applyWatermarks_high {s : State} (hp : s.spm.paused = true) (hn : Config.highMark ≤ s.freeBlocks) :
    s.applyWatermarks = ((s.hand (.resume s.freeBlocks)).setPaused false).clear (deviceKey .spoolLow) := by
  simp [State.applyWatermarks, hp, hn]

/-- Anywhere else nothing happens. -/
theorem applyWatermarks_between {s : State} (hl : s.spm.paused = false → Config.lowMark ≤ s.freeBlocks)
    (hh : s.spm.paused = true → s.freeBlocks < Config.highMark) : s.applyWatermarks = s := by
  unfold State.applyWatermarks
  cases hp : s.spm.paused with
  | false => have := hl hp; simp only [Bool.not_false, Bool.true_and, decide_eq_true_eq]; rw [if_neg (by omega)]; simp
  | true => have := hh hp; simp only [Bool.not_true, Bool.true_and, Bool.false_and, decide_eq_true_eq]; simp; omega

/-- Settles O24, by paused and the two marks. -/
theorem watermarksPauseAndResume : Obligations.WatermarksPauseAndResume := by
  intro s w n hn
  have hf : s.freeBlocks = n := by rw [State.freeBlocks_eq, hn]
  have now : ∀ f b, ((s.hand f).setPaused b).now = s.now := fun f b => by rw [hand_only]; rfl
  refine ⟨hf, fun hp hl hw => ?_, fun hp hh hw => ?_, fun hp hl => ?_, fun hp hh => ?_⟩
  · rw [applyWatermarks_low hp (by rw [hf]; exact hl), hf, hw]
    unfold State.raise
    rw [now]
    rfl
  · rw [applyWatermarks_high hp (by rw [hf]; exact hh), hf, hw]
    rfl
  · exact applyWatermarks_between (fun _ => by rw [hf]; exact hl) (fun e => by rw [hp] at e; cases e)
  · exact applyWatermarks_between (fun e => by rw [hp] at e; cases e) (fun _ => by rw [hf]; exact hh)

end Sys2Proof.Machine

/-! ## The cancellation path (R145 to R148), and what takes it from a stream (R5, R9, R14, R15) -/

namespace Sys2Proof.Machine

/-! ### The loss of a window's entries (R63) -/

/-- Estimates released change the account's reserved amount alone. -/
theorem each_unreserve_only (a : Fin 512) (l : List WindowEntry) (s : State) :
    s.each l (fun t x => t.unreserve a x.estimate) =
      { s with acm := { s.acm with accounts := (s.each l fun t x => t.unreserve a x.estimate).acm.accounts } } :=
  State.each_kept (P := fun t => t = { s with acm := { s.acm with accounts := t.acm.accounts } })
    (fun t x ht => by rw [ht]; rfl) l rfl

/-- R63: a job whose window lost n entries, the first at the given position. -/
def rewound (x : Job) (e : WindowEntry) (n : Nat) : Job :=
  { x with
    releasePos := ordinal x.sheets e.copy e.sheet - 1
    sheetsLost := satAdd Config.max16 x.sheetsLost n }

/-- R63: the entries from index k on are lost, step by step. -/
theorem loseFrom_some {s : State} {p : Fin 32} {k : Nat} {e : WindowEntry} {x : Job}
    (he : (s.disp p).window[k]? = some e) (hx : s.job e.job = some x) :
    s.loseFrom p k = ((s.setWindow p ((s.disp p).window.take k)).setJob e.job
      (some (rewound x e ((s.disp p).window.drop k).length))).each ((s.disp p).window.drop k)
        fun t y => t.unreserve x.account y.estimate := by
  have hw : (s.setWindow p ((s.disp p).window.take k)).job e.job = some x := hx
  unfold State.loseFrom
  simp only [he, hx, State.modJob_some _ hw]
  rfl

theorem disp_setWindow (s : State) (p q : Fin 32) (w : List WindowEntry) :
    (s.setWindow p w).disp q = if q = p then { s.disp p with window := w } else s.disp q := by
  unfold State.setWindow
  rw [State.disp_setPrinter, State.disp_setDisp]

theorem restage_kept (before w : List WindowEntry) (r : Printer) :
    restage before w r = { r with stage := (restage before w r).stage, naks := (restage before w r).naks } := by
  unfold restage
  split <;> rfl

theorem printer_setWindow (s : State) (p q : Fin 32) (w : List WindowEntry) :
    (s.setWindow p w).printer q =
      { s.printer q with stage := ((s.setWindow p w).printer q).stage, naks := ((s.setWindow p w).printer q).naks } := by
  unfold State.setWindow
  rw [State.printer_setPrinter]
  split
  · next e => subst e; exact restage_kept _ _ _
  · rfl

/-- What a loss of entries leaves: their job rewound, the window shorter. -/
structure EntriesLost (s t : State) (p : Fin 32) (k : Nat) (e : WindowEntry) (x : Job) : Prop where
  job : ∀ j, t.job j = if j = e.job then some (rewound x e ((s.disp p).window.drop k).length) else s.job j
  disp : ∀ q, t.disp q = if q = p then { s.disp p with window := (s.disp p).window.take k } else s.disp q
  printer : ∀ q, t.printer q = { s.printer q with stage := (t.printer q).stage, naks := (t.printer q).naks }
  port : ∀ q, t.port q = s.port q
  jli : t.jli = s.jli

theorem entriesLost_loseFrom {s : State} {p : Fin 32} {k : Nat} {e : WindowEntry} {x : Job}
    (he : (s.disp p).window[k]? = some e) (hx : s.job e.job = some x) : EntriesLost s (s.loseFrom p k) p k e x := by
  rw [loseFrom_some he hx, each_unreserve_only]
  exact ⟨fun j => State.job_setJob _ _ _ _, fun q => disp_setWindow s p q _, fun q => printer_setWindow s p q _,
    fun q => rfl, rfl⟩

/-! ### Needs-drop (R83, R103) -/

theorem mem_replaceFirst {α : Type} {f : α → Bool} {b : α} {l : List α} (h : l.any f = true) :
    b ∈ replaceFirst f (fun _ => b) l := by
  induction l with
  | nil => cases h
  | cons x l ih =>
    unfold replaceFirst
    cases hf : f x with
    | true => simp
    | false =>
      rw [List.any_cons, hf, Bool.false_or] at h
      simp [ih h]

/-- R83: a block queued waits. -/
theorem mem_queueControl (b : ControlBlock) (l : List ControlBlock) : b ∈ queueControl b l := by
  unfold queueControl
  split
  · next h => exact mem_replaceFirst h
  · simp

/-- R103: the drop-from feed that needs-drop is set with. -/
def dropFeed (r : Printer) (f : Byte) : Byte :=
  match r.dropFrom with
  | some g => earlierFeed r.nextFeed g f
  | none => f

theorem setNeedsDrop_eq (s : State) (p : Fin 32) (f : Byte) :
    s.setNeedsDrop p f =
      (s.setPrinter p { s.printer p with needsDrop := true, dropFrom := some (dropFeed (s.printer p) f) }).queueDropSheets p
        false := rfl

/-- A DROP-SHEETS queued changes one port's control queue. -/
theorem queueDropSheets_only (s : State) (p : Fin 32) (b : Bool) :
    s.queueDropSheets p b = { s with dlc := (s.queueDropSheets p b).dlc } := by
  unfold State.queueDropSheets
  dsimp only
  split <;> rfl

theorem mem_control_queueDropSheets {s : State} {p : Fin 32} {b : Bool} (h : (s.port (portOf p)).line ≠ .disabled) :
    { drop := dropOf p, waitDue := b } ∈ ((s.queueDropSheets p b).port (portOf p)).control := by
  unfold State.queueDropSheets
  dsimp only
  rw [if_neg h, State.port_setPort, if_pos rfl]
  exact mem_queueControl _ _

/-- What setting needs-drop changes: one printer and the ports. -/
theorem setNeedsDrop_only (s : State) (p : Fin 32) (f : Byte) :
    s.setNeedsDrop p f = { s with
      dlc := (s.setNeedsDrop p f).dlc
      pra := put s.pra p { s.printer p with needsDrop := true, dropFrom := some (dropFeed (s.printer p) f) } } := by
  rw [setNeedsDrop_eq, queueDropSheets_only]
  rfl

theorem printer_setNeedsDrop (s : State) (p : Fin 32) (f : Byte) :
    (s.setNeedsDrop p f).printer p =
      { s.printer p with needsDrop := true, dropFrom := some (dropFeed (s.printer p) f) } := by
  rw [setNeedsDrop_only]
  exact put_get_same _ _ _

theorem toldToDrop_setNeedsDrop (s : State) (p : Fin 32) (f : Byte) : ToldToDrop s (s.setNeedsDrop p f) p f := by
  refine ⟨by rw [printer_setNeedsDrop], by rw [printer_setNeedsDrop]; rfl, fun h => ?_⟩
  rw [setNeedsDrop_eq]
  exact mem_control_queueDropSheets h

/-! ### The path of a job (R145) -/

/-- A job record without its stream (R3). -/
def unbound (x : Job) : Job := { x with isOpen := false, stream := none }

theorem unbindStream_some {s : State} {j : Fin 128} {x : Job} (h : s.job j = some x) :
    s.unbindStream j = s.setJob j (some (unbound x)) := State.modJob_some s h _

theorem job_unbindStream {s : State} {j : Fin 128} {x : Job} (h : s.job j = some x) :
    (s.unbindStream j).job j = some (unbound x) := by
  rw [unbindStream_some h, State.job_setJob, if_pos rfl]

/-- R145: a job in SPOOLING, QUEUED or HELD ends at once. -/
theorem cancelJob_waiting {s : State} {j : Fin 128} {x : Job} (h : s.job j = some x) (o : JobOutcome) (c : Cause)
    (hp : x.phase = .spooling ∨ x.phase = .held ∨ x.phase = .queued) :
    s.cancelJob j o c = (s.unbindStream j).endJob j o c := by
  unfold State.cancelJob
  simp only [job_unbindStream h]
  obtain e | e | e := hp <;> simp [unbound, e]

/-- R145: a PRINTING job is cancelled on its printer. -/
theorem cancelJob_printing {s : State} {j : Fin 128} {x : Job} {p : Fin 32} (h : s.job j = some x) (o : JobOutcome)
    (c : Cause) (hp : x.phase = .printing) (hx : x.printer = some p) :
    s.cancelJob j o c = (s.unbindStream j).cancelPrinting j p o c := by
  unfold State.cancelJob
  simp only [job_unbindStream h]
  simp [unbound, hp, hx]

theorem disp_unbindStream (s : State) (j : Fin 128) (p : Fin 32) : (s.unbindStream j).disp p = s.disp p :=
  State.disp_modJob s j _ p

theorem printer_unbindStream (s : State) (j : Fin 128) (p : Fin 32) : (s.unbindStream j).printer p = s.printer p :=
  State.printer_modJob s j _ p

theorem port_unbindStream (s : State) (j : Fin 128) (q : Fin 8) : (s.unbindStream j).port q = s.port q :=
  State.port_modJob s j _ q

theorem jli_unbindStream (s : State) (j : Fin 128) : (s.unbindStream j).jli = s.jli := State.modJob_jli s j _

/-- R145: where the job ends at once, its slot is FREE and its report the first frame handed over. -/
theorem cancelJob_atOnce {s : State} {j : Fin 128} {x : Job} (h : s.job j = some x) (o : JobOutcome) (c : Cause)
    (he : EndsAtOnce s x) :
    (s.cancelJob j o c).job j = none ∧ HandedFirst s (.jobReport (reportOf x o c)) (s.cancelJob j o c) := by
  have hv : s.cancelJob j o c = (s.unbindStream j).endJob j o c := by
    obtain e | e | e | ⟨e, p, hx, hw⟩ := he
    · exact cancelJob_waiting h o c (.inl e)
    · exact cancelJob_waiting h o c (.inr (.inl e))
    · exact cancelJob_waiting h o c (.inr (.inr e))
    · rw [cancelJob_printing h o c e hx]
      unfold State.cancelPrinting
      rw [disp_unbindStream, hw]
      rfl
  have hj := job_unbindStream h
  rw [hv]
  exact ⟨endJob_job hj o c, (endJob_handedFirst hj o c).of_jli (jli_unbindStream s j)⟩

/-- R147: a job with sheets in the window of a printer that is not LOST enters CANCELLING. -/
theorem cancelJob_committed {s : State} {j : Fin 128} {x : Job} {p : Fin 32} {e : WindowEntry} {rest : List WindowEntry}
    (h : s.job j = some x) (o : JobOutcome) (c : Cause) (hp : x.phase = .printing) (hx : x.printer = some p)
    (hw : (s.disp p).window = e :: rest) (hl : (s.printer p).link ≠ .lost) :
    s.cancelJob j o c = ((s.setJob j (some { unbound x with
      phase := .cancelling, ending := some (o, c), drain := none, stalled := false })).setNeedsDrop p e.feed).budgetTest
        x.account := by
  rw [cancelJob_printing h o c hp hx]
  unfold State.cancelPrinting
  rw [disp_unbindStream, hw, printer_unbindStream, if_neg (by simp), if_neg hl]
  unfold State.enterCancelling
  simp only [unbindStream_some h, State.disp_setJob, hw, State.job_setJob, if_true, State.setJob_setJob]
  rfl

/-- R148: a job with sheets in the window of a LOST printer loses them and ends at once. -/
theorem cancelJob_lost {s : State} {j : Fin 128} {x : Job} {p : Fin 32} {e : WindowEntry} {rest : List WindowEntry}
    (h : s.job j = some x) (o : JobOutcome) (c : Cause) (hp : x.phase = .printing) (hx : x.printer = some p)
    (hw : (s.disp p).window = e :: rest) (hl : (s.printer p).link = .lost) :
    s.cancelJob j o c = (((s.unbindStream j).loseFrom p 0).setNeedsDrop p e.feed).endJob j o c := by
  rw [cancelJob_printing h o c hp hx]
  unfold State.cancelPrinting State.cancelOnLost
  simp only [disp_unbindStream, hw, printer_unbindStream, hl]
  rfl

/-- R103: needs-drop outlasts an arbiter's run. -/
theorem keepsArbiter_needsDrop (p : Fin 32) : KeepsArbiter fun t => (t.printer p).needsDrop = true where
  raiseBudget {s a} h := by
    unfold State.raise
    rw [alertOnly_raiseAt]
    exact h
  job _ _ _ h := h
  disp h := h
  leave h := h
  pointer h := h
  printer {s q x} hx h := by
    rw [State.printer_setPrinter]
    split
    · next e => subst e; rw [hx]; exact h
    · exact h
  reserved h := h

/-- R47: a printer that is to drop sheets is offered to no pool. -/
theorem offerPrinter_needsDrop {s : State} {p : Fin 32} (h : (s.printer p).needsDrop = true) : s.offerPrinter p = s := by
  unfold State.offerPrinter
  rw [if_neg (by simp [State.available, h])]

theorem printer_freeSheets (s : State) (l : List Nat) (p : Fin 32) : (s.freeSheets l).printer p = s.printer p := by
  unfold State.printer
  rw [(printingOnly_freeSheets s l).rest]
  exact State.each_kept (P := fun t => t.pra.get p = s.pra.get p)
    (fun t n ht => by rw [← ht]; unfold State.freeSheetBlocks; split <;> rfl) l rfl

theorem released_printer (s : State) (x : Job) (o : JobOutcome) (c : Cause) (p : Fin 32) :
    (s.released x o c).printer p = s.printer p := by
  show ((s.hand _).freeSheets x.sheetList).printer p = _
  rw [printer_freeSheets, hand_only]
  rfl

theorem released_disp (s : State) (x : Job) (o : JobOutcome) (c : Cause) (p : Fin 32) :
    (s.released x o c).disp p = s.disp p := by
  show ((s.hand _).freeSheets x.sheetList).disp p = _
  unfold State.freeSheets
  dsimp only
  rw [State.disp_setDescs]
  exact State.each_kept (P := fun t => t.disp p = s.disp p)
    (fun t n ht => by rw [← ht]; unfold State.freeSheetBlocks; split <;> rfl) _ (by rw [hand_only]; rfl)

theorem disp_detach (s : State) (j : Fin 128) (p q : Fin 32) :
    (s.detach j p).disp q =
      if q = p then { s.disp p with assigned := none, stall := none, leaving := false } else s.disp q := by
  unfold State.detach
  dsimp only
  split <;> simp

theorem printer_detach (s : State) (j : Fin 128) (p q : Fin 32) :
    (s.detach j p).printer q = { s.printer q with inService := ((s.detach j p).printer q).inService } := by
  unfold State.detach
  dsimp only
  split
  · rw [State.printer_setPrinter]
    split
    · next e => subst e; simp
    · simp
  · simp

/-- The end of a job whose printer is to drop sheets leaves that printer without a job. -/
theorem endJob_needsDrop {s : State} {j : Fin 128} {x : Job} {p : Fin 32} (h : s.job j = some x) (o : JobOutcome) (c : Cause)
    (hx : x.printer = some p) (hn : (s.printer p).needsDrop = true) :
    ((s.endJob j o c).printer p).needsDrop = true ∧ ((s.endJob j o c).disp p).window = (s.disp p).window := by
  have hd : (((s.released x o c).leaveQueue x.pool j).printer p).needsDrop = true := by
    show ((s.released x o c).printer p).needsDrop = true
    rw [released_printer]
    exact hn
  have hd' : ((((s.released x o c).leaveQueue x.pool j).detach j p).printer p).needsDrop = true := by
    rw [printer_detach]
    exact hd
  have hu : (s.released x o c).unqueued j x = ((s.released x o c).leaveQueue x.pool j).detach j p := by
    unfold State.unqueued State.unassignEnded
    simp only [hx]
    exact offerPrinter_needsDrop hd'
  rw [endJob_steps h, slotFreed_only, hu]
  refine ⟨hd', ?_⟩
  show ((((s.released x o c).leaveQueue x.pool j).detach j p).disp p).window = _
  rw [disp_detach, if_pos rfl]
  show ((s.released x o c).disp p).window = _
  rw [released_disp]

/-- R145, R147, R148: what the cancellation path makes of a job. -/
theorem cancelled_cancelJob {s : State} {j : Fin 128} {x : Job} (h : s.job j = some x) (o : JobOutcome) (c : Cause) :
    Cancelled s (s.cancelJob j o c) j x o c where
  atOnce := cancelJob_atOnce h o c
  committed p e rest hp hx hw hl := by
    rw [cancelJob_committed h o c hp hx hw hl, budgetTest_alertOnly, setNeedsDrop_only]
    refine ⟨?_, rfl, ?_⟩
    · exact (put_get_same s.spm.jobs j _)
    · have ht := toldToDrop_setNeedsDrop (s.setJob j (some { unbound x with
        phase := .cancelling, ending := some (o, c), drain := none, stalled := false })) p e.feed
      rw [setNeedsDrop_only] at ht
      exact ht
  lost p e rest hp hx hw hj hl := by
    have hw' : ((s.unbindStream j).disp p).window[0]? = some e := by rw [disp_unbindStream, hw]; rfl
    have hlost := entriesLost_loseFrom hw' (show _ = some (unbound x) by rw [hj]; exact job_unbindStream h)
    have hlen : (((s.unbindStream j).disp p).window.drop 0).length = rest.length + 1 := by
      rw [disp_unbindStream, hw]; rfl
    have hjob : (((s.unbindStream j).loseFrom p 0).setNeedsDrop p e.feed).job j =
        some (rewound (unbound x) e (rest.length + 1)) := by
      rw [setNeedsDrop_only]
      show ((s.unbindStream j).loseFrom p 0).job j = _
      have := hlost.job j
      rw [if_pos hj.symm, hlen] at this
      exact this
    have hdrop : ((((s.unbindStream j).loseFrom p 0).setNeedsDrop p e.feed).printer p).needsDrop = true := by
      rw [printer_setNeedsDrop]
    have hjli : (((s.unbindStream j).loseFrom p 0).setNeedsDrop p e.feed).jli = s.jli := by
      rw [setNeedsDrop_only]
      exact hlost.jli.trans (jli_unbindStream s j)
    have hwin : ((((s.unbindStream j).loseFrom p 0).setNeedsDrop p e.feed).disp p).window = [] := by
      rw [setNeedsDrop_only]
      show (((s.unbindStream j).loseFrom p 0).disp p).window = []
      rw [hlost.disp, if_pos rfl]
      rfl
    rw [cancelJob_lost h o c hp hx hw hl]
    obtain ⟨hn, hwin'⟩ := endJob_needsDrop hjob o c hx hdrop
    exact ⟨endJob_job hjob o c, hn, hwin'.trans hwin, (endJob_handedFirst hjob o c).of_jli hjli⟩

/-! ### A JOB-OPEN on an OPEN stream (R4, R5) -/

/-- R176: a part that has heard a valid frame is ATTENDED, its silence timer started. -/
def State.heard (s : State) : State := s.setMgu { s.mgu with attended := true, timer := silenceStart s.now s.mgu.timeout }

/-- R176: in a part that is ATTENDED with its silence timer started at this timestamp, a valid frame changes nothing. -/
theorem silenceRule_idle {s : State} (ha : s.mgu.attended = true) (ht : s.mgu.timer = silenceStart s.now s.mgu.timeout) :
    s.silenceRule = s := by
  have hm : { s.mgu with attended := true, timer := silenceStart s.now s.mgu.timeout } = s.mgu := by
    generalize s.mgu = m at ha ht
    cases m
    simp only at ha ht
    rw [ha, ← ht]
  unfold State.silenceRule
  dsimp only
  rw [if_pos ha, hm]
  rfl

/-- R47, R65, R176: what dispatch keeps once the part is ATTENDED, the silence rule keeps. -/
theorem silenceRule_kept {P : State → Prop} (K : KeepsDispatch P) {s : State} (h : P s.heard) : P s.silenceRule := by
  show P (if s.mgu.attended then s.heard else
    if s.unattendedHold then (s.heard.clear (deviceKey .unattended)).resumeDispatch
    else s.heard.clear (deviceKey .unattended))
  split
  · exact h
  · split
    · exact K.resumeDispatch (K.clear h)
    · exact K.clear h

/-- The silence timer is as it starts at this timestamp, in a part that is ATTENDED. -/
def JustHeard (t : State) : Prop := t.mgu.attended = true ∧ t.mgu.timer = silenceStart t.now t.mgu.timeout

theorem JustHeard.of_eq {s t : State} (h : JustHeard s) (hm : t.mgu = s.mgu) (hn : t.now = s.now) : JustHeard t := by
  unfold JustHeard
  rw [hm, hn]
  exact h

theorem keepsDispatch_justHeard : KeepsDispatch JustHeard where
  raiseAt h := h.of_eq (by rw [alertOnly_raiseAt]) (by rw [alertOnly_raiseAt])
  clear h := h.of_eq (by rw [alertOnly_clear]) (by rw [alertOnly_clear])
  job _ _ h := h.of_eq rfl rfl
  disp h := h.of_eq rfl rfl
  pool _ _ h := h.of_eq rfl rfl
  printer _ _ h := h.of_eq rfl rfl
  reserved h := h.of_eq rfl rfl

/-- R176: what the silence rule leaves of the Management Unit and the time. -/
theorem justHeard_silenceRule (s : State) : JustHeard s.silenceRule :=
  silenceRule_kept keepsDispatch_justHeard ⟨rfl, rfl⟩

theorem silenceRule_restart (s : State) : s.silenceRule.jli.restart = s.jli.restart :=
  (silenceRule_kept (keepsDispatch_linkGrows s) (.of_jli rfl)).restart

/-- R32: admission reads no stream's state. -/
theorem admissionCheck_setStream (s : State) (i : Fin 15) (y : StreamState) (r : OpenRequest) :
    (s.setStream i y).admissionCheck r = s.admissionCheck r := rfl

/-- R5: the stream of a JOB-OPEN that is passed to admission takes its state from there. -/
theorem passToAdmission_setStream (s : State) (i : Fin 15) (y : StreamState) (r : OpenRequest) :
    (s.setStream i y).passToAdmission i r = s.passToAdmission i r := by
  have refuse : ∀ cause, (s.setStream i y).refuseOpen i r cause = s.refuseOpen i r cause := by
    intro cause
    unfold State.refuseOpen State.hand
    show (if s.jli.tx.length < Config.txLimit then (s.setStream i y).setTx _ else (s.setStream i y).countLinkError).setStream
      i .discard = _
    split
    · simp [State.setStream, State.setTx]
      rfl
    · simp [State.setStream, State.countLinkError]
  have taken : ∀ a j, (s.setStream i y).admitJob i r a j = s.admitJob i r a j := by
    intro a j
    unfold State.admitJob
    simp [State.setStream, State.setJob, State.setArrival, State.bindJob, State.setAccount, State.setBankBound]
    exact ⟨rfl, rfl, rfl⟩
  unfold State.passToAdmission
  rw [admissionCheck_setStream, show (s.setStream i y).lowestFreeSlot = s.lowestFreeSlot from rfl]
  simp only [refuse, taken]

/-- The path reads nothing of the streams' states. -/
theorem Cancelled.of_setStream {s v : State} {i : Fin 15} {y : StreamState} {j : Fin 128} {x : Job} {o : JobOutcome}
    {c : Cause} (h : Cancelled (s.setStream i y) v j x o c) : Cancelled s v j x o c := ⟨h.atOnce, h.committed, h.lost⟩

/-- Settles O17: the cancellation path of the bound job, and admission's blindness to the stream's state. -/
theorem jobOpenOnAnOpenStream : Obligations.JobOpenOnAnOpenStream := by
  intro s u w i r j x hr hu hi hj _ hw
  have hp : PrintingOnly u w := by rw [hw]; exact (keepsPrinting_only u).cancelJob j _ _ (.refl u)
  refine ⟨?_, by rw [hw]; exact cancelled_cancelJob hj _ _, hp⟩
  rw [← setStream_eq, exec_jobOpen hr]
  have hrestart : w.jli.restart = u.jli.restart := by rw [hp.rest]
  have hheard : JustHeard w :=
    JustHeard.of_eq (hu ▸ justHeard_silenceRule s : JustHeard u) (by rw [hp.rest]) (by rw [hp.rest])
  have hsilent : (w.setStream i .idle).silenceRule = w.setStream i .idle := silenceRule_idle hheard.1 hheard.2
  have hrw : (w.setStream i .idle).jli.restart = none := by
    show w.jli.restart = none
    rw [hrestart, hu, silenceRule_restart, hr]
  have hopened : u.onJobOpen i r = w.passToAdmission i r := by
    unfold State.onJobOpen
    simp only [hi]
    rw [hw]
  have hidle : (w.setStream i .idle).onJobOpen i r = w.passToAdmission i r := by
    unfold State.onJobOpen
    simp only [State.stream_setStream, if_true]
    exact passToAdmission_setStream w i .idle r
  rw [exec_jobOpen hrw, hsilent, hidle, ← hu, hopened]

end Sys2Proof.Machine

/-! ## SHEET and DATA that end their job (R9, R14, R15) -/

namespace Sys2Proof.Machine

/-! ### The entries of one key in the alert queue (R153, R154, R157)

What printing raises besides conditions of printers is BUDGET_HOLD and SPOOL_LOW, of the lowest severity: such a raise
takes no other entry's place. -/

/-- The entries that the alert queue holds for a key. -/
def State.entriesOf (s : State) (k : AlertKey) : List AlertEntry := s.arl.queue.filter (hasKey k)

theorem filter_replaceFirst {α : Type} {f g : α → Bool} {h : α → α} (hf : ∀ x, f x = true → g x = false ∧ g (h x) = false)
    (l : List α) : (replaceFirst f h l).filter g = l.filter g := by
  induction l with
  | nil => rfl
  | cons x l ih =>
    unfold replaceFirst
    split
    · next e =>
      obtain ⟨h1, h2⟩ := hf x e
      simp [h1, h2]
    · rw [List.filter_cons, List.filter_cons, ih]

theorem filter_eraseP {α : Type} {f g : α → Bool} (hf : ∀ x, f x = true → g x = false) (l : List α) :
    (l.eraseP f).filter g = l.filter g := by
  induction l with
  | nil => rfl
  | cons x l ih =>
    rw [List.eraseP_cons]
    cases e : f x with
    | true => simp [hf x e]
    | false => rw [cond_false, List.filter_cons, List.filter_cons, ih]

/-- An entry of one key is none of another. -/
theorem hasKey_ne {k k' : AlertKey} (h : k' ≠ k) {e : AlertEntry} (he : e.key = k') : hasKey k e = false := by
  unfold hasKey
  rw [he]
  exact beq_false_of_ne h

theorem key_of_hasKey {k : AlertKey} {e : AlertEntry} (h : hasKey k e = true) : e.key = k := eq_of_beq h

theorem filter_replaceKey {k k' : AlertKey} (h : k' ≠ k) {g : AlertEntry → AlertEntry}
    (hg : ∀ x, x.key = k' → (g x).key = k') (l : List AlertEntry) :
    (replaceFirst (hasKey k') g l).filter (hasKey k) = l.filter (hasKey k) :=
  filter_replaceFirst (h := g) (fun x hx => ⟨hasKey_ne h (key_of_hasKey hx), hasKey_ne h (hg x (key_of_hasKey hx))⟩) l

theorem one_le_severity (c : AlertClass) : 1 ≤ severity c := by cases c <;> decide

theorem one_le_lowestSeverity (l : List AlertEntry) : 1 ≤ lowestSeverity 3 l := by
  obtain e | ⟨x, _, e⟩ := lowestSeverity_mem l 3
  · omega
  · rw [← e]
    exact one_le_severity _

theorem entriesOf_announce (s : State) (e : AlertEntry) (k : AlertKey) : (s.announce e).entriesOf k = s.entriesOf k := by
  unfold State.entriesOf
  rw [announce_queue]

/-- R153, R157: a raise of the lowest severity leaves the entries of every other key. -/
theorem entriesOf_raiseAt {s : State} {k k' : AlertKey} (hs : severity k'.cls = 1) (h : k' ≠ k) (c : Bool) (t : Time) :
    (s.raiseAt k' c t).entriesOf k = s.entriesOf k := by
  unfold State.raiseAt
  split
  · unfold State.addAlert
    have hk : ¬ lowestSeverity 3 s.arl.queue < severity (newAlert k' c t).key.cls := by
      have := one_le_lowestSeverity s.arl.queue
      show ¬ _ < severity k'.cls
      omega
    rw [if_neg hk]
    split
    · unfold State.createAlert
      rw [entriesOf_announce]
      show (s.arl.queue ++ [_]).filter (hasKey k) = _
      rw [List.filter_append, List.filter_singleton, hasKey_ne h (by rfl)]
      exact List.append_nil _
    · rfl
  · next e he =>
    have hek : e.key = k' := key_of_hasKey (by simpa using List.find?_some he)
    split
    · rw [entriesOf_announce]
      refine filter_replaceKey h ?_ _
      exact fun _ _ => hek
    · refine filter_replaceKey h ?_ _
      exact fun _ e => e

/-- R154: a clear leaves the entries of every other key. -/
theorem entriesOf_clear {s : State} {k k' : AlertKey} (h : k' ≠ k) : (s.clear k').entriesOf k = s.entriesOf k := by
  unfold State.clear
  split
  · rfl
  next e he =>
  split
  · have removed : ∀ t : State, t.arl.queue = s.arl.queue →
        (if e.acked then t.setAlerts (t.arl.queue.eraseP (hasKey k'))
          else t.setAlerts (replaceFirst (hasKey k') (fun x => { x with active := false }) t.arl.queue)).entriesOf k =
            s.entriesOf k := by
      intro t ht
      unfold State.entriesOf
      rw [← ht]
      split
      · exact filter_eraseP (fun x hx => hasKey_ne h (key_of_hasKey hx)) _
      · refine filter_replaceKey h ?_ _
        exact fun _ e => e
    apply removed
    split
    · exact handAlert_queue _ _ _
    · rfl
  · rfl

theorem entriesOf_hand (s : State) (f : OutFrame) (k : AlertKey) : (s.hand f).entriesOf k = s.entriesOf k := by
  rw [hand_only]; rfl

theorem damagedKey_ne_budgetKey (tag : Half) (a : Fin 512) : budgetKey a ≠ damagedKey tag := by
  intro e
  cases congrArg AlertKey.kind e

theorem damagedKey_ne_deviceKey (tag : Half) (c : AlertClass) : deviceKey c ≠ damagedKey tag := by
  intro e
  cases congrArg AlertKey.kind e

section Damaged

variable {s : State} (tag : Half)

theorem damaged_budgetTest (a : Fin 512) : (s.budgetTest a).entriesOf (damagedKey tag) = s.entriesOf (damagedKey tag) := by
  unfold State.budgetTest
  split
  · rfl
  · exact entriesOf_clear (damagedKey_ne_budgetKey tag a)

theorem damaged_applyWatermarks :
    s.applyWatermarks.entriesOf (damagedKey tag) = s.entriesOf (damagedKey tag) := by
  unfold State.applyWatermarks
  dsimp only
  split
  · exact (entriesOf_raiseAt rfl (damagedKey_ne_deviceKey tag _) _ _).trans (entriesOf_hand s _ _)
  · split
    · exact (entriesOf_clear (damagedKey_ne_deviceKey tag _)).trans (entriesOf_hand s _ _)
    · rfl

/-- An arbiter's run leaves the JOB_DAMAGED of a tag. -/
theorem keepsArbiter_damaged (l : List AlertEntry) : KeepsArbiter fun t => t.entriesOf (damagedKey tag) = l where
  raiseBudget h := (entriesOf_raiseAt rfl (damagedKey_ne_budgetKey tag _) _ _).trans h
  job _ _ _ h := h
  disp h := h
  leave h := h
  pointer h := h
  printer _ h := h
  reserved h := h

theorem released_arl (s : State) (x : Job) (o : JobOutcome) (c : Cause) : (s.released x o c).arl = s.arl := by
  show ((s.hand _).freeSheets x.sheetList).arl = s.arl
  have h : ((s.hand (.jobReport (reportOf x o c))).each x.sheetList State.freeSheetBlocks).arl = s.arl :=
    State.each_kept (P := fun t => t.arl = s.arl)
      (fun t n ht => by rw [← ht]; unfold State.freeSheetBlocks; split <;> rfl) _ (by rw [hand_only])
  exact h

/-- A job's end leaves the JOB_DAMAGED of a tag. -/
theorem damaged_endJob (j : Fin 128) (o : JobOutcome) (c : Cause) :
    (s.endJob j o c).entriesOf (damagedKey tag) = s.entriesOf (damagedKey tag) := by
  cases hx : s.job j with
  | none => rw [endJob_none hx]
  | some x =>
    have hr : (s.released x o c).entriesOf (damagedKey tag) = s.entriesOf (damagedKey tag) := by
      unfold State.entriesOf
      rw [released_arl]
    have hu := (keepsArbiter_damaged tag _).unqueued j x hr
    rw [endJob_steps hx]
    unfold State.slotFreed
    rw [damaged_applyWatermarks, damaged_budgetTest]
    exact hu

theorem arl_loseFrom (s : State) (p : Fin 32) (k : Nat) : (s.loseFrom p k).arl = s.arl := by
  unfold State.loseFrom
  dsimp only
  split
  · rfl
  split
  · rfl
  · exact State.each_kept (P := fun t => t.arl = s.arl) (f := fun t (y : WindowEntry) => t.unreserve _ y.estimate)
      (fun t e ht => ht) _ (State.modJob_arl _ _ _)

theorem arl_setNeedsDrop (s : State) (p : Fin 32) (f : Byte) : (s.setNeedsDrop p f).arl = s.arl := by
  rw [setNeedsDrop_only]

/-- The cancellation path leaves the JOB_DAMAGED of a tag. -/
theorem damaged_cancelJob (j : Fin 128) (o : JobOutcome) (c : Cause) :
    (s.cancelJob j o c).entriesOf (damagedKey tag) = s.entriesOf (damagedKey tag) := by
  have hu : (s.unbindStream j).entriesOf (damagedKey tag) = s.entriesOf (damagedKey tag) := by
    unfold State.entriesOf State.unbindStream
    rw [State.modJob_arl]
  have he := (damaged_endJob (s := s.unbindStream j) tag j o c).trans hu
  have lost : ∀ p f, (((s.unbindStream j).loseFrom p 0).setNeedsDrop p f).entriesOf (damagedKey tag) =
      s.entriesOf (damagedKey tag) := by
    intro p f
    unfold State.entriesOf at hu ⊢
    rw [arl_setNeedsDrop, arl_loseFrom, hu]
  unfold State.cancelJob
  dsimp only
  split
  · exact hu
  split
  · exact hu
  · split
    · unfold State.cancelPrinting
      split
      · exact he
      split
      · unfold State.cancelOnLost
        split
        · exact hu
        · exact (damaged_endJob tag j o c).trans (lost _ _)
      · unfold State.enterCancelling
        split
        · refine (damaged_budgetTest tag _).trans ?_
          unfold State.entriesOf at hu ⊢
          rw [arl_setNeedsDrop]
          exact hu
        · exact hu
    · exact hu
  · exact he

end Damaged

/-! ### The faults -/

/-- R9: what a SHEET's check finds. -/
theorem sheetFault_of {need : Needs} {d : SheetDecl} {cause : Cause}
    (h : (d.sides ≠ 1#8 ∧ d.sides ≠ 2#8 ∧ cause = .badSheet) ∨
      ((d.sides = 1#8 ∨ d.sides = 2#8) ∧ cause = .sheetExceeds ∧
        ((need.colour = false ∧ (d.colour1 = true ∨ (d.sides = 2#8 ∧ d.colour2 = true))) ∨
          (need.duplex = false ∧ d.sides = 2#8) ∨ need.sizeMask.getLsbD d.sizeClass.toNat = false ∨
          need.mediaMask.getLsbD d.media.toNat = false))) :
    sheetFault need d = some cause := by
  unfold sheetFault
  obtain ⟨h1, h2, rfl⟩ | ⟨hs, rfl, hx⟩ := h
  · rw [if_pos ⟨h1, h2⟩]
  · rw [if_neg (by tauto)]
    obtain ⟨hc, h1 | ⟨h2, hc2⟩⟩ | ⟨hd, h2⟩ | hz | hm := hx
    · simp [hc, h1]
    · simp [hc, h2, hc2]
    · split
      · rfl
      · simp [hd, h2]
    · split
      · rfl
      split
      · rfl
      · simp [flagged, hz]
    · split
      · rfl
      split
      · rfl
      · simp [flagged, hm]

/-- R15: what ends from its stream takes the cancellation path. -/
theorem endFromStream_eq (s : State) (i : Fin 15) (j : Fin 128) (o : JobOutcome) (c : Cause) :
    s.endFromStream i j o c = (s.setStream i .discard).cancelJob j o c := rfl

theorem takeSheet_faulty {s : State} {j : Fin 128} {x : Job} {d : SheetDecl} {cause : Cause} (h : s.job j = some x)
    (hf : sheetFault x.needs d = some cause) (i : Fin 15) :
    s.takeSheet i j d = (s.setStream i .discard).cancelJob j .error cause := by
  simp [State.takeSheet, h, hf, endFromStream_eq]

theorem damage_some {s : State} {j : Fin 128} {x : Job} (h : s.job j = some x) (i : Fin 15) (cause : Cause) :
    s.damage i j cause = ((s.raiseEvent (damagedKey x.tag)).setStream i .discard).cancelJob j .damaged cause := by
  simp [State.damage, h, endFromStream_eq]

theorem takeSheet_noDescriptor {s : State} {j : Fin 128} {x : Job} {d : SheetDecl} (h : s.job j = some x)
    (hf : sheetFault x.needs d = none) (hd : Config.sheetDescriptors ≤ s.spm.descs.length) (i : Fin 15) :
    s.takeSheet i j d = s.damage i j .noDescriptor := by
  have : s.freeDescriptors = 0 := Nat.sub_eq_zero_of_le hd
  simp [State.takeSheet, h, hf, this]

theorem takeData_tooLarge {s : State} {j : Fin 128} {x : Job} {n : Nat} {d : SheetDesc} {bytes : List Byte}
    (h : s.job j = some x) (hl : s.lastIncomplete x = some (n, d)) (hb : bytes ≠ [])
    (hs : Config.maxSheetBytes < d.byteLen + bytes.length) (i : Fin 15) :
    s.takeData i j bytes = s.damage i j .sheetTooLarge := by
  simp [State.takeData, h, hl, hb, hs]

theorem takeData_noBlock {s : State} {j : Fin 128} {x : Job} {n : Nat} {d : SheetDesc} {bytes : List Byte}
    (h : s.job j = some x) (hl : s.lastIncomplete x = some (n, d)) (hb : bytes ≠ [])
    (hs : d.byteLen + bytes.length ≤ Config.maxSheetBytes)
    (hf : s.spm.freeList.length < blocksFor (d.byteLen + bytes.length) - blocksFor d.byteLen) (i : Fin 15) :
    s.takeData i j bytes = s.damage i j .noBlock := by
  simp [State.takeData, h, hl, hb, Nat.not_lt.2 hs, State.freeBlocks_eq, hf]

theorem onSheet_opened {s : State} {i : Fin 15} {j : Fin 128} (h : s.stream i = .opened j) (d : SheetDecl) :
    s.onSheet i d = s.takeSheet i j d := by
  simp [State.onSheet, h]

theorem onData_opened {s : State} {i : Fin 15} {j : Fin 128} (h : s.stream i = .opened j) (l : List Byte) :
    s.onData i l = s.takeData i j l := by
  simp [State.onData, h]

/-- The cancellation path of a job that ends from its stream. -/
theorem cancelled_fromStream {s : State} {i : Fin 15} {j : Fin 128} {x : Job} (h : s.job j = some x) (o : JobOutcome)
    (c : Cause) : Cancelled s ((s.setStream i .discard).cancelJob j o c) j x o c :=
  .of_setStream (cancelled_cancelJob (s := s.setStream i .discard) h o c)

theorem printingOnly_fromStream (s : State) (i : Fin 15) (j : Fin 128) (o : JobOutcome) (c : Cause) :
    PrintingOnly (s.setStream i .discard) ((s.setStream i .discard).cancelJob j o c) :=
  (keepsPrinting_only _).cancelJob j _ _ (.refl _)

/-- Settles O18: the frame's fault, and then the cancellation path, which leaves the JOB_DAMAGED of the job's tag. -/
theorem faultyFramesEndTheJob : Obligations.FaultyFramesEndTheJob := by
  intro s u i j x hr hu hi hj _
  subst hu
  refine ⟨fun d cause hd => ?_, fun c cause w hc hw => ?_⟩
  · refine ⟨_, _, exec_sheet hr i d, linesOnly_serviceLines _, ?_, ?_⟩ <;>
      rw [onSheet_opened hi, takeSheet_faulty hj (sheetFault_of hd)]
    · exact cancelled_fromStream hj _ _
    · exact printingOnly_fromStream _ _ _ _ _
  · have hwj : w.job j = some x := by rw [hw, job_raiseAt]; exact hj
    have hdamage : s.silenceRule.damage i j cause = (w.setStream i .discard).cancelJob j .damaged cause := by
      rw [damage_some hj, hw]
      rfl
    have hfacts : Cancelled w (s.silenceRule.damage i j cause) j x .damaged cause ∧
        PrintingOnly { w with spm := { w.spm with streams := put w.spm.streams i .discard } }
          (s.silenceRule.damage i j cause) ∧
        (s.silenceRule.damage i j cause).arl.queue.filter (hasKey (damagedKey x.tag)) =
          w.arl.queue.filter (hasKey (damagedKey x.tag)) ∧
        w.jli.tx <+: (s.silenceRule.damage i j cause).jli.tx := by
      rw [hdamage]
      exact ⟨cancelled_fromStream hwj _ _, printingOnly_fromStream _ _ _ _ _,
        damaged_cancelJob (s := w.setStream i .discard) x.tag j _ _,
        ((keepsPrinting_linkGrows (w.setStream i .discard)).cancelJob j _ _ (.refl _)).tx⟩
    obtain ⟨d, rfl, hf, hd, rfl⟩ | ⟨bytes, n, d, rfl, hwf, hb, hl, hx⟩ := hc
    · refine ⟨_, _, exec_sheet hr i d, linesOnly_serviceLines _, ?_⟩
      rw [onSheet_opened hi, takeSheet_noDescriptor hj hf hd]
      exact hfacts
    · refine ⟨_, _, exec_data hr i hwf, linesOnly_serviceLines _, ?_⟩
      have hdata : s.silenceRule.takeData i j bytes = s.silenceRule.damage i j cause := by
        obtain ⟨hs, rfl⟩ | ⟨hs, rfl, hn⟩ := hx
        · exact takeData_tooLarge hj hl hb hs i
        · exact takeData_noBlock hj hl hb hs hn i
      rw [onData_opened hi, hdata]
      exact hfacts

end Sys2Proof.Machine

/-! ## SHEET, DATA and JOB-CLOSE that are taken (R6, R7, R10 to R12, R18) -/

namespace Sys2Proof.Machine

/-! ### The descriptor a SHEET takes (R6) -/

/-- R6: the number that a SHEET takes is free, and no lower one is. -/
theorem lowestFree_eq {l : List (Nat × SheetDesc)} (hs : Sorted l) {n : Nat} (hn : n ∉ l.map Prod.fst)
    (hlow : ∀ k, k < n → k ∈ l.map Prod.fst) : lowestFree 0 l = n := by
  obtain ⟨hfree, _, hused, _⟩ := lowestFree_spec hs (low := 0) fun _ _ => Nat.zero_le _
  obtain h | h | h := Nat.lt_trichotomy (lowestFree 0 l) n
  · exact absurd (hlow _ h) hfree
  · exact h
  · exact absurd (hused n (Nat.zero_le n) h) hn

/-- R6: with a free number in the range, not all descriptors are in use. -/
theorem freeDescriptors_pos {s : State} (h : SpoolOk s) {n : Nat} (hr : n < Config.sheetDescriptors)
    (hn : n ∉ s.spm.descs.map Prod.fst) : s.freeDescriptors ≠ 0 := by
  have hnodup : (n :: s.spm.descs.map Prod.fst).Nodup := List.nodup_cons.2 ⟨hn, Sorted.nodup h.sorted⟩
  have hsub : n :: s.spm.descs.map Prod.fst ⊆ List.range Config.sheetDescriptors := by
    intro k hk
    rw [List.mem_range]
    obtain rfl | hk := List.mem_cons.1 hk
    · exact hr
    · obtain ⟨y, hy, rfl⟩ := List.mem_map.1 hk
      exact h.range y hy
  have hlen := (hnodup.subperm hsub).length_le
  rw [List.length_range, List.length_cons, List.length_map] at hlen
  unfold State.freeDescriptors
  omega

/-! ### The sheet before it (R10, R18) -/

/-- R10, R12: the state with a job's incomplete last sheet completed. -/
theorem completeLast_some {s : State} {j : Fin 128} {x : Job} {m : Nat} {z : SheetDesc} (h : s.job j = some x)
    (hl : s.lastIncomplete x = some (m, z)) :
    s.completeLast j = (s.setDescs (putDesc s.spm.descs m { z with complete := true })).setJob j
      (some { x with sheets := x.sheets + 1 }) := by
  simp [State.completeLast, h, hl]

theorem completeLast_none {s : State} {j : Fin 128} {x : Job} (h : s.job j = some x) (hl : s.lastIncomplete x = none) :
    s.completeLast j = s := by
  simp [State.completeLast, h, hl]

/-- An arbiter's run sets no job SPOOLING. -/
def NotSpooling (j : Fin 128) (t : State) : Prop := ∃ x, t.job j = some x ∧ x.phase ≠ .spooling

theorem keepsArbiter_notSpooling (j : Fin 128) : KeepsArbiter (NotSpooling j) where
  raiseBudget {s a} h := by
    obtain ⟨x, hx, hp⟩ := h
    exact ⟨x, (job_raiseAt _ _ _ _ _).trans hx, hp⟩
  job {s i old x} e _ hp h := by
    obtain ⟨y, hy, hph⟩ := h
    by_cases hij : j = i
    · subst hij
      cases hy.symm.trans e
      refine ⟨x, by rw [State.job_setJob, if_pos rfl], ?_⟩
      obtain e | e | e := hp
      · rw [e]; exact hph
      · rw [e]; nofun
      · rw [e]; nofun
    · exact ⟨y, by rw [State.job_setJob, if_neg hij]; exact hy, hph⟩
  disp h := h
  leave h := h
  pointer h := h
  printer _ h := h
  reserved h := h

theorem enqueue_some {s : State} {j : Fin 128} {x : Job} (h : s.job j = some x) :
    s.enqueue j = (s.setJob j (some { x with phase := .queued })).setQueue x.pool
      (insertJob s.job j x (s.pool x.pool).queue) := by
  simp [State.enqueue, h]

/-- R45: a job that has entered its pool's queue is SPOOLING no longer. -/
theorem notSpooling_requeue {s : State} {j : Fin 128} {x : Job} (h : s.job j = some x) : NotSpooling j (s.requeue j) := by
  have he : NotSpooling j (s.enqueue j) := by
    rw [enqueue_some h]
    exact ⟨{ x with phase := .queued }, by rw [State.job_setQueue, State.job_setJob, if_pos rfl], by nofun⟩
  unfold State.requeue
  simp only [h]
  exact (keepsArbiter_notSpooling j).runArbiter _ he

/-- R18: a job that has become eligible and holds a reason is HELD. -/
theorem makeEligible_held {s : State} {j : Fin 128} {x : Job} (h : s.job j = some x) (hh : noHolds x.holds = false) :
    s.makeEligible j = s.setJob j (some { x with phase := .held }) := by
  simp [State.makeEligible, h, hh]

theorem makeEligible_queued {s : State} {j : Fin 128} {x : Job} (h : s.job j = some x) (hh : noHolds x.holds = true) :
    s.makeEligible j = s.requeue j := by
  simp [State.makeEligible, h, hh]

/-- R18: at a sheet that completes at a SHEET, a job that waits stays as it is while its start threshold is not met. -/
theorem sheetCompleted_waiting {s : State} {j : Fin 128} {x : Job} (h : s.job j = some x)
    (hp : x.phase = .queued ∨ x.phase = .held ∨
      (x.phase = .spooling ∧ (x.startThreshold = 0 ∨ x.sheets ≠ x.startThreshold))) : s.sheetCompleted j = s := by
  unfold State.sheetCompleted
  simp only [h]
  obtain e | e | ⟨e, ht⟩ := hp
  · simp [e]
  · simp [e]
  · simp only [e]
    rw [if_neg]
    omega

theorem sheetCompleted_eligible {s : State} {j : Fin 128} {x : Job} (h : s.job j = some x) (hp : x.phase = .spooling)
    (h0 : 0 < x.startThreshold) (ht : x.sheets = x.startThreshold) : s.sheetCompleted j = s.makeEligible j := by
  simp [State.sheetCompleted, h, hp, ht, h0]

/-! ### SHEET -/

theorem takeSheet_taken {s : State} {j : Fin 128} {x : Job} {d : SheetDecl} (h : s.job j = some x)
    (hf : sheetFault x.needs d = none) (hd : s.freeDescriptors ≠ 0) (i : Fin 15) :
    s.takeSheet i j d = (s.completePrevious j x).takeDescriptor j d := by
  simp [State.takeSheet, h, hf, hd]

/-- R6: the descriptor a SHEET takes, once its number is known. -/
theorem takeDescriptor_at {s : State} {j : Fin 128} {x : Job} {n : Nat} (h : s.job j = some x)
    (hn : lowestFree 0 s.spm.descs = n) (d : SheetDecl) :
    s.takeDescriptor j d = { s with spm := { s.spm with
      descs := putDesc s.spm.descs n (descOf d)
      jobs := put s.spm.jobs j (some { x with sheetList := x.sheetList ++ [n] }) } } := by
  rw [takeDescriptor_some h, hn]
  rfl

/-- Settles O19: the lowest free number, before and after the completion of the sheet before it, which alters no number. -/
theorem sheetIsTaken : Obligations.SheetIsTaken := by
  intro s u i j x d n y hr hu hi hj hs hf hn hfree hused hy
  have hyd : y = descOf d := hy
  have hkey : n ∉ u.spm.descs.map Prod.fst := findDesc_none_iff.1 hfree
  have hlow : ∀ k, k < n → k ∈ u.spm.descs.map Prod.fst := fun k hk =>
    findDesc_isSome_iff.1 (Option.isSome_iff_ne_none.2 (hused k hk))
  have htake : u.onSheet i d = (u.completePrevious j x).takeDescriptor j d := by
    rw [onSheet_opened hi, takeSheet_taken hj hf (freeDescriptors_pos hs hn hkey)]
  have hexec := exec_sheet hr i d
  rw [← hu, htake] at hexec
  rw [hyd]
  refine ⟨fun hl => ⟨_, hexec, ?_⟩, fun m z w hl hw => ?_⟩
  · have hprev : u.completePrevious j x = u := by simp [State.completePrevious, hl]
    rw [hprev, takeDescriptor_at hj (lowestFree_eq hs.sorted hkey hlow)]
    exact linesOnly_serviceLines _
  · have hwc : u.completeLast j = w := (completeLast_some hj hl).trans hw.symm
    have hwj : w.job j = some { x with sheets := x.sheets + 1 } := by
      rw [hw]; exact put_get_same _ _ _
    have hprev : u.completePrevious j x = w.sheetCompleted j := by
      unfold State.completePrevious
      rw [if_pos (by rw [hl]; rfl), hwc]
    have honly : DispatchOnly w (w.sheetCompleted j) := (keepsDispatch_only w).sheetCompleted j (.refl w)
    obtain ⟨x', hx', _⟩ := honly.live j _ hwj
    have hdescs : (w.sheetCompleted j).spm.descs = w.spm.descs := by rw [honly.rest]
    have hkeys : w.spm.descs.map Prod.fst = u.spm.descs.map Prod.fst := by
      rw [hw]; exact putDesc_keys _ hs.sorted (lastIncomplete_found hl).1
    have hsorted : Sorted w.spm.descs := by rw [hw]; exact putDesc_sorted _ _ hs.sorted
    have hnum : lowestFree 0 (w.sheetCompleted j).spm.descs = n := by
      rw [hdescs]
      exact lowestFree_eq hsorted (by rw [hkeys]; exact hkey) (by rw [hkeys]; exact hlow)
    rw [hprev] at hexec
    refine ⟨w.sheetCompleted j, x', _, hexec, honly, hx', ?_, fun hp => sheetCompleted_waiting hwj ?_, fun hp h0 ht => ?_⟩
    · rw [takeDescriptor_at hx' hnum]
      exact linesOnly_serviceLines _
    · exact hp
    · rw [sheetCompleted_eligible hwj hp h0 ht] at hx'
      refine ⟨fun hh => ?_, fun hh => ?_⟩
      · rw [makeEligible_held hwj hh, State.job_setJob, if_pos rfl] at hx'
        exact (Option.some.inj hx').symm
      · rw [makeEligible_queued hwj hh] at hx'
        obtain ⟨y', hy', hph⟩ := notSpooling_requeue hwj
        cases hx'.symm.trans hy'
        exact hph

end Sys2Proof.Machine

/-! ### DATA -/

namespace Sys2Proof.Machine

/-- R7: the places of an image of different blocks have different addresses. -/
theorem imageAddress_inj {blocks : List (Fin 32768)} (hb : blocks.Nodup) {m n a : Nat} (hm : imageAddress blocks m = some a)
    (hn : imageAddress blocks n = some a) : m = n := by
  unfold imageAddress Config.blockBytes at hm hn
  split at hm
  · next b eb =>
    split at hn
    · next c ec =>
      simp only [Option.some.injEq] at hm hn
      have hbc : b = c := Fin.ext (by omega)
      have hlt : m / 4096 < blocks.length := (List.getElem?_eq_some_iff.1 eb).1
      have hdiv : m / 4096 = n / 4096 := (List.getElem?_inj hlt hb).1 (by rw [eb, ec, hbc])
      omega
    · cases hn
  · cases hm

theorem imageAddress_isSome (blocks : List (Fin 32768)) (pos : Nat) :
    (∃ a, imageAddress blocks pos = some a) ↔ pos / 4096 < blocks.length := by
  unfold imageAddress Config.blockBytes
  split
  · next b e => exact ⟨fun _ => (List.getElem?_eq_some_iff.1 e).1, fun _ => ⟨_, rfl⟩⟩
  · next e =>
    have := List.getElem?_eq_none_iff.1 e
    refine ⟨fun h => ?_, fun h => absurd h (by omega)⟩
    obtain ⟨a, h⟩ := h
    cases h

/-- R11: a byte written to an image reads back at the address of its place. -/
theorem read_writeImage_at {blocks : List (Fin 32768)} (hb : blocks.Nodup) : ∀ (bytes : List Byte) (pos : Nat)
    (m : List Host.Cell) (k a : Nat) (b : Byte), Memory.wf m = true → imageAddress blocks (pos + k) = some a →
      bytes[k]? = some b → Memory.read (writeImage blocks pos bytes m) a = b
  | [], _, _, _, _, _, _, _, hk => nomatch hk
  | v :: bytes, pos, m, k, a, b, w, ha, hk => by
    have hlt := (imageAddress_isSome blocks _).1 ⟨a, ha⟩
    obtain ⟨c, hc⟩ := (imageAddress_isSome blocks pos).2 (by omega)
    have hw := wf_write (imageAddress_lt hc) (v := v) w
    have e : writeImage blocks pos (v :: bytes) m = writeImage blocks (pos + 1) bytes (Memory.write m c v) := by
      rw [writeImage, hc]
    rw [e]
    cases k with
    | zero =>
      cases hc.symm.trans ha
      cases hk
      rw [read_writeImage blocks bytes (pos + 1) _ a hw, read_write w, if_pos rfl]
      intro i _ hi
      have := imageAddress_inj hb hc hi
      omega
    | succ k =>
      exact read_writeImage_at hb bytes (pos + 1) _ k a b hw (by rw [Nat.add_assoc, Nat.add_comm 1 k]; exact ha) hk

/-- R7: a sheet's blocks are different ones. -/
theorem SpoolOk.nodup_blocks {s : State} (h : SpoolOk s) {n : Nat} {d : SheetDesc} (e : findDesc s.spm.descs n = some d) :
    d.blocks.Nodup := by
  have hall : (s.spm.freeList ++ blocksInUse s.spm.descs).Nodup := h.blocks.nodup_iff.2 (List.nodup_finRange _)
  have huse : (blocksInUse s.spm.descs).Nodup := (List.nodup_append.1 hall).2.1
  have hperm := (blocks_putDesc (emptied d) h.sorted e).nodup_iff.2 (by
    rw [show (emptied d).blocks = [] by rfl, List.append_nil]
    exact huse)
  exact (List.nodup_append.1 hperm).2.1

theorem blocksFor_eq (n : Nat) : blocksFor n = (n + 4095) / 4096 := rfl

/-- R11: the state with a frame's payload stored. -/
theorem storeData_eq (s : State) (n : Nat) (d : SheetDesc) (bytes : List Byte) {need : Nat}
    (h : need = (d.byteLen + bytes.length + 4095) / 4096 - (d.byteLen + 4095) / 4096) :
    s.storeData n d bytes = { s with spm := { s.spm with
      freeList := s.spm.freeList.drop need
      descs := putDesc s.spm.descs n
        { d with byteLen := d.byteLen + bytes.length, blocks := d.blocks ++ s.spm.freeList.take need }
      dram := writeImage (d.blocks ++ s.spm.freeList.take need) d.byteLen bytes s.spm.dram } } := by
  subst h
  rfl

theorem takeData_stray {s : State} {j : Fin 128} {x : Job} (h : s.job j = some x) (hl : s.lastIncomplete x = none)
    (i : Fin 15) (bytes : List Byte) : s.takeData i j bytes = s.countStray := by
  simp [State.takeData, h, hl]

theorem takeData_empty {s : State} {j : Fin 128} {x : Job} {n : Nat} {d : SheetDesc} (h : s.job j = some x)
    (hl : s.lastIncomplete x = some (n, d)) (i : Fin 15) : s.takeData i j [] = s := by
  simp [State.takeData, h, hl]

theorem takeData_stored {s : State} {j : Fin 128} {x : Job} {n : Nat} {d : SheetDesc} {bytes : List Byte}
    (h : s.job j = some x) (hl : s.lastIncomplete x = some (n, d)) (hb : bytes ≠ [])
    (hs : d.byteLen + bytes.length ≤ Config.maxSheetBytes)
    (hf : blocksFor (d.byteLen + bytes.length) - blocksFor d.byteLen ≤ s.spm.freeList.length) (i : Fin 15) :
    s.takeData i j bytes = (s.storeData n d bytes).applyWatermarks := by
  simp [State.takeData, h, hl, hb, Nat.not_lt.2 hs, State.freeBlocks_eq, Nat.not_lt.2 hf]

/-- Settles O20: the blocks of a sheet are different ones, so that each byte stays where it was written. -/
theorem dataIsStored : Obligations.DataIsStored := by
  intro s u i j x bytes hr hu hi hj hwf
  have hexec := exec_data hr i hwf
  rw [← hu, onData_opened hi] at hexec
  refine ⟨fun hl => ⟨_, hexec, ?_⟩, fun n d hl => ⟨fun hb => ⟨_, hexec, ?_⟩, ?_⟩⟩
  · rw [takeData_stray hj hl]
    exact linesOnly_serviceLines _
  · rw [hb, takeData_empty hj hl]
    exact linesOnly_serviceLines _
  · intro hs hm hb hlen need blocks hneed hfree hblocks
    have hstored := storeData_eq u n d bytes hneed
    rw [← hblocks] at hstored
    have hdram : (u.storeData n d bytes).spm.dram = writeImage blocks d.byteLen bytes u.spm.dram := by rw [hstored]
    have hnodup : blocks.Nodup := by
      have hfound : findDesc (u.storeData n d bytes).spm.descs n =
          some { d with byteLen := d.byteLen + bytes.length, blocks := blocks } := by
        rw [hstored, findDesc_putDesc hs.sorted, if_pos rfl]
      exact (spoolOk_storeData hs (lastIncomplete_found hl).1 bytes).nodup_blocks hfound
    rw [takeData_stored hj hl hb hlen (by rw [blocksFor_eq, blocksFor_eq, ← hneed]; exact hfree)] at hexec
    refine ⟨u.storeData n d bytes, _, hexec, linesOnly_serviceLines _, by rw [hstored], ?_, ?_, ?_⟩
    · intro k a b ha hk
      rw [hdram]
      exact read_writeImage_at hnodup bytes d.byteLen _ k a b hm ha hk
    · intro a ha
      rw [hdram]
      exact read_writeImage blocks bytes d.byteLen _ a hm ha
    · intro hfit k hk
      refine (imageAddress_isSome blocks _).2 ?_
      rw [hblocks, List.length_append, List.length_take, hfit, Nat.min_eq_left hfree]
      omega

end Sys2Proof.Machine

/-! ### JOB-CLOSE -/

namespace Sys2Proof.Machine

/-- The record of a job whose last sheet is complete. -/
def completed (s : State) (x : Job) : Job := { x with sheets := if (s.lastIncomplete x).isSome then x.sheets + 1 else x.sheets }

/-- R12: the descriptors with a job's last sheet complete. -/
def State.completedDescs (s : State) (x : Job) : List (Nat × SheetDesc) :=
  match s.lastIncomplete x with
  | some (n, d) => putDesc s.spm.descs n { d with complete := true }
  | none => s.spm.descs

/-- R10, R12: the state with a job's last sheet complete, in one form for both cases. -/
theorem completeLast_eq {s : State} {j : Fin 128} {x : Job} (h : s.job j = some x) :
    s.completeLast j = (s.setDescs (s.completedDescs x)).setJob j (some (completed s x)) := by
  cases hl : s.lastIncomplete x with
  | some nd =>
    rw [completeLast_some h (m := nd.1) (z := nd.2) hl]
    simp [State.completedDescs, completed, hl]
  | none =>
    have hput : s.setJob j (some x) = s := by
      have e : put s.spm.jobs j (some x) = s.spm.jobs := by
        rw [← h]
        exact Vector.set_getElem_self j.isLt
      unfold State.setJob
      rw [e]
    rw [completeLast_none h hl]
    simp only [State.completedDescs, completed, hl]
    exact hput.symm

/-- R12, step 2: the stream is IDLE and the job no longer bound to it. -/
def State.inputClosed (s : State) (i : Fin 15) (j : Fin 128) : State := (s.unbindStream j).setStream i .idle

theorem closeJob_eq (s : State) (i : Fin 15) (j : Fin 128) :
    s.closeJob i j = ((s.completeAtClose j).inputClosed i j).afterClose j := rfl

theorem inputClosed_some {s : State} {j : Fin 128} {x : Job} (h : s.job j = some x) (i : Fin 15) :
    s.inputClosed i j = (s.setJob j (some (unbound x))).setStream i .idle := by
  unfold State.inputClosed
  rw [unbindStream_some h]

/-- What only dispatch has changed, only dispatch has changed with the input closed. -/
theorem DispatchOnly.inputClosed {s t : State} {j : Fin 128} {x y : Job} (h : DispatchOnly s t) (hs : s.job j = some x)
    (ht : t.job j = some y) (i : Fin 15) : DispatchOnly (s.inputClosed i j) (t.inputClosed i j) := by
  have hd : JobDispatched (unbound x) (unbound y) := by
    obtain ⟨z, hz, hd⟩ := h.live j x hs
    cases ht.symm.trans hz
    unfold JobDispatched at hd ⊢
    rw [hd]
    rfl
  rw [inputClosed_some hs, inputClosed_some ht]
  refine ⟨?_, fun k hk => ?_, fun k z hk => ?_, h.pools, h.printers, h.accounts⟩
  · conv_lhs => rw [h.rest]
    rfl
  · rw [State.job_setStream, State.job_setJob] at hk ⊢
    split
    · next e => rw [if_pos e] at hk; cases hk
    · next e => rw [if_neg e] at hk; exact h.free k hk
  · rw [State.job_setStream, State.job_setJob] at hk
    rw [State.job_setStream, State.job_setJob]
    split
    · next e => rw [if_pos e] at hk; cases hk; exact ⟨_, rfl, hd⟩
    · next e => rw [if_neg e] at hk; exact h.live k z hk

/-- R12, step 4: after the close of a job with sheets, dispatch alone acts. -/
theorem KeepsDispatch.afterClose {P : State → Prop} (K : KeepsDispatch P) {s : State} {j : Fin 128} {x : Job}
    (hx : s.job j = some x) (hs : x.sheets ≠ 0) (h : P s) : P (s.afterClose j) := by
  unfold State.afterClose
  simp only [hx, if_neg hs]
  split
  · unfold State.makeEligible
    simp only [hx]
    split
    · exact K.requeue j h
    · exact K.job hx ⟨rfl, fun o => ⟨o.1, o.2, o.3, o.4⟩⟩ h
  · exact K.tryReleases j h
  · exact h

theorem afterClose_empty {s : State} {j : Fin 128} {x : Job} (h : s.job j = some x) (hs : x.sheets = 0) :
    s.afterClose j = s.endJob j .completed .none := by
  simp [State.afterClose, h, hs]

theorem afterClose_waiting {s : State} {j : Fin 128} {x : Job} (h : s.job j = some x) (hs : x.sheets ≠ 0)
    (hp : x.phase = .queued ∨ x.phase = .held) : s.afterClose j = s := by
  obtain e | e := hp <;> simp [State.afterClose, h, hs, e]

theorem afterClose_spooling {s : State} {j : Fin 128} {x : Job} (h : s.job j = some x) (hs : x.sheets ≠ 0)
    (hp : x.phase = .spooling) : s.afterClose j = s.makeEligible j := by
  simp [State.afterClose, h, hs, hp]

/-- R56: a job with no sheets has no next position. -/
theorem nextPosition_empty {x : Job} (h : x.sheets = 0) : nextPosition x = none := by
  simp [nextPosition, h]

/-- R57: where a job has no next position, no release is made. -/
theorem releaseLoop_empty {s : State} {j : Fin 128} {x : Job} (h : s.job j = some x) (hs : x.sheets = 0) (fuel : Nat) :
    State.releaseLoop fuel j s = s := by
  have hn : s.nextEstimate x = none := by simp [State.nextEstimate, nextPosition_empty hs]
  cases fuel with
  | zero => rfl
  | succ fuel =>
    unfold State.releaseLoop
    simp only [h]
    split
    · rfl
    · simp [hn]

/-- R57: and where its printer is its own, nothing else happens either. -/
theorem tryReleases_empty {s : State} {j : Fin 128} {x : Job} (h : s.job j = some x) (hs : x.sheets = 0)
    (hp : ∀ p, x.printer = some p → (s.disp p).assigned = some j) : s.tryReleases j = s := by
  unfold State.tryReleases
  simp only [h]
  split
  · next p e => rw [releaseLoop_empty h hs, if_pos (hp p e)]
  · rfl

theorem completeAtClose_some {s : State} {j : Fin 128} {x : Job} (h : (s.completeLast j).job j = some x) :
    s.completeAtClose j = if x.phase = .printing then (s.completeLast j).tryReleases j else s.completeLast j := by
  simp [State.completeAtClose, h]

theorem onJobClose_opened {s : State} {i : Fin 15} {j : Fin 128} (h : s.stream i = .opened j) :
    s.onJobClose i = s.closeJob i j := by
  simp [State.onJobClose, h]

/-- Settles O21: the last sheet complete, the input closed, and then the empty job's end or dispatch. -/
theorem jobCloseEndsTheInput : Obligations.JobCloseEndsTheInput := by
  intro s u w i j x y hr hu hi hj hs hy hw
  have hexec := exec_jobClose hr i
  rw [← hu, onJobClose_opened hi, closeJob_eq] at hexec
  have hc : (u.completeLast j).job j = some (completed u x) := by
    rw [completeLast_eq hj, State.job_setJob, if_pos rfl]
  have hyc : y = unbound (completed u x) := hy
  have hwc : (u.completeLast j).inputClosed i j = w := by
    rw [inputClosed_some hc, completeLast_eq hj, State.setJob_setJob, hw, hyc]
    rfl
  have hwj : w.job j = some y := by rw [hw]; exact put_get_same _ _ _
  have hjli : w.jli = u.jli := by rw [hw]
  have hat := completeAtClose_some hc
  have hidle : x.phase ≠ .printing → (u.completeAtClose j).inputClosed i j = w := by
    intro hp
    rw [hat, if_neg (show (completed u x).phase ≠ .printing from hp), hwc]
  refine ⟨fun h0 hp => ?_, fun h0 => ?_⟩
  · have hstay : u.completeAtClose j = u.completeLast j := by
      rw [hat]
      split
      · refine tryReleases_empty hc (by rw [hyc] at h0; exact h0) (fun p e => ?_)
        rw [completeLast_only]
        exact hp p e
      · rfl
    rw [hstay, hwc, afterClose_empty hwj h0] at hexec
    exact ⟨_, _, hexec, linesOnly_serviceLines _, endJob_job hwj _ _, (endJob_handedFirst hwj _ _).of_jli hjli,
      (keepsPrinting_only w).endJob (.refl w)⟩
  · have hclose : DispatchOnly (u.completeLast j) (u.completeAtClose j) := by
      rw [hat]
      split
      · exact (keepsDispatch_only _).tryReleases j (.refl _)
      · exact .refl _
    obtain ⟨z, hz, hd⟩ := hclose.live j _ hc
    have hsheets : z.sheets ≠ 0 := by
      unfold JobDispatched at hd
      rw [hd]
      rw [hyc] at h0
      exact h0
    have hopen : DispatchOnly w ((u.completeAtClose j).inputClosed i j) := hwc ▸ hclose.inputClosed hc hz i
    have hzj : ((u.completeAtClose j).inputClosed i j).job j = some (unbound z) := by
      rw [inputClosed_some hz, State.job_setStream, State.job_setJob, if_pos rfl]
    have honly := (keepsDispatch_only w).afterClose hzj hsheets hopen
    obtain ⟨y', hy', _⟩ := honly.live j y hwj
    have hphase : y.phase = x.phase := by rw [hy]
    have hholds : y.holds = x.holds := by rw [hy]
    refine ⟨_, y', _, hexec, linesOnly_serviceLines _, honly, hy', fun hp => ?_, fun hp hh => ?_, fun hp hh => ?_⟩
    · rw [hidle (by obtain e | e := hp <;> rw [e] <;> nofun)]
      exact afterClose_waiting hwj h0 (by rw [hphase]; exact hp)
    · rw [hidle (by rw [hp]; nofun), afterClose_spooling hwj h0 (hphase.trans hp), makeEligible_held hwj (by rw [hholds]; exact hh)]
      rfl
    · rw [hidle (by rw [hp]; nofun), afterClose_spooling hwj h0 (hphase.trans hp),
        makeEligible_queued hwj (by rw [hholds]; exact hh)] at hy'
      obtain ⟨z', hz', hph⟩ := notSpooling_requeue hwj
      cases hy'.symm.trans hz'
      exact hph

end Sys2Proof.Machine

/-! ## The resets (R25, R72, R73, R90, R152, R160 to R163, R167, R172, R173) -/

namespace Sys2Proof.Machine

/-! ### A reset that keeps the tables -/

/-- R72, R73, R80: an enabled port waits for its line to be idle, and a LINE-RESET is to be sent. -/
theorem keepPort_enabled {x : Port} (h : x.config.enabled = true) :
    keepPort x = { Port.initial x.config with
      exchange := some lineResetExchange
      line := .recovering
      recoverExpiry := some (after 0#32 Config.recoveryLimit) } := by
  unfold keepPort
  rw [if_pos h]
  rfl

theorem keepPort_disabled {x : Port} (h : x.config.enabled = false) : keepPort x = Port.initial x.config := by
  simp [keepPort, h]

theorem line_keepPort (x : Port) : (keepPort x).line = if x.config.enabled then .recovering else .disabled := by
  cases h : x.config.enabled with
  | true => rw [keepPort_enabled h]; rfl
  | false => rw [keepPort_disabled h]; rfl

theorem port_resetKeeping (s : State) (c : ResetCause) (q : Fin 8) : (s.resetKeeping c).port q = keepPort (s.port q) :=
  get_map _ _ _

theorem printer_resetKeeping (s : State) (c : ResetCause) (p : Fin 32) :
    (s.resetKeeping c).printer p = Printer.initial (s.printer p).config := get_map _ _ _

theorem pool_resetKeeping (s : State) (c : ResetCause) (k : Fin 16) : (s.resetKeeping c).pool k = keepPool (s.pool k) :=
  get_map _ _ _

theorem disp_resetKeeping (s : State) (c : ResetCause) (p : Fin 32) : (s.resetKeeping c).disp p = Dispatch.initial :=
  get_replicate _ _

theorem account_resetKeeping (s : State) (c : ResetCause) (a : Fin 512) :
    (s.resetKeeping c).account a = keepAccount (s.account a) := get_map _ _ _

theorem sense_resetKeeping (s : State) (c : ResetCause) (p : Fin 32) :
    (s.resetKeeping c).sense p = Sense.initial (s.sense p).mode := get_map _ _ _

/-- What a reset that keeps the tables sets. -/
theorem setByReset_resetKeeping (s : State) (c : ResetCause) : SetByReset s (s.resetKeeping c) c where
  frames := rfl
  linkErrors := rfl
  strayFrames := rfl
  restart := rfl
  cause := rfl
  attended := rfl
  timer := by
    show silenceStart 0#32 s.mgu.timeout = _
    unfold silenceStart after
    rw [BitVec.zero_add]
    rfl
  now := rfl
  arrival := rfl
  jobs _ := get_replicate _ _
  streams _ := get_replicate _ _
  descs := rfl
  freeDescriptors := rfl
  freeList := initial_freeList _
  freeBlocks := by
    rw [State.freeBlocks_eq]
    exact (congrArg List.length (initial_freeList s.spm.dram)).trans List.length_finRange
  paused := rfl
  dram := rfl
  pointers k := by rw [pool_resetKeeping]; exact ⟨rfl, rfl⟩
  dispatch p := by rw [disp_resetKeeping]; exact ⟨rfl, rfl, rfl, rfl⟩
  bound _ := get_replicate _ _
  alerts := rfl
  dropped := rfl
  overrides _ := get_replicate _ _
  sense p := by rw [sense_resetKeeping]; exact ⟨rfl, rfl, rfl, rfl⟩
  printers p := by rw [printer_resetKeeping]; exact ⟨rfl, rfl, rfl, rfl, rfl, rfl, rfl, rfl, rfl, rfl, rfl⟩
  ports q := by
    rw [port_resetKeeping]
    cases h : (s.port q).config.enabled with
    | true =>
      rw [keepPort_enabled h]
      exact ⟨rfl, rfl, rfl, rfl, rfl, rfl, rfl, rfl, rfl, rfl, (if_pos h).symm⟩
    | false =>
      rw [keepPort_disabled h]
      exact ⟨rfl, rfl, rfl, rfl, rfl, rfl, rfl, rfl, rfl, rfl, (if_neg (Bool.eq_false_iff.1 h)).symm⟩

/-- What a reset that keeps the tables keeps. -/
theorem keptByReset_resetKeeping (s : State) (c : ResetCause) : KeptByReset s (s.resetKeeping c) where
  routes _ := rfl
  pools k := by rw [pool_resetKeeping]; exact ⟨rfl, rfl⟩
  ports q := by rw [port_resetKeeping, (portOk_keepPort _).1]
  printers p := by rw [printer_resetKeeping]; rfl
  banks := rfl
  current := rfl
  accounts a := by rw [account_resetKeeping]; rfl
  meters := rfl
  mask := rfl
  printerBeacon := rfl
  portBeacon := rfl
  officeBeacon := rfl
  modes p := by rw [sense_resetKeeping]; rfl
  timeout := rfl
  action := rfl

/-- What a reset sets does not rest on the state before it, but for the spool DRAM. -/
theorem SetByReset.of_dram {s u t : State} {c : ResetCause} (h : SetByReset u t c) (e : u.spm.dram = s.spm.dram) :
    SetByReset s t c := { h with dram := h.dram.trans e }

/-- What dispatch may change, no table holds. -/
theorem KeptByReset.of_dispatchOnly {s u t : State} (h : KeptByReset u t) (k : DispatchOnly s u) : KeptByReset s t where
  routes r := (h.routes r).trans (by unfold State.route; rw [k.rest])
  pools i := by
    rw [(h.pools i).1, (h.pools i).2, k.pools i]
    exact ⟨rfl, rfl⟩
  ports q := (h.ports q).trans (by unfold State.port; rw [k.rest])
  printers p := (h.printers p).trans (k.printers p)
  banks := h.banks.trans (by rw [k.rest])
  current := h.current.trans (by rw [k.rest])
  accounts a := by rw [h.accounts, k.accounts]
  meters := h.meters.trans (by rw [k.rest])
  mask := h.mask.trans (by rw [k.rest])
  printerBeacon := h.printerBeacon.trans (by rw [k.rest])
  portBeacon := h.portBeacon.trans (by rw [k.rest])
  officeBeacon := h.officeBeacon.trans (by rw [k.rest])
  modes p := (h.modes p).trans (by unfold State.sense; rw [k.rest])
  timeout := h.timeout.trans (by rw [k.rest])
  action := h.action.trans (by rw [k.rest])

/-- R176: the silence rule changes what dispatch may, once the part is ATTENDED. -/
theorem silenceRule_only (s : State) : DispatchOnly s.heard s.silenceRule :=
  silenceRule_kept (keepsDispatch_only s.heard) (.refl _)

theorem KeptByReset.of_heard {s t : State} (h : KeptByReset s.heard t) : KeptByReset s t := { h with }

/-! ### Power-on -/

/-- A machine right after power-on is one right after any reset: its tables are at their power-on values. -/
theorem powerUp_resetKeeping (s : State) : s.powerUp.resetKeeping .powerOn = s.powerUp := by
  refine State.ext_fields rfl rfl rfl rfl ?_ ?_ ?_ rfl ?_ ?_ rfl rfl rfl rfl
  · exact congrArg (fun v => Dsc.mk v _) (Vector.map_replicate ..)
  · exact Vector.map_replicate ..
  · exact Vector.map_replicate ..
  · exact congrArg (fun v => Acm.mk v _) (Vector.map_replicate ..)
  · exact congrArg (Arl.mk _ _ _ _ _ _ _) (Vector.map_replicate ..)

theorem setByReset_powerUp (s : State) : SetByReset s s.powerUp .powerOn := by
  have h := setByReset_resetKeeping s.powerUp .powerOn
  rw [powerUp_resetKeeping] at h
  exact h.of_dram rfl

/-! ### The reset of a RESTART (R172) -/

/-- The transmit list and the wait play no part in a reset. -/
theorem resetKeeping_setTx (s : State) (l : List OutFrame) (o : Option Nat) (c : ResetCause) :
    ((s.setTx l).setRestart o).resetKeeping c = s.resetKeeping c := rfl

theorem resetKeeping_hand (s : State) (f : OutFrame) (o : Option Nat) (c : ResetCause) :
    ((s.hand f).setRestart o).resetKeeping c = s.resetKeeping c := by
  rw [hand_only]
  rfl

/-- R167, R172: with the reply's sending the part resets. -/
theorem popFrame_last {s : State} {f : OutFrame} {rest : List OutFrame} (ht : s.jli.tx = f :: rest)
    (hr : s.jli.restart = some 1) : s.popFrame = s.resetKeeping .restart := by
  unfold State.popFrame
  rw [if_neg (by rw [hr]; nofun)]
  simp only [ht, hr]
  rw [State.restartNow_over _ rfl, resetKeeping_setTx]

/-- R172: a RESTART whose reply is discarded resets the part at once. -/
theorem commandRestart_full {s : State} (h : Config.txLimit ≤ s.jli.tx.length) (token : Byte) :
    s.commandRestart token = s.resetKeeping .restart := by
  unfold State.commandRestart
  dsimp only
  rw [if_neg (Nat.not_lt.2 h), State.restartNow_over _ rfl]
  exact resetKeeping_hand s _ _ _

/-- R83: where no line is IDLE, the line arbiters do nothing. -/
theorem serviceLines_busy {s : State} (h : ∀ q, (s.port q).line ≠ .idle) : s.serviceLines = s :=
  State.each_kept (P := fun t => t = s) (fun t q ht => by
    rw [ht]
    unfold State.serviceLine
    rw [if_neg (h q)]) _ rfl

/-- R73: right after a reset no line is IDLE. -/
theorem serviceLines_resetKeeping (s : State) (c : ResetCause) : (s.resetKeeping c).serviceLines = s.resetKeeping c := by
  refine serviceLines_busy fun q => ?_
  rw [port_resetKeeping, line_keepPort]
  split <;> nofun

theorem exec_restart_full {s : State} (hr : s.jli.restart = none) (h : Config.txLimit ≤ s.silenceRule.jli.tx.length)
    (token : Byte) : exec (.restart token) s = .next (s.silenceRule.resetKeeping .restart) := by
  refine congrArg Host.Outcome.next ?_
  unfold State.onFrame
  rw [if_neg (by simp [hr])]
  show (s.silenceRule.commandRestart token).serviceLines = _
  rw [commandRestart_full h, serviceLines_resetKeeping]

/-- Settles O6: power-on, the reset line, and the reset of a RESTART by each of its ways. -/
theorem everyResetSetsTheState : Obligations.EveryResetSetsTheState := by
  intro s
  have hs := setByReset_resetKeeping s .restart
  have hk := keptByReset_resetKeeping s .restart
  refine ⟨⟨_, rfl, setByReset_powerUp s⟩,
    ⟨_, rfl, setByReset_resetKeeping s .resetLine, keptByReset_resetKeeping s .resetLine⟩, fun f rest ht hr => ?_,
    fun token hr hfull => ?_, fun hr => ?_, fun hr => ?_⟩
  · exact ⟨_, congrArg Host.Outcome.next (popFrame_last ht hr), hs, hk⟩
  · have honly := silenceRule_only s
    refine ⟨_, exec_restart_full hr hfull token, (setByReset_resetKeeping _ _).of_dram ?_,
      ((keptByReset_resetKeeping _ _).of_dispatchOnly honly).of_heard⟩
    rw [honly.rest]
    rfl
  · exact ⟨_, congrArg Host.Outcome.next (State.restartNow_over s hr), hs, hk⟩
  · exact congrArg Host.Outcome.next (State.restartNow_waiting s hr)

end Sys2Proof.Machine

/-! ### The invariants right after a reset -/

namespace Sys2Proof.Machine

/-- R123: with empty windows nothing is reserved. -/
theorem reservedFor_empty {s : State} (h : ∀ p, (s.disp p).window = []) (a : Fin 512) : reservedFor s a = 0 := by
  unfold reservedFor
  simp [h]

/-- After a reset no job, no queue, no window and no reserved amount is left to disagree. -/
theorem SetByReset.dispatchOk {s t : State} {c : ResetCause} (h : SetByReset s t c)
    (hl : ∀ p, (t.printer p).config.limit ≤ 8) (hr : ∀ a, (t.account a).reserved = 0) : DispatchOk t where
  queues k := by
    obtain ⟨_, hq⟩ := h.pointers k
    refine ⟨by rw [hq]; exact List.nodup_nil, fun j => ?_, by rw [hq]; exact List.Pairwise.nil⟩
    rw [hq, h.jobs j]
    simp
  records p := by
    obtain ⟨ha, hw, hlv, hst⟩ := h.dispatch p
    refine ⟨fun j hj => ?_, fun _ => ⟨hw, hlv, hst⟩, ⟨by rw [hw]; exact Nat.zero_le _, hl p⟩, fun e he => ?_⟩
    · rw [ha] at hj; cases hj
    · rw [hw] at he; cases he
  jobs j x hx := by rw [h.jobs j] at hx; cases hx
  streams i j hi := by rw [h.streams i] at hi; cases hi
  reserved a := by rw [hr, reservedFor_empty fun p => (h.dispatch p).2.1]
  restart n hn := by rw [h.restart] at hn; cases hn

theorem countP_replicate_none {n : Nat} {f : Option Job → Bool} (h : f none = false) :
    (Vector.replicate n (none : Option Job)).toList.countP f = 0 := by
  rw [Vector.toList_replicate]
  simp [List.countP_replicate, h]

/-- The state right after power-on is what every reset by power-on makes of it. -/
theorem setByReset_reset : SetByReset State.reset State.reset .powerOn := setByReset_powerUp State.reset

theorem account_reset (a : Fin 512) : State.reset.account a = Account.initial := get_replicate _ _

theorem printer_reset (p : Fin 32) : State.reset.printer p = Printer.initial PrinterConfig.initial := get_replicate _ _

theorem route_reset (r : Fin 256) : State.reset.route r = Route.initial := get_replicate _ _

/-- R39, R109, R121: no job is live, and none is bound. -/
theorem boundOk_reset : BoundOk State.reset where
  accounts a := by
    rw [account_reset]
    exact (countP_replicate_none (by rfl)).symm
  banks b := (setByReset_reset.bound b).trans (countP_replicate_none (by rfl)).symm
  valid j x hx := by rw [setByReset_reset.jobs j] at hx; cases hx
  pools j x hx := by rw [setByReset_reset.jobs j] at hx; cases hx

/-- Settles O60, invariant by invariant. -/
theorem resetMeetsTheInvariants : Obligations.ResetMeetsTheInvariants := by
  refine ⟨⟨Nat.zero_le _, List.nodup_nil, nofun, nofun, Nat.zero_le _⟩, ⟨by decide, Nat.zero_le _, Nat.zero_le _⟩, rfl,
    fun r hr => ?_, fun p k hp _ => ?_, boundOk_reset, rangesOk_reset, spoolOk_initial (dram := []) rfl,
    setByReset_reset.dispatchOk (fun p => ?_) (fun a => ?_)⟩
  · rw [route_reset] at hr; cases hr
  · rw [printer_reset] at hp; cases hp
  · rw [printer_reset]; decide
  · rw [account_reset]; rfl

end Sys2Proof.Machine

/-! ## The agreement of queues, records, jobs, bindings and reserved amounts (R1, R3, R45, R46, R49, R56, R58, R61, R123)

`DispatchOk` holds between commands. Inside one, a job may be off its printer and in no queue yet, and the binding of a
stream may end before the stream's own state is set. `Coherent` is `DispatchOk` with such jobs listed and the bindings
given on their own; every operation of printing is shown to keep it. -/

namespace Sys2Proof.Machine

/-! ### The parts of the agreement -/

/-- What the streams are, and what they are to be bound to. -/
structure View where
  streams : Vector StreamState 15
  bound : Fin 15 → StreamState

/-- R56, R61: a window entry is a position of its job. -/
def EntryInside (x : Job) (e : WindowEntry) : Prop :=
  1 ≤ e.copy ∧ e.copy ≤ x.copies ∧ 1 ≤ e.sheet ∧ e.sheet ≤ x.sheets ∧ (x.isOpen = true → e.copy = 1)

/-- R61: a dispatch record is a job's, and its window holds the positions between the job's confirm and release positions,
oldest first. -/
structure WindowHolds (d : Dispatch) (j : Fin 128) (x : Job) : Prop where
  assigned : d.assigned = some j
  length : x.releasePos = x.confirmPos + d.window.length
  places : d.window.map (fun e => ordinal x.sheets e.copy e.sheet) = List.range' (x.confirmPos + 1) d.window.length
  entries : ∀ e ∈ d.window, EntryInside x e

/-- R1, R3, R56, R61: a live job agrees with its printer's record; it may be off its printer in any phase. -/
structure Placed (s : State) (j : Fin 128) (x : Job) : Prop where
  onPrinter : x.printer ≠ none → x.phase = .printing ∨ x.phase = .cancelling
  offPrinter : x.printer = none → x.releasePos = x.confirmPos
  window : ∀ p, x.printer = some p → WindowHolds (s.disp p) j x
  copies : 1 ≤ x.copies
  positions : x.releasePos ≤ x.copies * x.sheets ∧ (x.isOpen = true → x.releasePos ≤ x.sheets)
  binding : x.isOpen = x.stream.isSome
  cancelled : x.phase = .cancelling → x.isOpen = false

/-- R45, R49: a job is where its phase says, on a printer or in its pool's queue. -/
structure Settled (s : State) (j : Fin 128) (x : Job) : Prop where
  onPrinter : x.phase = .printing ∨ x.phase = .cancelling → x.printer ≠ none
  queued : x.phase = .queued → j ∈ (s.pool x.pool).queue

/-- A job that an operation has taken off its printer and out of its queue, and has not put back yet. -/
def Aside (s : State) (j : Fin 128) (x : Job) : Prop := x.printer = none ∧ ∀ k, j ∉ (s.pool k).queue

/-- R45: two slots stand in a queue in the order of their jobs. -/
def InOrder (s : State) (i j : Fin 128) : Prop := ∀ x y, s.job i = some x → s.job j = some y → BeforeInQueue x y

/-- R45: a job in a queue is a QUEUED job of its pool. -/
def QueuedIn (s : State) (k : Fin 16) (j : Fin 128) : Prop := ∃ x, s.job j = some x ∧ x.phase = .queued ∧ x.pool = k

/-- R3: a job is bound to a stream. -/
def BoundTo (s : State) (i : Fin 15) (j : Fin 128) : Prop := ∃ x, s.job j = some x ∧ x.stream = some i

/-- `DispatchOk`, with the jobs of `l` aside, and with the streams' states and bindings as the view has them. -/
structure Coherent (v : View) (l : List (Fin 128)) (s : State) : Prop where
  once : ∀ k, (s.pool k).queue.Nodup
  members : ∀ k j, j ∈ (s.pool k).queue → QueuedIn s k j
  order : ∀ k, (s.pool k).queue.Pairwise (InOrder s)
  records : ∀ p, DispatchRecordOk s p
  jobs : ∀ j x, s.job j = some x → Placed s j x
  settled : ∀ j x, s.job j = some x → j ∉ l → Settled s j x
  aside : ∀ j x, s.job j = some x → j ∈ l → Aside s j x
  streams : s.spm.streams = v.streams
  bound : ∀ i j, v.bound i = .opened j ↔ BoundTo s i j
  reserved : ∀ a, (s.account a).reserved = reservedFor s a
  restart : ∀ n, s.jli.restart = some n → 1 ≤ n ∧ n ≤ s.jli.tx.length

/-- The streams of a state, each bound as it says. -/
def State.view (s : State) : View := ⟨s.spm.streams, s.stream⟩

theorem DispatchOk.coherent {s : State} (h : DispatchOk s) : Coherent s.view [] s where
  once k := (h.queues k).once
  members k j hj := ((h.queues k).members j).1 hj
  order k := (h.queues k).order
  records := h.records
  jobs j x hx := by
    have o := h.jobs j x hx
    exact ⟨o.onPrinter.1, o.offPrinter, fun p hp => by
      obtain ⟨ha, hl, hw, he⟩ := o.window p hp
      exact ⟨ha, hl, hw, he⟩, o.copies, o.positions, o.stream.1, o.cancelled⟩
  settled j x hx _ := ⟨(h.jobs j x hx).onPrinter.2, fun hq => ((h.queues x.pool).members j).2 ⟨x, hx, hq, rfl⟩⟩
  aside _ _ _ hj := nomatch hj
  streams := rfl
  bound i j := by
    refine ⟨h.streams i j, fun ⟨x, hx, hi⟩ => (h.jobs j x hx).stream.2 i hi⟩
  reserved := h.reserved
  restart := h.restart

theorem Coherent.dispatchOk {v : View} {s : State} (h : Coherent v [] s)
    (hv : ∀ i j, v.streams.get i = .opened j ↔ v.bound i = .opened j) : DispatchOk s where
  queues k := by
    refine ⟨h.once k, fun j => ⟨h.members k j, fun ⟨x, hx, hq, hk⟩ => ?_⟩, h.order k⟩
    subst hk
    exact (h.settled j x hx List.not_mem_nil).queued hq
  records := h.records
  jobs j x hx := by
    have o := h.jobs j x hx
    refine ⟨⟨o.onPrinter, (h.settled j x hx List.not_mem_nil).onPrinter⟩, o.offPrinter, fun p hp => ?_, o.copies,
      o.positions, ⟨o.binding, fun i hi => ?_⟩, o.cancelled⟩
    · have w := o.window p hp
      exact ⟨w.assigned, w.length, w.places, w.entries⟩
    · have hb := (hv i j).2 ((h.bound i j).2 ⟨x, hx, hi⟩)
      rw [← h.streams] at hb
      exact hb
  streams i j hi := by
    refine (h.bound i j).1 ((hv i j).1 ?_)
    rw [← h.streams]
    exact hi
  reserved := h.reserved
  restart := h.restart

/-! ### Reserved amounts as sums (R58, R123) -/

/-- The account a live job is charged to. -/
def State.accountOf (s : State) (j : Fin 128) : Option (Fin 512) := (s.job j).map Job.account

/-- What a window adds to the reserved amount of an account. -/
def share (f : Fin 128 → Option (Fin 512)) (a : Fin 512) (w : List WindowEntry) : Nat :=
  (w.map fun e => if f e.job = some a then e.estimate else 0).sum

theorem reservedFor_eq (s : State) (a : Fin 512) : reservedFor s a = ∑ p, share s.accountOf a (s.disp p).window := by
  have hentry : ∀ e : WindowEntry, (match s.job e.job with
      | some x => if x.account = a then e.estimate else 0
      | none => 0) = if s.accountOf e.job = some a then e.estimate else 0 := by
    intro e
    unfold State.accountOf
    cases s.job e.job <;> simp
  unfold reservedFor share
  rw [Fin.sum_univ_def]
  refine congrArg List.sum (List.map_congr_left fun p _ => congrArg List.sum (List.map_congr_left fun e _ => ?_))
  exact hentry e

/-- With the windows and the accounts of their jobs as they were, so are the reserved amounts. -/
theorem reservedFor_congr {s t : State} (hw : ∀ q, (t.disp q).window = (s.disp q).window)
    (ha : ∀ q, ∀ e ∈ (s.disp q).window, t.accountOf e.job = s.accountOf e.job) (a : Fin 512) :
    reservedFor t a = reservedFor s a := by
  rw [reservedFor_eq, reservedFor_eq]
  refine Finset.sum_congr rfl fun q _ => ?_
  rw [hw q]
  refine congrArg List.sum (List.map_congr_left fun e he => ?_)
  rw [ha q e he]

/-- A change of one window changes the reserved amounts by the difference. -/
theorem reservedFor_change {s t : State} (p : Fin 32) (hw : ∀ q, q ≠ p → (t.disp q).window = (s.disp q).window)
    (ha : t.accountOf = s.accountOf) (a : Fin 512) :
    reservedFor t a + share s.accountOf a (s.disp p).window = reservedFor s a + share s.accountOf a (t.disp p).window := by
  have hrest : ∑ q ∈ Finset.univ.erase p, share t.accountOf a (t.disp q).window =
      ∑ q ∈ Finset.univ.erase p, share s.accountOf a (s.disp q).window :=
    Finset.sum_congr rfl fun q hq => by rw [hw q (Finset.ne_of_mem_erase hq), ha]
  have ht := Finset.add_sum_erase Finset.univ (fun q => share t.accountOf a (t.disp q).window) (Finset.mem_univ p)
  have hs := Finset.add_sum_erase Finset.univ (fun q => share s.accountOf a (s.disp q).window) (Finset.mem_univ p)
  rw [reservedFor_eq, reservedFor_eq, ← ht, ← hs, hrest, ha]
  ac_rfl

/-- The estimates of a window. -/
def estimates (w : List WindowEntry) : Nat := (w.map WindowEntry.estimate).sum

/-- The window of one job adds to its account alone. -/
theorem share_own {f : Fin 128 → Option (Fin 512)} {b : Fin 512} {w : List WindowEntry} (h : ∀ e ∈ w, f e.job = some b)
    (a : Fin 512) : share f a w = if a = b then estimates w else 0 := by
  unfold share estimates
  split
  · next e =>
    subst e
    exact congrArg List.sum (List.map_congr_left fun e he => if_pos (h e he))
  · next e =>
    refine List.sum_eq_zero fun n hn => ?_
    obtain ⟨y, hy, rfl⟩ := List.mem_map.1 hn
    rw [if_neg]
    rw [h y hy]
    exact fun e' => e (Option.some.inj e').symm

/-! ### Changes of one job and one printer's record -/

/-- Of what the agreement is about, `t` differs from `s` in slot j, in its places in the queues, in the record of printer p
and in reserved amounts alone. -/
structure Local (s t : State) (j : Fin 128) (p : Option (Fin 32)) : Prop where
  jobs : ∀ i, i ≠ j → t.job i = s.job i
  disp : ∀ q, p ≠ some q → t.disp q = s.disp q
  config : ∀ q, (t.printer q).config = (s.printer q).config
  queue : ∀ k, (t.pool k).queue.filter (fun i => i != j) = (s.pool k).queue.filter fun i => i != j
  streams : t.spm.streams = s.spm.streams
  link : LinkGrows s t

/-- What the agreement asks of slot j and the record of printer p. -/
structure Mine (v : View) (l : List (Fin 128)) (t : State) (j : Fin 128) (p : Option (Fin 32)) : Prop where
  record : ∀ q, p = some q → DispatchRecordOk t q
  placed : ∀ y, t.job j = some y → Placed t j y
  settled : ∀ y, t.job j = some y → j ∉ l → Settled t j y
  aside : ∀ y, t.job j = some y → j ∈ l → Aside t j y
  queue : ∀ k, j ∈ (t.pool k).queue → (t.pool k).queue.Nodup ∧ QueuedIn t k j ∧ (t.pool k).queue.Pairwise (InOrder t)
  bound : ∀ i k, v.bound i = .opened k ↔ BoundTo t i k
  reserved : ∀ a, (t.account a).reserved = reservedFor t a

/-- The record of printer p is slot j's to change: the slot's job is on no other printer, and no other job is on it. -/
structure Owns (s : State) (j : Fin 128) (p : Option (Fin 32)) : Prop where
  printer : ∀ x, s.job j = some x → ∀ q, x.printer = some q → p = some q
  record : ∀ q, p = some q → (s.disp q).assigned = none ∨ (s.disp q).assigned = some j

theorem LinkGrows.restart_le {s t : State} (h : LinkGrows s t) {n : Nat} (hn : t.jli.restart = some n)
    (hs : ∀ n, s.jli.restart = some n → 1 ≤ n ∧ n ≤ s.jli.tx.length) : 1 ≤ n ∧ n ≤ t.jli.tx.length := by
  obtain ⟨h1, h2⟩ := hs n (h.restart.symm.trans hn)
  exact ⟨h1, Nat.le_trans h2 h.tx.length_le⟩

section Local

variable {s t : State} {j : Fin 128} {p : Option (Fin 32)}

theorem Local.mem_queue (L : Local s t j p) {i : Fin 128} (hi : i ≠ j) (k : Fin 16) :
    i ∈ (t.pool k).queue ↔ i ∈ (s.pool k).queue := by
  have h := congrArg (i ∈ ·) (L.queue k)
  simpa [hi] using h

/-- A queue that does not hold the slot is what it was without it. -/
theorem Local.queue_eq (L : Local s t j p) {k : Fin 16} (hk : j ∉ (t.pool k).queue) :
    (t.pool k).queue = (s.pool k).queue.filter fun i => i != j := by
  rw [← L.queue k, List.filter_eq_self.2]
  intro i hi
  have : i ≠ j := fun e => hk (e ▸ hi)
  simp [this]

variable {v w : View} {l m : List (Fin 128)}

/-- A job on another printer is another slot's. -/
theorem Coherent.otherAssigned (h : Coherent v l s) (O : Owns s j p) {q : Fin 32} (hq : p ≠ some q) {i : Fin 128}
    (hi : (s.disp q).assigned = some i) : i ≠ j := by
  intro e
  subst e
  obtain ⟨x, hx, hp, _⟩ := (h.records q).assigned i hi
  exact hq (O.printer x hx q hp)

theorem Coherent.record_local (h : Coherent v l s) (L : Local s t j p) (O : Owns s j p) {q : Fin 32} (hq : p ≠ some q) :
    DispatchRecordOk t q := by
  have o := h.records q
  have hd := L.disp q hq
  refine ⟨fun i hi => ?_, fun hn => ?_, ?_, fun e he => ?_⟩
  · rw [hd] at hi
    obtain ⟨x, hx, hxp, hc, hpool⟩ := o.assigned i hi
    exact ⟨x, (L.jobs i (h.otherAssigned O hq hi)).trans hx, hxp, by rw [L.config]; exact hc, by rw [L.config]; exact hpool⟩
  · rw [hd] at hn ⊢
    exact o.free hn
  · rw [hd, L.config]
    exact o.limit
  · rw [hd] at he ⊢
    exact o.entries e he

theorem Coherent.placed_local (h : Coherent v l s) (L : Local s t j p) (O : Owns s j p) {i : Fin 128} (hi : i ≠ j) {x : Job}
    (hx : s.job i = some x) : Placed t i x := by
  have o := h.jobs i x hx
  refine { o with window := fun q hq => ?_ }
  have hw := o.window q hq
  have hne : p ≠ some q := by
    intro e
    obtain h1 | h1 := O.record q e
    · rw [hw.assigned] at h1; cases h1
    · rw [hw.assigned] at h1; exact hi (Option.some.inj h1)
  rw [L.disp q hne]
  exact hw

/-- The rule for an operation on one job: what the agreement asks of the others holds on. -/
theorem Coherent.of_local (h : Coherent v l s) (L : Local s t j p) (O : Owns s j p) (M : Mine w m t j p)
    (hs : w.streams = v.streams) (hl : ∀ i, i ≠ j → (i ∈ m ↔ i ∈ l)) : Coherent w m t where
  once k := by
    by_cases hk : j ∈ (t.pool k).queue
    · exact (M.queue k hk).1
    · rw [L.queue_eq hk]; exact (h.once k).filter _
  members k i hi := by
    by_cases e : i = j
    · subst e; exact (M.queue k hi).2.1
    · obtain ⟨x, hx, hq⟩ := h.members k i ((L.mem_queue e k).1 hi)
      exact ⟨x, (L.jobs i e).trans hx, hq⟩
  order k := by
    by_cases hk : j ∈ (t.pool k).queue
    · exact (M.queue k hk).2.2
    · rw [L.queue_eq hk]
      refine ((h.order k).filter _).imp_of_mem fun {a b} ha hb hab x y hx hy => ?_
      have hne : ∀ i, i ∈ (s.pool k).queue.filter (fun i => i != j) → i ≠ j := fun i hi => by
        simpa using (List.mem_filter.1 hi).2
      exact hab x y ((L.jobs a (hne a ha)).symm.trans hx) ((L.jobs b (hne b hb)).symm.trans hy)
  records q := by
    by_cases hq : p = some q
    · exact M.record q hq
    · exact h.record_local L O hq
  jobs i x hx := by
    by_cases e : i = j
    · subst e; exact M.placed x hx
    · exact h.placed_local L O e ((L.jobs i e).symm.trans hx)
  settled i x hx hi := by
    by_cases e : i = j
    · subst e; exact M.settled x hx hi
    · have o := h.settled i x ((L.jobs i e).symm.trans hx) (fun hm => hi ((hl i e).2 hm))
      exact ⟨o.onPrinter, fun hq => (L.mem_queue e _).2 (o.queued hq)⟩
  aside i x hx hi := by
    by_cases e : i = j
    · subst e; exact M.aside x hx hi
    · have o := h.aside i x ((L.jobs i e).symm.trans hx) ((hl i e).1 hi)
      exact ⟨o.1, fun k hk => o.2 k ((L.mem_queue e k).1 hk)⟩
  streams := L.streams.trans (h.streams.trans hs.symm)
  bound := M.bound
  reserved := M.reserved
  restart n hn := L.link.restart_le hn h.restart

end Local

end Sys2Proof.Machine

/-! ### The single changes of dispatch, and the agreement -/

namespace Sys2Proof.Machine

section SingleChanges

variable {v : View} {l : List (Fin 128)} {s t : State}

/-! #### What the agreement does not read -/

/-- Of what the agreement is about, nothing has changed. -/
structure SameParts (s t : State) : Prop where
  jobs : ∀ j, t.job j = s.job j
  streams : t.spm.streams = s.spm.streams
  queue : ∀ k, (t.pool k).queue = (s.pool k).queue
  assigned : ∀ p, (t.disp p).assigned = (s.disp p).assigned
  window : ∀ p, (t.disp p).window = (s.disp p).window
  free : ∀ p, (s.disp p).assigned = none → (s.disp p).leaving = false → (s.disp p).stall = none →
    (t.disp p).leaving = false ∧ (t.disp p).stall = none
  config : ∀ p, (t.printer p).config = (s.printer p).config
  reserved : ∀ a, (t.account a).reserved = (s.account a).reserved
  link : LinkGrows s t

theorem Placed.of_disp {j : Fin 128} {x : Job} (h : Placed s j x) (ha : ∀ p, (t.disp p).assigned = (s.disp p).assigned)
    (hw : ∀ p, (t.disp p).window = (s.disp p).window) : Placed t j x := by
  refine { h with window := fun p hp => ?_ }
  obtain ⟨w1, w2, w3, w4⟩ := h.window p hp
  exact ⟨(ha p).trans w1, by rw [hw p]; exact w2, by rw [hw p]; exact w3, by rw [hw p]; exact w4⟩

theorem Coherent.same (h : Coherent v l s) (k : SameParts s t) : Coherent v l t where
  once q := by rw [k.queue]; exact h.once q
  members q j hj := by
    rw [k.queue] at hj
    obtain ⟨x, hx, hq⟩ := h.members q j hj
    exact ⟨x, (k.jobs j).trans hx, hq⟩
  order q := by
    rw [k.queue]
    exact (h.order q).imp fun hab x y hx hy => hab x y ((k.jobs _).symm.trans hx) ((k.jobs _).symm.trans hy)
  records p := by
    have o := h.records p
    refine ⟨fun j hj => ?_, fun hn => ?_, ?_, fun e he => ?_⟩
    · rw [k.assigned] at hj
      obtain ⟨x, hx, hxp, hc, hpool⟩ := o.assigned j hj
      exact ⟨x, (k.jobs j).trans hx, hxp, by rw [k.config]; exact hc, by rw [k.config]; exact hpool⟩
    · rw [k.assigned] at hn
      obtain ⟨h1, h2, h3⟩ := o.free hn
      exact ⟨(k.window p).trans h1, k.free p hn h2 h3⟩
    · rw [k.window, k.config]; exact o.limit
    · rw [k.window] at he
      rw [k.assigned]
      exact o.entries e he
  jobs j x hx := (h.jobs j x ((k.jobs j).symm.trans hx)).of_disp k.assigned k.window
  settled j x hx hj := by
    have o := h.settled j x ((k.jobs j).symm.trans hx) hj
    exact ⟨o.onPrinter, fun hq => by rw [k.queue]; exact o.queued hq⟩
  aside j x hx hj := by
    have o := h.aside j x ((k.jobs j).symm.trans hx) hj
    exact ⟨o.1, fun q => by rw [k.queue]; exact o.2 q⟩
  streams := k.streams.trans h.streams
  bound i j := by
    rw [h.bound]
    exact ⟨fun ⟨x, hx, hi⟩ => ⟨x, (k.jobs j).trans hx, hi⟩, fun ⟨x, hx, hi⟩ => ⟨x, (k.jobs j).symm.trans hx, hi⟩⟩
  reserved a := by
    rw [k.reserved, h.reserved]
    refine (reservedFor_congr k.window (fun q e _ => ?_) a).symm
    unfold State.accountOf
    rw [k.jobs]
  restart n hn := k.link.restart_le hn h.restart

/-- The blocks of the state that the agreement reads, but for the job link. -/
def agreeingParts (s : State) := (s.spm.jobs, s.spm.streams, s.dsc, s.pra, s.acm.accounts)

theorem Coherent.neutral (h : Coherent v l s) (k : agreeingParts t = agreeingParts s) (hl : LinkGrows s t) :
    Coherent v l t := by
  simp only [agreeingParts, Prod.mk.injEq] at k
  obtain ⟨hj, hs, hd, hp, ha⟩ := k
  refine h.same ⟨fun j => ?_, hs, fun k => ?_, fun p => ?_, fun p => ?_, fun p _ h2 h3 => ?_, fun p => ?_, fun a => ?_, hl⟩
  · unfold State.job; rw [hj]
  · unfold State.pool; rw [hd]
  · unfold State.disp; rw [hd]
  · unfold State.disp; rw [hd]
  · unfold State.disp at h2 h3 ⊢; rw [hd]; exact ⟨h2, h3⟩
  · unfold State.printer; rw [hp]
  · unfold State.account; rw [ha]

theorem Coherent.alerts (h : Coherent v l s) (k : AlertOnly s t) (hl : LinkGrows s t) : Coherent v l t :=
  h.neutral (by unfold AlertOnly at k; rw [k]; rfl) hl

theorem Coherent.raiseAt (h : Coherent v l s) (k : AlertKey) (c : Bool) (m : Time) : Coherent v l (s.raiseAt k c m) :=
  h.alerts (alertOnly_raiseAt s k c m) (linkGrows_raiseAt s k c m)

theorem Coherent.raise (h : Coherent v l s) (k : AlertKey) : Coherent v l (s.raise k) := h.raiseAt k _ _

theorem Coherent.clear (h : Coherent v l s) (k : AlertKey) : Coherent v l (s.clear k) :=
  h.alerts (alertOnly_clear s k) (linkGrows_clear s k)

theorem Coherent.hand (h : Coherent v l s) (f : OutFrame) : Coherent v l (s.hand f) :=
  h.neutral (by rw [hand_only]; rfl) (linkGrows_hand s f)

theorem Coherent.budgetTest (h : Coherent v l s) (a : Fin 512) : Coherent v l (s.budgetTest a) := by
  unfold State.budgetTest
  split
  · exact h
  · exact h.clear _

theorem Coherent.applyWatermarks (h : Coherent v l s) : Coherent v l s.applyWatermarks :=
  h.neutral (by rw [applyWatermarks_only]; rfl) (linkGrows_applyWatermarks s)

theorem Coherent.setPort (h : Coherent v l s) (q : Fin 8) (x : Port) : Coherent v l (s.setPort q x) :=
  h.neutral rfl (.of_jli rfl)

theorem Coherent.setPrinter (h : Coherent v l s) (p : Fin 32) {x : Printer} (hc : x.config = (s.printer p).config) :
    Coherent v l (s.setPrinter p x) := by
  refine h.same ⟨fun _ => rfl, rfl, fun _ => rfl, fun _ => rfl, fun _ => rfl, fun _ _ h2 h3 => ⟨h2, h3⟩, fun q => ?_,
    fun _ => rfl, .of_jli rfl⟩
  rw [State.printer_setPrinter]
  split
  · next e => subst e; exact hc
  · rfl

/-- A record whose job and window stay; one without a job has no timer to start and no flag to set. -/
theorem Coherent.setDisp (h : Coherent v l s) (p : Fin 32) {x : Dispatch} (ha : x.assigned = (s.disp p).assigned)
    (hw : x.window = (s.disp p).window)
    (hf : (s.disp p).assigned = none → (s.disp p).leaving = false → (s.disp p).stall = none →
      x.leaving = false ∧ x.stall = none) : Coherent v l (s.setDisp p x) := by
  refine h.same ⟨fun _ => rfl, rfl, fun _ => rfl, fun q => ?_, fun q => ?_, fun q hn h2 h3 => ?_, fun _ => rfl, fun _ => rfl,
    .of_jli rfl⟩ <;> rw [State.disp_setDisp] <;> split
  · next e => subst e; exact ha
  · rfl
  · next e => subst e; exact hw
  · rfl
  · next e => subst e; exact hf hn h2 h3
  · exact ⟨h2, h3⟩

theorem Coherent.setPool (h : Coherent v l s) (k : Fin 16) {x : Pool} (hq : x.queue = (s.pool k).queue) :
    Coherent v l (s.setPool k x) := by
  refine h.same ⟨fun _ => rfl, rfl, fun i => ?_, fun _ => rfl, fun _ => rfl, fun _ _ h2 h3 => ⟨h2, h3⟩, fun _ => rfl,
    fun _ => rfl, .of_jli rfl⟩
  rw [State.pool_setPool]
  split
  · next e => subst e; exact hq
  · rfl

theorem Coherent.setAccount (h : Coherent v l s) (a : Fin 512) {x : Account} (hr : x.reserved = (s.account a).reserved) :
    Coherent v l (s.setAccount a x) := by
  refine h.same ⟨fun _ => rfl, rfl, fun _ => rfl, fun _ => rfl, fun _ => rfl, fun _ _ h2 h3 => ⟨h2, h3⟩, fun _ => rfl,
    fun b => ?_, .of_jli rfl⟩
  rw [State.account_setAccount]
  split
  · next e => subst e; exact hr
  · rfl

/-! #### Jobs that come aside, and that are put back -/

/-- A job that is on no printer and in no queue may be taken as aside. -/
theorem Coherent.loosen {j : Fin 128} (h : Coherent v l s) (ha : ∀ x, s.job j = some x → Aside s j x) :
    Coherent v (j :: l) s :=
  { h with
    settled := fun i x hx hi => h.settled i x hx fun hm => hi (List.mem_cons_of_mem _ hm)
    aside := fun i x hx hi => by
      obtain rfl | hm := List.mem_cons.1 hi
      · exact ha x hx
      · exact h.aside i x hx hm }

/-- A job aside that is where its phase says is put back. -/
theorem Coherent.tighten {j : Fin 128} (h : Coherent v (j :: l) s) (hs : ∀ x, s.job j = some x → j ∉ l → Settled s j x) :
    Coherent v l s :=
  { h with
    settled := fun i x hx hi => by
      by_cases e : i = j
      · subst e; exact hs x hx hi
      · exact h.settled i x hx fun hm => (List.mem_cons.1 hm).elim e hi
    aside := fun i x hx hi => h.aside i x hx (List.mem_cons_of_mem _ hi) }

theorem Coherent.notQueued {j : Fin 128} {x : Job} (h : Coherent v l s) (hx : s.job j = some x) (hp : x.phase ≠ .queued)
    (k : Fin 16) : j ∉ (s.pool k).queue := by
  intro hk
  obtain ⟨y, hy, hq, _⟩ := h.members k j hk
  cases hx.symm.trans hy
  exact hp hq

/-- R45: a job that is in no queue and on no printer, by its phase. -/
theorem Coherent.aside_of_phase {j : Fin 128} {x : Job} (h : Coherent v l s) (hx : s.job j = some x)
    (hp : x.phase = .spooling ∨ x.phase = .held) : Aside s j x := by
  refine ⟨?_, h.notQueued hx (by obtain e | e := hp <;> rw [e] <;> nofun)⟩
  by_contra hn
  obtain e | e := hp <;> obtain e' | e' := (h.jobs j x hx).onPrinter hn <;> rw [e] at e' <;> cases e'

/-! #### A job record -/

/-- R1: the fields of a job record that the agreement reads. -/
def placeOf (x : Job) :=
  (x.phase, x.stream, x.isOpen, x.pool, x.account, x.priority, x.arrival, x.copies, x.sheets, x.releasePos, x.confirmPos,
    x.printer)

/-- A job record changed where its job stays on its printer, in its queue or aside. -/
structure Restated (l : List (Fin 128)) (j : Fin 128) (x y : Job) : Prop where
  printer : y.printer = x.printer
  pool : y.pool = x.pool
  account : y.account = x.account
  priority : y.priority = x.priority
  arrival : y.arrival = x.arrival
  queued : j ∉ l → (y.phase = .queued ↔ x.phase = .queued)
  onPrinter : j ∉ l → y.phase = .printing ∨ y.phase = .cancelling → x.phase = .printing ∨ x.phase = .cancelling

theorem Coherent.owns {j : Fin 128} {x : Job} (h : Coherent v l s) (hx : s.job j = some x) : Owns s j x.printer :=
  ⟨fun y hy q hq => by cases hx.symm.trans hy; exact hq, fun q hq => .inr ((h.jobs j x hx).window q hq).assigned⟩

theorem local_setJob (s : State) (j : Fin 128) (o : Option Job) (p : Option (Fin 32)) : Local s (s.setJob j o) j p :=
  ⟨fun i hi => by rw [State.job_setJob, if_neg hi], fun _ _ => rfl, fun _ => rfl, fun _ => rfl, rfl, .of_jli rfl⟩

theorem BoundTo.congr {i : Fin 15} {k : Fin 128} (h : (t.job k).bind Job.stream = (s.job k).bind Job.stream) :
    BoundTo t i k ↔ BoundTo s i k := by
  have hb : ∀ u : State, BoundTo u i k ↔ (u.job k).bind Job.stream = some i := fun u => by
    unfold BoundTo
    rw [Option.bind_eq_some_iff]
  rw [hb, hb, h]

/-- Slot j holds `y`, and the other slots what they held. -/
def JobSet (s t : State) (j : Fin 128) (y : Job) : Prop := ∀ i, t.job i = if i = j then some y else s.job i

theorem jobSet_setJob (s : State) (j : Fin 128) (y : Job) : JobSet s (s.setJob j (some y)) j y := State.job_setJob s j (some y)

section JobSet

variable {j : Fin 128} {x y : Job}

theorem JobSet.self (k : JobSet s t j y) : t.job j = some y := by rw [k j, if_pos rfl]

theorem JobSet.others (k : JobSet s t j y) {i : Fin 128} (hi : i ≠ j) : t.job i = s.job i := by rw [k i, if_neg hi]

/-- What the new record has in common with the old one, every slot has. -/
theorem JobSet.map_eq {α : Type} (k : JobSet s t j y) (hx : s.job j = some x) {f : Job → α} (hf : f y = f x) (i : Fin 128) :
    (t.job i).map f = (s.job i).map f := by
  rw [k i]
  split
  · next e => rw [e, hx]; exact congrArg some hf
  · rfl

theorem JobSet.accountOf (k : JobSet s t j y) (hx : s.job j = some x) (ha : y.account = x.account) :
    t.accountOf = s.accountOf := funext (k.map_eq hx ha)

theorem Coherent.bound_jobSet (h : Coherent v l s) (k : JobSet s t j y) (hx : s.job j = some x) (hs : y.stream = x.stream)
    (i : Fin 15) (n : Fin 128) : v.bound i = .opened n ↔ BoundTo t i n := by
  refine (h.bound i n).trans (BoundTo.congr ?_).symm
  have hjoin : ∀ o : Option Job, o.bind Job.stream = (o.map Job.stream).join := fun o => by cases o <;> rfl
  rw [hjoin, hjoin, k.map_eq hx hs n]

theorem Coherent.reserved_jobSet (h : Coherent v l s) (k : JobSet s t j y) (hx : s.job j = some x)
    (ha : y.account = x.account) (hw : ∀ q, (t.disp q).window = (s.disp q).window)
    (hr : ∀ a, (t.account a).reserved = (s.account a).reserved) (a : Fin 512) :
    (t.account a).reserved = reservedFor t a := by
  rw [hr, h.reserved]
  exact (reservedFor_congr hw (fun _ e _ => congrFun (k.accountOf hx ha) e.job) a).symm

end JobSet

/-- R45: a job's place in an order rests on its priority and its arrival. -/
theorem InOrder.congr (hk : ∀ i, (t.job i).map (fun x => (x.priority, x.arrival)) =
    (s.job i).map fun x => (x.priority, x.arrival)) {a b : Fin 128} (h : InOrder s a b) : InOrder t a b := by
  intro x y hx hy
  have key : ∀ i x, t.job i = some x → ∃ x', s.job i = some x' ∧ (x'.priority, x'.arrival) = (x.priority, x.arrival) := by
    intro i x hx
    have hi := (hk i).symm
    rw [hx] at hi
    exact Option.map_eq_some_iff.1 hi
  obtain ⟨x', hx', ex⟩ := key a x hx
  obtain ⟨y', hy', ey⟩ := key b y hy
  have := h x' y' hx' hy'
  simp only [Prod.mk.injEq] at ex ey
  unfold BeforeInQueue at this ⊢
  rwa [ex.1, ex.2, ey.1, ey.2] at this

/-- The rule for a change of one job record, its binding among it. -/
theorem Coherent.rebind {w : View} {j : Fin 128} {x y : Job} (h : Coherent v l s) (hx : s.job j = some x)
    (r : Restated l j x y) (hp : Placed s j y) (hw : w.streams = v.streams)
    (hb : ∀ i k, w.bound i = .opened k ↔ BoundTo (s.setJob j (some y)) i k) : Coherent w l (s.setJob j (some y)) := by
  have hset := jobSet_setJob s j y
  have hj := hset.self
  refine h.of_local (local_setJob s j (some y) x.printer) (h.owns hx) ⟨fun q hq => ?_, fun z hz => ?_, fun z hz hl => ?_,
    fun z hz hl => ?_, fun k hk => ?_, hb, fun a => ?_⟩ hw fun _ _ => Iff.rfl
  · have o := h.records q
    have ha := ((h.jobs j x hx).window q hq).assigned
    refine ⟨fun i hi => ?_, o.free, o.limit, o.entries⟩
    obtain ⟨z, hz, _, hc, hpool⟩ := o.assigned i hi
    cases Option.some.inj (ha.symm.trans hi)
    cases hx.symm.trans hz
    exact ⟨y, hj, r.printer.trans hq, hc, by rw [r.pool]; exact hpool⟩
  · cases hj.symm.trans hz
    exact hp.of_disp (fun _ => rfl) fun _ => rfl
  · cases hj.symm.trans hz
    have o := h.settled j x hx hl
    exact ⟨fun e => by rw [r.printer]; exact o.onPrinter (r.onPrinter hl e),
      fun e => by rw [r.pool]; exact o.queued ((r.queued hl).1 e)⟩
  · cases hj.symm.trans hz
    have o := h.aside j x hx hl
    exact ⟨r.printer.trans o.1, o.2⟩
  · have hl : j ∉ l := fun hm => (h.aside j x hx hm).2 k hk
    obtain ⟨z, hz, hq, hpool⟩ := h.members k j hk
    cases hx.symm.trans hz
    refine ⟨h.once k, ⟨y, hj, (r.queued hl).2 hq, r.pool.trans hpool⟩, (h.order k).imp (InOrder.congr (hset.map_eq hx ?_))⟩
    exact Prod.ext r.priority r.arrival
  · exact h.reserved_jobSet hset hx r.account (fun _ => rfl) (fun _ => rfl) a

/-- The rule for a change of one job record that keeps its binding. -/
theorem Coherent.restate {j : Fin 128} {x y : Job} (h : Coherent v l s) (hx : s.job j = some x) (r : Restated l j x y)
    (hp : Placed s j y) (hs : y.stream = x.stream) : Coherent v l (s.setJob j (some y)) :=
  h.rebind hx r hp rfl (h.bound_jobSet (jobSet_setJob s j y) hx hs)

/-- What the agreement does not read of a job record may change. -/
theorem Coherent.setJob_same {j : Fin 128} {x y : Job} (h : Coherent v l s) (hx : s.job j = some x)
    (e : placeOf y = placeOf x) : Coherent v l (s.setJob j (some y)) := by
  simp only [placeOf, Prod.mk.injEq] at e
  obtain ⟨e1, e2, e3, e4, e5, e6, e7, e8, e9, e10, e11, e12⟩ := e
  refine h.restate hx ⟨e12, e4, e5, e6, e7, fun _ => by rw [e1], fun _ => by rw [e1]; exact id⟩ ?_ e2
  have o := h.jobs j x hx
  refine ⟨by rw [e12, e1]; exact o.onPrinter, by rw [e12, e10, e11]; exact o.offPrinter, fun p hp => ?_, by rw [e8]; exact o.copies,
    by rw [e10, e8, e9, e3]; exact o.positions, by rw [e3, e2]; exact o.binding, by rw [e1, e3]; exact o.cancelled⟩
  obtain ⟨w1, w2, w3, w4⟩ := o.window p (e12 ▸ hp)
  refine ⟨w1, by rw [e10, e11]; exact w2, by rw [e9, e11]; exact w3, fun e he => ?_⟩
  have := w4 e he
  unfold EntryInside at this ⊢
  rw [e8, e9, e3]
  exact this

theorem Coherent.modJob_same (h : Coherent v l s) (j : Fin 128) {f : Job → Job} (hf : ∀ x, placeOf (f x) = placeOf x) :
    Coherent v l (s.modJob j f) := by
  cases hx : s.job j with
  | none => rwa [State.modJob_none s hx]
  | some x => rw [State.modJob_some s hx]; exact h.setJob_same hx (hf x)

/-- A job aside takes any phase but CANCELLING. -/
theorem Coherent.setPhase_aside {j : Fin 128} {x : Job} (h : Coherent v l s) (hj : j ∈ l) (hx : s.job j = some x)
    {f : Phase} (hf : f ≠ .cancelling) : Coherent v l (s.setJob j (some { x with phase := f })) := by
  have o := h.jobs j x hx
  have hn := (h.aside j x hx hj).1
  refine h.restate hx ⟨rfl, rfl, rfl, rfl, rfl, fun hl => absurd hj hl, fun hl => absurd hj hl⟩
    ⟨fun hp => absurd hn hp, o.offPrinter, fun p hp => ?_, o.copies, o.positions, o.binding, fun hc => absurd hc hf⟩ rfl
  cases hn.symm.trans hp

/-- R18, R50: a job aside becomes HELD. -/
theorem Coherent.holdAside {j : Fin 128} {x : Job} (h : Coherent v (j :: l) s) (hx : s.job j = some x) :
    Coherent v l (s.setJob j (some { x with phase := .held })) := by
  refine (h.setPhase_aside (List.mem_cons_self ..) hx (by nofun)).tighten fun y hy _ => ?_
  rw [State.job_setJob, if_pos rfl] at hy
  cases hy
  constructor
  · rintro (e | e) <;> cases e
  · intro e
    cases e

end SingleChanges

end Sys2Proof.Machine

/-! ### Queues, assignment and release (R45, R46, R49, R50, R56 to R59) -/

namespace Sys2Proof.Machine

/-! #### A job's place in its pool's queue (R45) -/

theorem insertJob_perm (find : Fin 128 → Option Job) (j : Fin 128) (x : Job) (l : List (Fin 128)) :
    (insertJob find j x l).Perm (j :: l) := by
  induction l with
  | nil => exact List.Perm.refl _
  | cons i l ih =>
    have behind : (i :: insertJob find j x l).Perm (j :: i :: l) := (ih.cons i).trans (List.Perm.swap ..)
    unfold insertJob
    split
    · split
      · exact behind
      · exact List.Perm.refl _
    · exact behind

theorem insertJob_filter (find : Fin 128 → Option Job) (j : Fin 128) (x : Job) (l : List (Fin 128)) :
    (insertJob find j x l).filter (fun i => i != j) = l.filter fun i => i != j := by
  induction l with
  | nil => simp [insertJob]
  | cons i l ih =>
    have behind : (i :: insertJob find j x l).filter (fun i => i != j) = (i :: l).filter fun i => i != j := by
      rw [List.filter_cons, List.filter_cons, ih]
    unfold insertJob
    split
    · split
      · exact behind
      · rw [List.filter_cons (x := j)]
        simp
    · exact behind

theorem BeforeInQueue.trans {x y z : Job} (h : BeforeInQueue x y) (k : BeforeInQueue y z) : BeforeInQueue x z := by
  unfold BeforeInQueue at *
  obtain h | ⟨h1, h2⟩ := h <;> obtain k | ⟨k1, k2⟩ := k
  · exact .inl (lt_trans h k)
  · exact .inl (k1 ▸ h)
  · exact .inl (h1 ▸ k)
  · exact .inr ⟨h1.trans k1, BitVec.le_trans h2 k2⟩

/-- R45: the entering job goes behind a waiting one that is not behind it. -/
theorem before_of_goesAfter {x y : Job} (h : goesAfter x y = true) : BeforeInQueue y x := by
  unfold goesAfter at h
  simp only [Bool.or_eq_true, Bool.and_eq_true, decide_eq_true_eq, beq_iff_eq] at h
  exact h

theorem before_of_not_goesAfter {x y : Job} (h : ¬ goesAfter x y = true) : BeforeInQueue x y := by
  unfold goesAfter at h
  simp only [Bool.or_eq_true, Bool.and_eq_true, decide_eq_true_eq, beq_iff_eq, not_or, not_and] at h
  unfold BeforeInQueue
  obtain hlt | heq | hgt := lt_trichotomy x.priority y.priority
  · exact .inl hlt
  · exact .inr ⟨heq, BitVec.le_of_lt (BitVec.not_le.1 (h.2 heq.symm))⟩
  · exact absurd hgt h.1

/-- R45: a queue in order is in order with the entering job at its place. -/
theorem insertJob_inOrder {s : State} {j : Fin 128} {x : Job} (hx : s.job j = some x) :
    ∀ {l : List (Fin 128)}, l.Pairwise (InOrder s) → (∀ i ∈ l, (s.job i).isSome = true) →
      (insertJob s.job j x l).Pairwise (InOrder s)
  | [], _, _ => List.pairwise_singleton _ _
  | i :: l, hl, hlive => by
    obtain ⟨y, hy⟩ := Option.isSome_iff_exists.1 (hlive i (List.mem_cons_self ..))
    obtain ⟨hi, hrest⟩ := List.pairwise_cons.1 hl
    unfold insertJob
    simp only [hy]
    split
    · next hg =>
      refine List.pairwise_cons.2 ⟨fun k hk => ?_, insertJob_inOrder hx hrest fun k hk => hlive k (List.mem_cons_of_mem _ hk)⟩
      obtain rfl | hk := List.mem_cons.1 ((insertJob_perm _ _ _ _).mem_iff.1 hk)
      · intro a b ha hb
        cases hy.symm.trans ha
        cases hx.symm.trans hb
        exact before_of_goesAfter hg
      · exact hi k hk
    · next hg =>
      have hbefore := before_of_not_goesAfter hg
      refine List.pairwise_cons.2 ⟨fun k hk a b ha hb => ?_, hl⟩
      cases hx.symm.trans ha
      obtain rfl | hk := List.mem_cons.1 hk
      · cases hy.symm.trans hb
        exact hbefore
      · exact hbefore.trans (hi k hk y b hy hb)

section Moves

variable {v : View} {l : List (Fin 128)} {s t : State} {j : Fin 128} {x : Job}

/-- A job on a printer is not aside. -/
theorem Coherent.notAside (h : Coherent v l s) (hx : s.job j = some x) {p : Fin 32} (hp : x.printer = some p) : j ∉ l := by
  intro hj
  cases hp.symm.trans (h.aside j x hx hj).1

/-- R45: a job that is in a queue is on no printer, and not aside. -/
theorem Coherent.inQueue (h : Coherent v l s) {k : Fin 16} (hk : j ∈ (s.pool k).queue) :
    ∃ x, s.job j = some x ∧ x.phase = .queued ∧ x.pool = k ∧ x.printer = none ∧ j ∉ l := by
  obtain ⟨x, hx, hq, hpool⟩ := h.members k j hk
  refine ⟨x, hx, hq, hpool, ?_, fun hj => (h.aside j x hx hj).2 k hk⟩
  by_contra hn
  obtain e | e := (h.jobs j x hx).onPrinter hn <;> rw [hq] at e <;> cases e

theorem owns_none (hn : ∀ x, s.job j = some x → x.printer = none) : Owns s j none :=
  ⟨fun x hx _ hq => (nomatch (hn x hx).symm.trans hq), nofun⟩

/-- R45: a job aside enters its pool's queue. -/
theorem Coherent.enqueue (h : Coherent v (j :: l) s) (hj : j ∉ l) : Coherent v l (s.enqueue j) := by
  cases hx : s.job j with
  | none =>
    have e : s.enqueue j = s := by simp [State.enqueue, hx]
    rw [e]
    exact h.tighten fun x hx' => nomatch hx.symm.trans hx'
  | some x =>
    obtain ⟨hnone, hout⟩ := h.aside j x hx (List.mem_cons_self ..)
    have o := h.jobs j x hx
    have hlive : ∀ i ∈ (s.pool x.pool).queue, (s.job i).isSome = true := fun i hi => by
      obtain ⟨y, hy, _⟩ := h.members _ i hi
      rw [hy]; rfl
    have hperm := insertJob_perm s.job j x (s.pool x.pool).queue
    rw [enqueue_some hx]
    have hset : JobSet s ((s.setJob j (some { x with phase := .queued })).setQueue x.pool
        (insertJob s.job j x (s.pool x.pool).queue)) j { x with phase := .queued } := jobSet_setJob s j _
    have hpool := State.pool_setQueue (s.setJob j (some { x with phase := .queued })) x.pool
      (insertJob s.job j x (s.pool x.pool).queue)
    refine h.of_local (p := none) ⟨fun i => hset.others, fun _ _ => rfl, fun _ => rfl, fun k => ?_, rfl, .of_jli rfl⟩
      (owns_none fun y hy => by cases hx.symm.trans hy; exact hnone)
      ⟨nofun, fun y hy => ?_, fun y hy _ => ?_, fun y hy hm => absurd hm hj, fun k hk => ?_, h.bound_jobSet hset hx rfl,
        h.reserved_jobSet hset hx rfl (fun _ => rfl) fun _ => rfl⟩ rfl fun i hi => by simp [hi]
    · rw [hpool]
      split
      · next e => subst e; exact insertJob_filter _ _ _ _
      · rfl
    · cases hset.self.symm.trans hy
      exact ⟨fun hp => absurd hnone hp, o.offPrinter, fun p hp => (nomatch hnone.symm.trans hp), o.copies, o.positions,
        o.binding, nofun⟩
    · cases hset.self.symm.trans hy
      refine ⟨fun hp => (by obtain e | e := hp <;> cases e), fun _ => ?_⟩
      show j ∈ (State.pool _ x.pool).queue
      rw [hpool, if_pos rfl]
      exact hperm.mem_iff.2 (List.mem_cons_self ..)
    · have hkp : k = x.pool := by
        by_contra hne
        rw [hpool, if_neg hne] at hk
        exact hout k hk
      subst hkp
      rw [hpool, if_pos rfl]
      exact ⟨hperm.nodup_iff.2 (List.nodup_cons.2 ⟨hout _, h.once _⟩), ⟨_, hset.self, rfl, rfl⟩,
        (insertJob_inOrder hx (h.order _) hlive).imp (InOrder.congr (hset.map_eq hx rfl))⟩

end Moves
end Sys2Proof.Machine

/-! #### Leaving a queue and a printer, assignment and release -/

namespace Sys2Proof.Machine

section Moves

variable {v : View} {l : List (Fin 128)} {s t : State} {j : Fin 128} {x : Job} {p : Fin 32}

theorem queue_leaveQueue (s : State) (k i : Fin 16) (j : Fin 128) :
    ((s.leaveQueue k j).pool i).queue =
      if i = k then (s.pool k).queue.filter (fun n => n != j) else (s.pool i).queue := by
  unfold State.leaveQueue
  rw [State.pool_setQueue]
  split <;> rfl

/-- R46: with a job out of its pool's queue, the others stand as they stood. -/
theorem queue_leaveQueue_others (s : State) (k i : Fin 16) (j : Fin 128) :
    ((s.leaveQueue k j).pool i).queue.filter (fun n => n != j) = (s.pool i).queue.filter fun n => n != j := by
  rw [queue_leaveQueue]
  split
  · next e => rw [e, List.filter_filter]; simp
  · rfl

/-- R46: out of its pool's queue, a job stands in none. -/
theorem Coherent.notQueued_leaveQueue (h : Coherent v l s) (hx : s.job j = some x) (i : Fin 16) :
    j ∉ ((s.leaveQueue x.pool j).pool i).queue := by
  rw [queue_leaveQueue]
  split
  · simp
  · next hne =>
    intro hj
    obtain ⟨y, hy, _, hk⟩ := h.members i j hj
    cases hx.symm.trans hy
    exact hne hk.symm

/-- R46: a job that is on no printer comes aside as it leaves its queue. -/
theorem Coherent.leave (h : Coherent v l s) (hx : s.job j = some x) (hn : x.printer = none) :
    Coherent v (j :: l) (s.leaveQueue x.pool j) := by
  have hout := h.notQueued_leaveQueue hx
  have hset : JobSet s (s.leaveQueue x.pool j) j x := fun i => by
    show s.job i = _
    split
    · next e => rw [e, hx]
    · rfl
  refine h.of_local (p := none) ⟨fun i => hset.others, fun _ _ => rfl, fun _ => rfl, fun i => queue_leaveQueue_others s _ i j,
    rfl, .of_jli rfl⟩ (owns_none fun y hy => by cases hx.symm.trans hy; exact hn)
    ⟨nofun, fun y hy => ?_, fun y hy hm => absurd (List.mem_cons_self ..) hm, fun y hy _ => ?_, fun k hk => absurd hk (hout k),
      h.bound_jobSet hset hx rfl, h.reserved_jobSet hset hx rfl (fun _ => rfl) fun _ => rfl⟩ rfl fun i hi => by simp [hi]
  · cases hset.self.symm.trans hy
    exact (h.jobs j x hx).of_disp (fun _ => rfl) fun _ => rfl
  · cases hset.self.symm.trans hy
    exact ⟨hn, hout⟩

/-- R46: a job that is on a printer is in no queue to leave. -/
theorem Coherent.leave_absent (h : Coherent v l s) (hout : j ∉ (s.pool x.pool).queue) :
    Coherent v l (s.leaveQueue x.pool j) := by
  refine h.same ⟨fun _ => rfl, rfl, fun i => ?_, fun _ => rfl, fun _ => rfl, fun _ _ h2 h3 => ⟨h2, h3⟩, fun _ => rfl,
    fun _ => rfl, .of_jli rfl⟩
  rw [queue_leaveQueue]
  split
  · next e =>
    rw [e, List.filter_eq_self.2]
    intro n hn
    have : n ≠ j := fun e => hout (e ▸ hn)
    simp [this]
  · rfl

/-- A job record off its printer (R50). -/
def detached (x : Job) : Job := { x with printer := none, drain := none, stalled := false }

/-- R50: the dispatch record of a printer without a job. -/
def unassigned (d : Dispatch) : Dispatch := { d with assigned := none, stall := none, leaving := false }

/-- R50: what the unassignment of a live job is, by the leaving-service flag. -/
theorem detach_some (hx : s.job j = some x) (p : Fin 32) :
    s.detach j p =
      if (s.disp p).leaving then
        ((s.setDisp p (unassigned (s.disp p))).setJob j (some (detached x))).setPrinter p
          { ((s.setDisp p (unassigned (s.disp p))).setJob j (some (detached x))).printer p with inService := false }
      else (s.setDisp p (unassigned (s.disp p))).setJob j (some (detached x)) := by
  have hmod : (s.setDisp p (unassigned (s.disp p))).modJob j detached =
      (s.setDisp p (unassigned (s.disp p))).setJob j (some (detached x)) :=
    State.modJob_some (s.setDisp p (unassigned (s.disp p))) hx _
  rw [← hmod]
  rfl

/-- R49: a printer that has a job assigned has the job on it. -/
theorem Coherent.assigned_of_printer (h : Coherent v l s) (hx : s.job j = some x) (hp : x.printer = some p) :
    (s.disp p).assigned = some j := ((h.jobs j x hx).window p hp).assigned

theorem Coherent.notQueued_of_printer (h : Coherent v l s) (hx : s.job j = some x) (hp : x.printer = some p) (k : Fin 16) :
    j ∉ (s.pool k).queue := by
  intro hk
  obtain ⟨y, hy, _, _, hn, _⟩ := h.inQueue hk
  cases hx.symm.trans hy
  cases hn.symm.trans hp

/-- R50: a job with nothing in its printer's window comes aside as it is taken off the printer. -/
theorem Coherent.detach (h : Coherent v l s) (hx : s.job j = some x) (hp : x.printer = some p)
    (hw : (s.disp p).window = []) : Coherent v (j :: l) (s.detach j p) := by
  have hrec : Coherent v (j :: l) ((s.setDisp p (unassigned (s.disp p))).setJob j (some (detached x))) := by
    have hset : JobSet s ((s.setDisp p (unassigned (s.disp p))).setJob j (some (detached x))) j (detached x) :=
      jobSet_setJob _ j _
    have hdisp := State.disp_setDisp s p (unassigned (s.disp p))
    have o := h.jobs j x hx
    refine h.of_local (p := some p) ⟨fun i => hset.others, fun q hq => ?_, fun _ => rfl, fun _ => rfl, rfl, .of_jli rfl⟩
      (hp ▸ h.owns hx) ⟨fun q hq => ?_, fun y hy => ?_, fun y _ hm => absurd (List.mem_cons_self ..) hm, fun y hy _ => ?_,
        fun k hk => absurd hk (h.notQueued_of_printer hx hp k), h.bound_jobSet hset hx rfl,
        h.reserved_jobSet hset hx rfl (fun q => ?_) fun _ => rfl⟩ rfl fun i hi => by simp [hi]
    · exact (hdisp q).trans (if_neg fun e => hq (congrArg some e.symm))
    · cases hq
      have hd : ((s.setDisp p (unassigned (s.disp p))).setJob j (some (detached x))).disp p = unassigned (s.disp p) :=
        (hdisp p).trans (if_pos rfl)
      have hlim := (h.records p).limit.2
      refine ⟨fun i hi => ?_, fun _ => ?_, ?_, fun e he => ?_⟩
      · rw [hd] at hi; cases hi
      · rw [hd]; exact ⟨hw, rfl, rfl⟩
      · rw [hd]; exact ⟨by rw [show (unassigned (s.disp p)).window = [] from hw]; exact Nat.zero_le _, hlim⟩
      · rw [hd, show (unassigned (s.disp p)).window = [] from hw] at he; cases he
    · cases hset.self.symm.trans hy
      have hl := (o.window p hp).length
      rw [hw] at hl
      exact ⟨fun hn => absurd rfl hn, fun _ => hl, nofun, o.copies, o.positions, o.binding, o.cancelled⟩
    · cases hset.self.symm.trans hy
      exact ⟨rfl, h.notQueued_of_printer hx hp⟩
    · refine (congrArg Dispatch.window (hdisp q)).trans ?_
      split
      · next e => rw [e]; rfl
      · rfl
  rw [detach_some hx]
  split
  · exact hrec.setPrinter p rfl
  · exact hrec

/-- R49: the record of a job that is given a printer. -/
def printingOn (p : Fin 32) (x : Job) : Job :=
  { x with phase := .printing, printer := some p, lastPrinter := some p, drain := none, stalled := false }

/-- R49: an assignment, before the releases that are tried straight after it. -/
def State.assigned (s : State) (k : Fin 16) (p : Fin 32) (j : Fin 128) : State :=
  ((s.leaveQueue k j).modJob j (printingOn p)).setDisp p { s.disp p with assigned := some j, window := [] }

theorem assign_eq (s : State) (k : Fin 16) (p : Fin 32) (j : Fin 128) :
    s.assign k p j = State.releaseLoop ((s.assigned k p j).releaseTries p) j (s.assigned k p j) := by
  have hd : ((s.leaveQueue k j).modJob j (printingOn p)).disp p = s.disp p := State.disp_modJob _ j _ p
  unfold State.assign State.assigned
  rw [← hd]
  rfl

/-- R49: a job of the queue is given a printer that has none and serves the pool. -/
theorem Coherent.assigned {k : Fin 16} (h : Coherent v l s) (hk : j ∈ (s.pool k).queue) (hn : (s.disp p).assigned = none)
    (hc : (s.printer p).config.configured = true) (hpool : (s.printer p).config.pool = some k) :
    Coherent v l (s.assigned k p j) := by
  obtain ⟨x, hx, hq, rfl, hnone, hj⟩ := h.inQueue hk
  have o := h.jobs j x hx
  have hwin := ((h.records p).free hn).1
  have hmod : (s.leaveQueue x.pool j).modJob j (printingOn p) = (s.leaveQueue x.pool j).setJob j (some (printingOn p x)) :=
    State.modJob_some (s.leaveQueue x.pool j) hx _
  unfold State.assigned
  rw [hmod]
  have hset : JobSet s (((s.leaveQueue x.pool j).setJob j (some (printingOn p x))).setDisp p
      { s.disp p with assigned := some j, window := [] }) j (printingOn p x) := jobSet_setJob _ j _
  have hdisp := State.disp_setDisp ((s.leaveQueue x.pool j).setJob j (some (printingOn p x))) p
    { s.disp p with assigned := some j, window := [] }
  have hself := hdisp p
  rw [if_pos rfl] at hself
  refine h.of_local (p := some p) ⟨fun i => hset.others, fun q hq => ?_, fun _ => rfl, fun i => queue_leaveQueue_others s _ i j,
    rfl, .of_jli rfl⟩ ⟨fun y hy q hq => ?_, fun q hq => ?_⟩ ⟨fun q hq => ?_, fun y hy => ?_, fun y hy _ => ?_,
      fun y _ hm => absurd hm hj, fun i hi => absurd hi (h.notQueued_leaveQueue hx i), h.bound_jobSet hset hx rfl,
      h.reserved_jobSet hset hx rfl (fun q => ?_) fun _ => rfl⟩ rfl fun _ _ => Iff.rfl
  · rw [hdisp, if_neg fun e => hq (congrArg some e.symm)]; rfl
  · cases hx.symm.trans hy
    cases hnone.symm.trans hq
  · cases hq; exact .inl hn
  · cases hq
    refine ⟨fun i hi => ?_, fun hn => ?_, ?_, fun e he => ?_⟩
    · rw [hself] at hi
      cases hi
      exact ⟨_, hset.self, rfl, hc, hpool⟩
    · rw [hself] at hn; cases hn
    · rw [hself]; exact ⟨Nat.zero_le _, (h.records p).limit.2⟩
    · rw [hself] at he; cases he
  · cases hset.self.symm.trans hy
    refine ⟨fun _ => .inl rfl, nofun, fun q hq => ?_, o.copies, o.positions, o.binding, nofun⟩
    cases hq
    rw [hself]
    exact ⟨rfl, o.offPrinter hnone, rfl, nofun⟩
  · cases hset.self.symm.trans hy
    exact ⟨fun _ => nofun, nofun⟩
  · rw [hdisp]
    split
    · next e => rw [e]; exact hwin.symm
    · rfl

/-! #### Estimates and positions (R56, R112) -/

theorem rateOf_le (c : TariffClass) (z : Fin 4) (k : Ink) : rateOf c z k ≤ 65535 := by
  unfold rateOf
  split <;> exact Nat.le_of_lt_succ (BitVec.isLt _)

theorem dearerRate_le (c : TariffClass) (z : Fin 4) : dearerRate c z ≤ 65535 := by
  have h1 := rateOf_le c z .mono
  have h2 := rateOf_le c z .colour
  unfold dearerRate
  omega

theorem rebated_le (c : TariffClass) {rate : Nat} (h : rate ≤ 65535) : rebated c rate ≤ 65535 := by
  have hm : rate * (100 - c.rebate.toNat) ≤ rate * 100 := Nat.mul_le_mul_left _ (Nat.sub_le _ _)
  unfold rebated percentOf
  omega

/-- R112: a sheet's estimate is at most two sides' rates and a surcharge. -/
theorem estimate_le (c : TariffClass) (d : Nat) (z m : Fin 4) : estimate c d z m ≤ 196605 := by
  have h1 := dearerRate_le c z
  have h2 := rebated_le c h1
  have h3 : surchargeOf c m ≤ 65535 := Nat.le_of_lt_succ (BitVec.isLt _)
  unfold estimate
  split <;> omega

/-- R56: the next position is the one behind the release position. -/
structure NextIs (x : Job) (pos : Nat × Nat) : Prop where
  ordinal : ordinal x.sheets pos.1 pos.2 = x.releasePos + 1
  copyLow : 1 ≤ pos.1
  copyHigh : pos.1 ≤ x.copies
  sheetLow : 1 ≤ pos.2
  sheetHigh : pos.2 ≤ x.sheets
  first : x.isOpen = true → pos.1 = 1
  within : x.releasePos + 1 ≤ x.copies * x.sheets
  withinOpen : x.isOpen = true → x.releasePos + 1 ≤ x.sheets

theorem nextPosition_some {pos : Nat × Nat} (h : nextPosition x = some pos) (hc : 1 ≤ x.copies) : NextIs x pos := by
  unfold nextPosition at h
  split at h
  · next ho =>
    split at h
    · next hle =>
      cases h
      have hs : x.sheets ≤ x.copies * x.sheets := Nat.le_mul_of_pos_left _ hc
      exact ⟨by simp [ordinal], Nat.le_refl _, hc, by simp only; omega, hle, fun _ => rfl, by omega, fun _ => hle⟩
    · cases h
  · next ho =>
    split at h
    · next hlt =>
      cases h
      have hpos : 0 < x.sheets := Nat.pos_of_ne_zero fun e => by rw [e, Nat.mul_zero] at hlt; omega
      have hdiv : x.releasePos / x.sheets < x.copies := (Nat.div_lt_iff_lt_mul hpos).2 hlt
      have hmod := Nat.mod_lt x.releasePos hpos
      have hsum := Nat.div_add_mod' x.releasePos x.sheets
      refine ⟨?_, Nat.le_add_left .., hdiv, Nat.le_add_left .., hmod, fun e => absurd e ho, hlt, fun e => absurd e ho⟩
      show (x.releasePos / x.sheets + 1 - 1) * x.sheets + (x.releasePos % x.sheets + 1) = _
      rw [Nat.add_sub_cancel]
      omega
    · cases h

end Moves

end Sys2Proof.Machine

/-! #### Releases, the arbiter, drains and the gate (R47 to R60) -/

namespace Sys2Proof.Machine

section Arbiter

variable {v : View} {l : List (Fin 128)} {s : State} {j : Fin 128} {x : Job} {p : Fin 32}

/-! ##### Release -/

/-- R58, step 5: the entry of a released position. -/
def entryFor (r : Printer) (j : Fin 128) (pos : Nat × Nat) (e : Nat) : WindowEntry where
  feed := r.nextFeed
  job := j
  copy := pos.1
  sheet := pos.2
  estimate := e
  sent := false

/-- A job record with one more position released. -/
def oneReleased (x : Job) : Job := { x with releasePos := x.releasePos + 1 }

theorem release_some (hx : s.job j = some x) (a : Fin 512) (pos : Nat × Nat) (e : Nat) :
    ∃ r : Printer, r.config = (s.printer p).config ∧ s.release j p a pos e =
      (((s.reserve a e).setDisp p
        { s.disp p with window := (s.disp p).window ++ [entryFor (s.printer p) j pos e] }).setPrinter p r).setJob j
          (some (oneReleased x)) :=
  ⟨{ s.printer p with
      nextFeed := (s.printer p).nextFeed + 1#8
      stage := if (oldestSending (s.disp p).window).isNone then some .start else (s.printer p).stage
      naks := if (oldestSending (s.disp p).window).isNone then 0 else (s.printer p).naks }, rfl, State.modJob_some _
    (show (((s.reserve a e).setDisp p _).setPrinter p _).job j = some x from hx) oneReleased⟩

/-- A window is of the job its printer has, so it adds to that job's account alone. -/
theorem share_of_job (hx : s.job j = some x) {w : List WindowEntry} (hw : ∀ e ∈ w, e.job = j) (a : Fin 512) :
    share s.accountOf a w = if a = x.account then estimates w else 0 := by
  refine share_own (fun e he => ?_) a
  unfold State.accountOf
  rw [hw e he, hx]
  rfl

/-- `t` is `s` with the record of a job and the dispatch record of its printer changed, and reserved amounts. -/
structure WindowMoved (s t : State) (j : Fin 128) (y : Job) (p : Fin 32) (d : Dispatch) : Prop where
  job : JobSet s t j y
  disp : ∀ q, t.disp q = if q = p then d else s.disp q
  config : ∀ q, (t.printer q).config = (s.printer q).config
  queue : ∀ k, (t.pool k).queue = (s.pool k).queue
  streams : t.spm.streams = s.spm.streams
  link : LinkGrows s t

/-- The rule for a change of a window with its job's positions: the window still holds the positions between them, and the
account's reserved amount changes as the window's estimates do. -/
theorem Coherent.windowMoved {t : State} {y : Job} {d : Dispatch} (h : Coherent v l s) (hx : s.job j = some x)
    (hp : x.printer = some p) (W : WindowMoved s t j y p d)
    (hy : placeOf y = placeOf { x with releasePos := y.releasePos, confirmPos := y.confirmPos })
    (hd : WindowHolds d j y) (hlen : d.window.length ≤ (s.printer p).config.limit)
    (hown : ∀ e ∈ d.window, e.job = j ∧ e.estimate ≤ 196605)
    (hpos : y.releasePos ≤ x.copies * x.sheets ∧ (x.isOpen = true → y.releasePos ≤ x.sheets))
    (hr : ∀ a, (t.account a).reserved + (if a = x.account then estimates (s.disp p).window else 0) =
      (s.account a).reserved + if a = x.account then estimates d.window else 0) : Coherent v l t := by
  simp only [placeOf, Prod.mk.injEq] at hy
  obtain ⟨y1, y2, y3, y4, y5, _, _, y8, y9, _, _, y12⟩ := hy
  have o := h.jobs j x hx
  have hrec := h.records p
  have hwindow : ∀ e ∈ (s.disp p).window, e.job = j := fun e he => by
    have := (hrec.entries e he).1
    rw [h.assigned_of_printer hx hp] at this
    exact (Option.some.inj this).symm
  have hself : t.disp p = d := by rw [W.disp, if_pos rfl]
  have hout : ∀ k, j ∉ (t.pool k).queue := fun k => by rw [W.queue]; exact h.notQueued_of_printer hx hp k
  refine h.of_local (p := some p) ⟨fun i => W.job.others, fun q hq => ?_, W.config, fun k => by rw [W.queue], W.streams, W.link⟩
    (hp ▸ h.owns hx) ⟨fun q hq => ?_, fun z hz => ?_, fun z hz _ => ?_, fun z _ hm => absurd hm (h.notAside hx hp),
      fun k hk => absurd hk (hout k), h.bound_jobSet W.job hx y2, fun a => ?_⟩ rfl fun _ _ => Iff.rfl
  · rw [W.disp, if_neg fun e => hq (congrArg some e.symm)]
  · cases hq
    obtain ⟨z, hz, _, hc, hpool⟩ := hrec.assigned j (h.assigned_of_printer hx hp)
    cases hx.symm.trans hz
    refine ⟨fun i hi => ?_, fun hn => ?_, ?_, fun e he => ?_⟩
    · rw [hself, hd.assigned] at hi
      cases hi
      exact ⟨y, W.job.self, y12.trans hp, by rw [W.config]; exact hc, by rw [W.config, y4]; exact hpool⟩
    · rw [hself, hd.assigned] at hn; cases hn
    · rw [hself, W.config]; exact ⟨hlen, hrec.limit.2⟩
    · rw [hself] at he ⊢
      obtain ⟨h1, h2⟩ := hown e he
      exact ⟨by rw [h1]; exact hd.assigned, h2⟩
  · cases W.job.self.symm.trans hz
    refine ⟨fun _ => by rw [y1]; exact o.onPrinter (by rw [hp]; nofun), fun hn => ?_, fun q hq => ?_, by rw [y8]; exact o.copies,
      by rw [y8, y9, y3]; exact hpos, by rw [y3, y2]; exact o.binding, by rw [y1, y3]; exact o.cancelled⟩
    · rw [y12] at hn; cases hp.symm.trans hn
    · cases (y12.symm.trans hq).symm.trans hp
      rw [hself]
      exact hd
  · cases W.job.self.symm.trans hz
    have k := h.settled j x hx (h.notAside hx hp)
    exact ⟨fun _ => by rw [y12, hp]; nofun, fun hq => by rw [W.queue, y4]; exact k.queued (y1 ▸ hq)⟩
  · have hshare := fun (w : List WindowEntry) (hw : ∀ e ∈ w, e.job = j) => share_of_job hx hw a
    have h1 := reservedFor_change p (fun q hq => by rw [W.disp, if_neg hq]) (W.job.accountOf hx y5) a
    have h2 := hr a
    rw [hself, hshare _ hwindow, hshare _ fun e he => (hown e he).1] at h1
    rw [h.reserved] at h2
    omega

theorem estimates_append (w u : List WindowEntry) : estimates (w ++ u) = estimates w + estimates u := by
  simp [estimates]

/-- R58: the release of a job's next position. -/
theorem Coherent.release {pos : Nat × Nat} {e : Nat} (h : Coherent v l s) (hx : s.job j = some x) (hp : x.printer = some p)
    (hlen : (s.disp p).window.length < (s.printer p).config.limit) (hpos : nextPosition x = some pos) (he : e ≤ 196605) :
    Coherent v l (s.release j p x.account pos e) := by
  have o := h.jobs j x hx
  have hn := nextPosition_some hpos o.copies
  obtain ⟨w1, w2, w3, w4⟩ := o.window p hp
  obtain ⟨r, hr, heq⟩ := release_some (p := p) hx x.account pos e
  have hentry : ∀ y ∈ (s.disp p).window ++ [entryFor (s.printer p) j pos e],
      y ∈ (s.disp p).window ∨ y = entryFor (s.printer p) j pos e := fun y hy => by simpa using hy
  rw [heq]
  refine h.windowMoved (y := oneReleased x)
    (d := { s.disp p with window := (s.disp p).window ++ [entryFor (s.printer p) j pos e] }) hx hp
    ⟨jobSet_setJob _ j _, State.disp_setDisp (s.reserve x.account e) p _, fun q => ?_, fun _ => rfl, rfl, .of_jli rfl⟩ rfl
    ⟨w1, ?_, ?_, fun y hy => ?_⟩ ?_ (fun y hy => ?_) ⟨hn.within, hn.withinOpen⟩ fun a => ?_
  · refine (congrArg Printer.config (State.printer_setPrinter (s.reserve x.account e) p r q)).trans ?_
    split
    · next e => subst e; exact hr
    · rfl
  · show x.releasePos + 1 = x.confirmPos + _
    rw [List.length_append, w2]
    rfl
  · show ((s.disp p).window ++ [_]).map _ = List.range' (x.confirmPos + 1) _
    rw [List.length_append, List.map_append, List.length_singleton, List.range'_concat]
    refine congrArg₂ (· ++ ·) w3 (congrArg (fun n => [n]) ?_)
    refine hn.ordinal.trans ?_
    omega
  · obtain hy | rfl := hentry y hy
    · exact w4 y hy
    · exact ⟨hn.copyLow, hn.copyHigh, hn.sheetLow, hn.sheetHigh, hn.first⟩
  · rw [List.length_append]
    exact hlen
  · obtain hy | rfl := hentry y hy
    · obtain ⟨h1, h2⟩ := (h.records p).entries y hy
      rw [w1] at h1
      exact ⟨(Option.some.inj h1).symm, h2⟩
    · exact ⟨rfl, he⟩
  · rw [estimates_append]
    have hacc := congrArg Account.reserved (State.account_setAccount s x.account
      { s.account x.account with reserved := (s.account x.account).reserved + e } a)
    have hres : (((((s.reserve x.account e).setDisp p
        { s.disp p with window := (s.disp p).window ++ [entryFor (s.printer p) j pos e] }).setPrinter p r).setJob j
          (some (oneReleased x))).account a).reserved = if a = x.account then (s.account x.account).reserved + e else
            (s.account a).reserved := by
      refine hacc.trans ?_
      split <;> rfl
    rw [hres]
    split
    · next ea =>
      rw [ea, show estimates [entryFor (s.printer p) j pos e] = e by simp [estimates, entryFor]]
      omega
    · rfl

/-- R57: what the conditions of a release ask of the window. -/
theorem window_of_mayRelease (h : s.mayRelease x p = true) : (s.disp p).window.length < (s.printer p).config.limit := by
  unfold State.mayRelease at h
  simp only [Bool.and_eq_true, decide_eq_true_eq] at h
  exact h.2

/-- R58, step 1: a next estimate is of the next position, and in its range. -/
theorem nextEstimate_some {pos : Nat × Nat} {e : Nat} (h : s.nextEstimate x = some (pos, e)) :
    nextPosition x = some pos ∧ e ≤ 196605 := by
  unfold State.nextEstimate at h
  split at h
  · next hpos =>
    split at h
    · cases h
      exact ⟨hpos, estimate_le _ _ _ _⟩
    · cases h
  · cases h

/-! ##### The gate and the drain for BUDGET -/

theorem Coherent.holdForBudget (h : Coherent v l s) (hx : s.job j = some x) (hp : x.printer = some p)
    (hw : (s.disp p).window = []) : Coherent v l (s.holdForBudget j p) := by
  have hheld : Coherent v l (s.setJob j (some (holdDrained x))) := h.setJob_same hx rfl
  have hj : (s.setJob j (some (holdDrained x))).job j = some (holdDrained x) := (jobSet_setJob s j _).self
  have hoff := hheld.detach hj hp hw
  unfold State.holdForBudget
  rw [State.modJob_some s hx]
  cases hd : ((s.setJob j (some (holdDrained x))).detach j p).job j with
  | none =>
    rw [State.modJob_none _ hd]
    exact hoff.tighten fun y hy => nomatch hd.symm.trans hy
  | some y =>
    rw [State.modJob_some _ hd]
    exact hoff.holdAside hd

theorem Coherent.gateFailed (h : Coherent v l s) (hx : s.job j = some x) (hp : x.printer = some p) (a : Fin 512) :
    Coherent v l (s.gateFailed j p a) := by
  have h1 : Coherent v l ((s.modJob j fun y => { y with drain := some .budget }).raise (budgetKey a)) := by
    refine (h.modJob_same j ?_).raise _
    exact fun _ => rfl
  have hj : ((s.modJob j fun y => { y with drain := some .budget }).raise (budgetKey a)).job j =
      some { x with drain := some .budget } := by
    rw [State.modJob_some s hx]
    exact (job_raiseAt _ _ _ _ _).trans (jobSet_setJob s j _).self
  unfold State.gateFailed
  dsimp only
  split
  · next hw => exact h1.holdForBudget hj hp (List.isEmpty_iff.1 hw)
  · exact h1

/-- R57: releases tried keep the agreement. -/
theorem Coherent.releaseLoop (j : Fin 128) : ∀ (fuel : Nat) {s : State}, Coherent v l s →
    Coherent v l (State.releaseLoop fuel j s)
  | 0, _, h => h
  | fuel + 1, s, h => by
    unfold State.releaseLoop
    split
    · exact h
    next x hx =>
    split
    · exact h
    next p hp =>
    split
    · next hm =>
      split
      · exact h
      next pos e hn =>
      obtain ⟨hpos, he⟩ := nextEstimate_some hn
      split
      · exact Coherent.releaseLoop j fuel (h.release hx hp (window_of_mayRelease hm) hpos he)
      · exact h.gateFailed hx hp _
    · exact h

/-! ##### The arbiter -/

/-- R47: what availability asks of the printer's record. -/
theorem unassigned_of_available (h : s.available p = true) :
    (s.disp p).assigned = none ∧ (s.printer p).config.configured = true := by
  unfold State.available at h
  simp only [Bool.and_eq_true, Option.isNone_iff_eq_none] at h
  obtain ⟨⟨⟨⟨⟨⟨⟨⟨hc, _⟩, _⟩, _⟩, _⟩, _⟩, ha⟩, _⟩, _⟩ := h
  exact ⟨ha, hc⟩

/-- R48: the printer picked has no job and serves the pool, and the job is one of the pool's queue. -/
theorem pick_some {k : Fin 16} (h : s.pick k = some (p, j)) :
    (s.disp p).assigned = none ∧ (s.printer p).config.configured = true ∧ (s.printer p).config.pool = some k ∧
      j ∈ (s.pool k).queue := by
  obtain ⟨q, _, hq⟩ := List.exists_of_findSome?_eq_some h
  split at hq
  · next ha =>
    simp only [Bool.and_eq_true, beq_iff_eq] at ha
    obtain ⟨n, hn, e⟩ := Option.map_eq_some_iff.1 hq
    cases e
    obtain ⟨h1, h2⟩ := unassigned_of_available ha.1
    exact ⟨h1, h2, ha.2, List.mem_of_find?_eq_some hn⟩
  · cases hq

theorem Coherent.assign {k : Fin 16} (h : Coherent v l s) (hk : j ∈ (s.pool k).queue) (hn : (s.disp p).assigned = none)
    (hc : (s.printer p).config.configured = true) (hpool : (s.printer p).config.pool = some k) :
    Coherent v l (s.assign k p j) := by
  rw [assign_eq]
  exact (h.assigned hk hn hc hpool).releaseLoop j _

/-- R48: a run of the arbiter keeps the agreement. -/
theorem Coherent.arbiterLoop (k : Fin 16) : ∀ (fuel : Nat) {s : State}, Coherent v l s →
    Coherent v l (State.arbiterLoop fuel k s)
  | 0, _, h => h
  | fuel + 1, s, h => by
    unfold State.arbiterLoop
    split
    · exact h
    · next p j hpick =>
      obtain ⟨hn, hc, hpool, hk⟩ := pick_some hpick
      have hq : ((s.setPool k { s.pool k with pointer := p }).pool k).queue = (s.pool k).queue := by
        rw [State.pool_setPool, if_pos rfl]
      exact Coherent.arbiterLoop k fuel (Coherent.assign (s := s.setPool k { s.pool k with pointer := p })
        (h.setPool k rfl) (hq ▸ hk) hn hc hpool)

theorem Coherent.runArbiter (h : Coherent v l s) (k : Fin 16) : Coherent v l (s.runArbiter k) := by
  unfold State.runArbiter
  split
  · exact h.arbiterLoop k _
  · exact h

theorem Coherent.offerPrinter (h : Coherent v l s) (p : Fin 32) : Coherent v l (s.offerPrinter p) := by
  unfold State.offerPrinter
  split
  · split
    · exact h.runArbiter _
    · exact h
  · exact h

/-- R45: a job aside is put back into its pool's queue, and the arbiter runs. -/
theorem Coherent.requeue (h : Coherent v (j :: l) s) (hj : j ∉ l) : Coherent v l (s.requeue j) := by
  unfold State.requeue
  split
  · exact (h.enqueue hj).runArbiter _
  · next hn => exact h.tighten fun x hx => nomatch hn.symm.trans hx

/-- R54: a drain ends where the window is empty. -/
theorem Coherent.endDrain (h : Coherent v l s) (hx : s.job j = some x) (hp : x.printer = some p)
    (hw : (s.disp p).window = []) : Coherent v l (s.endDrain j p) := by
  have hj := h.notAside hx hp
  have hheld : Coherent v l (s.setJob j (some (holdDrained x))) := h.setJob_same hx rfl
  have hset : (s.setJob j (some (holdDrained x))).job j = some (holdDrained x) := (jobSet_setJob s j _).self
  have hoff := (hheld.detach hset hp hw).offerPrinter p
  unfold State.endDrain
  rw [State.modJob_some s hx]
  dsimp only
  split
  · next y hy =>
    split
    · exact hoff.requeue hj
    · exact hoff.holdAside hy
  · next hn => exact hoff.tighten fun y hy => nomatch hn.symm.trans hy

/-- R57: releases tried for a job, and a printer that it lost offered. -/
theorem Coherent.tryReleases (h : Coherent v l s) (j : Fin 128) : Coherent v l (s.tryReleases j) := by
  unfold State.tryReleases
  split
  · split
    · dsimp only
      split
      · exact h.releaseLoop j _
      · exact (h.releaseLoop j _).offerPrinter _
    · exact h
  · exact h

/-! ##### The gate's retry and the account change (R60, R131) -/

theorem Coherent.retryGate (h : Coherent v l s) (j : Fin 128) : Coherent v l (s.retryGate j) := by
  unfold State.retryGate
  split
  · next x hx =>
    split
    · split
      · split
        · refine (h.setJob_same hx ?_).budgetTest _
          rfl
        · exact h
      · exact h
    · exact h
  · exact h

theorem Coherent.retryForAccount (h : Coherent v l s) (a : Fin 512) (j : Fin 128) :
    Coherent v l (State.retryForAccount a s j) := by
  unfold State.retryForAccount
  split
  · split
    · have h1 := h.retryGate j
      dsimp only
      split
      · split
        · exact h1.tryReleases j
        · exact h1
      · exact h1
    · exact h
  · exact h

theorem Coherent.unholdBudget (h : Coherent v l s) (a : Fin 512) (j : Fin 128) :
    Coherent v l (State.unholdBudget a s j) := by
  unfold State.unholdBudget
  split
  · next x hx =>
    split
    · exact h.setJob_same hx rfl
    · exact h
  · exact h

/-- R45: a job that waits in no queue enters its pool's. -/
theorem Coherent.requeue_waiting (h : Coherent v [] s) (hx : s.job j = some x) (hp : x.phase = .spooling ∨ x.phase = .held) :
    Coherent v [] (s.requeue j) :=
  (h.loosen fun y hy => by cases hx.symm.trans hy; exact h.aside_of_phase hx hp).requeue List.not_mem_nil

theorem Coherent.requeueUnheld (h : Coherent v [] s) (j : Fin 128) : Coherent v [] (s.requeueUnheld j) := by
  unfold State.requeueUnheld
  split
  · next x hx =>
    split
    · next hp => exact h.requeue_waiting hx (.inr hp.1)
    · exact h
  · exact h

/-- R60, R131: an account change keeps the agreement. -/
theorem Coherent.accountChange (h : Coherent v [] s) (a : Fin 512) : Coherent v [] (s.accountChange a) := by
  have h1 : Coherent v [] (s.each (List.finRange 128) (State.retryForAccount a)) :=
    State.each_kept (fun _ j ht => ht.retryForAccount a j) _ h
  have h2 : ∀ held, Coherent v [] (((s.each (List.finRange 128) (State.retryForAccount a)).each held
      (State.unholdBudget a)).budgetTest a) := fun held =>
    (State.each_kept (P := Coherent v []) (fun _ j ht => ht.unholdBudget a j) held h1).budgetTest a
  unfold State.accountChange
  exact (State.each_kept (fun _ j ht => ht.requeueUnheld j) _ (h2 _)).budgetTest a

theorem Coherent.tryPrinting (h : Coherent v l s) (j : Fin 128) : Coherent v l (s.tryPrinting j) := by
  unfold State.tryPrinting
  split
  · split
    · exact h.tryReleases j
    · exact h
  · exact h

theorem Coherent.resumeDispatch (h : Coherent v l s) : Coherent v l s.resumeDispatch :=
  State.each_kept (fun _ j ht => ht.tryPrinting j) _ (State.each_kept (fun _ k ht => ht.runArbiter k) _ h)

end Arbiter

end Sys2Proof.Machine

/-! #### Ends, deliveries and losses (R20 to R23, R62, R63, R124, R127) -/

namespace Sys2Proof.Machine

section Ends

variable {v : View} {l : List (Fin 128)} {s t : State} {j : Fin 128} {x : Job} {p : Fin 32}

/-! ##### The end of a job -/

theorem agreeingParts_freeSheetBlocks (s : State) (n : Nat) : agreeingParts (s.freeSheetBlocks n) = agreeingParts s := by
  unfold State.freeSheetBlocks
  split <;> rfl

theorem Coherent.freeSheetBlocks (h : Coherent v l s) (n : Nat) : Coherent v l (s.freeSheetBlocks n) :=
  h.neutral (agreeingParts_freeSheetBlocks s n) (linkGrows_freeSheetBlocks s n)

theorem agreeingParts_freeSheets (s : State) (sheets : List Nat) : agreeingParts (s.freeSheets sheets) = agreeingParts s :=
  State.each_kept (P := fun t => agreeingParts t = agreeingParts s)
    (fun t n ht => (agreeingParts_freeSheetBlocks t n).trans ht) sheets rfl

theorem Coherent.freeSheets (h : Coherent v l s) (sheets : List Nat) : Coherent v l (s.freeSheets sheets) :=
  h.neutral (agreeingParts_freeSheets s sheets) (linkGrows_freeSheets s sheets)

theorem Coherent.unbindJob (h : Coherent v l s) (a : Fin 512) (b : Fin 2) : Coherent v l (s.unbindJob a b) := by
  have h1 : Coherent v l (s.setAccount a { s.account a with bound := (s.account a).bound - 1 }) := h.setAccount a rfl
  exact h1.neutral rfl (.of_jli rfl)

theorem Coherent.released (h : Coherent v l s) (x : Job) (o : JobOutcome) (c : Cause) : Coherent v l (s.released x o c) :=
  ((h.hand _).freeSheets _).unbindJob _ _

theorem agreeingParts_hand (s : State) (f : OutFrame) : agreeingParts (s.hand f) = agreeingParts s := by
  rw [hand_only]
  rfl

theorem released_job (s : State) (x : Job) (o : JobOutcome) (c : Cause) (j : Fin 128) :
    (s.released x o c).job j = s.job j := by
  have hparts := (agreeingParts_freeSheets (s.hand (.jobReport (reportOf x o c))) x.sheetList).trans
    (agreeingParts_hand s (.jobReport (reportOf x o c)))
  exact congrArg (fun k => k.1.get j) hparts

/-- R22, step 7: the slot of a job aside that no stream is bound to is made FREE. -/
theorem Coherent.free (h : Coherent v (j :: l) s) (hb : ∀ i, v.bound i ≠ .opened j) :
    Coherent v l (s.setJob j none) := by
  have hnone : (s.setJob j none).job j = none := by rw [State.job_setJob, if_pos rfl]
  have hother : ∀ i, i ≠ j → (s.setJob j none).job i = s.job i := fun i hi => by rw [State.job_setJob, if_neg hi]
  have hoff : ∀ x, s.job j = some x → x.printer = none := fun x hx => (h.aside j x hx (List.mem_cons_self ..)).1
  have hout : ∀ k, j ∉ (s.pool k).queue := fun k hk => by
    obtain ⟨_, _, _, _, _, hj⟩ := h.inQueue hk
    exact hj (List.mem_cons_self ..)
  have hassigned : ∀ q, (s.disp q).assigned ≠ some j := fun q hq => by
    obtain ⟨x, hx, hp, _⟩ := (h.records q).assigned j hq
    cases (hoff x hx).symm.trans hp
  refine h.of_local (local_setJob s j none none) (owns_none hoff)
    ⟨nofun, fun y hy => (nomatch hnone.symm.trans hy), fun y hy => (nomatch hnone.symm.trans hy),
      fun y hy => (nomatch hnone.symm.trans hy), fun k hk => absurd hk (hout k), fun i n => ?_, fun a => ?_⟩ rfl
    fun i hi => by simp [hi]
  · by_cases hn : n = j
    · subst hn
      exact ⟨fun hi => absurd hi (hb i), fun ⟨y, hy, _⟩ => nomatch hnone.symm.trans hy⟩
    · exact (h.bound i n).trans (BoundTo.congr (congrArg (Option.bind · Job.stream) (hother n hn))).symm
  · refine (h.reserved a).trans ?_
    refine (reservedFor_congr (t := s.setJob j none)
      (fun q => congrArg Dispatch.window (State.disp_setJob s j none q)) (fun q e he => ?_) a).symm
    have hne : e.job ≠ j := fun ej => hassigned q (ej ▸ ((h.records q).entries e he).1)
    unfold State.accountOf
    rw [hother _ hne]

theorem Coherent.slotFreed (h : Coherent v (j :: l) s) (hb : ∀ i, v.bound i ≠ .opened j) (a : Fin 512) :
    Coherent v l (s.slotFreed j a) := ((h.free hb).budgetTest a).applyWatermarks

/-- R22, steps 5 and 6: the ended job is out of its queue and off its printer. -/
theorem Coherent.unqueued (h : Coherent v l s) (hx : s.job j = some x)
    (hw : ∀ p, x.printer = some p → (s.disp p).window = []) : Coherent v (j :: l) (s.unqueued j x) := by
  unfold State.unqueued State.unassignEnded
  split
  · next p hp =>
    have hleft := h.leave_absent (x := x) (h.notQueued_of_printer hx hp _)
    exact (hleft.detach hx hp (hw p hp)).offerPrinter p
  · next hn => exact h.leave hx hn

/-- R3: no stream is bound to a job that is not open. -/
theorem Coherent.unbound (h : Coherent v l s) (hx : s.job j = some x) (ho : x.isOpen = false) (i : Fin 15) :
    v.bound i ≠ .opened j := by
  intro hi
  obtain ⟨y, hy, hs⟩ := (h.bound i j).1 hi
  cases hx.symm.trans hy
  have hb := (h.jobs j x hx).binding
  rw [ho, hs] at hb
  cases hb

/-- R22: a job with nothing in a window ends once its stream is no longer bound to it. -/
theorem Coherent.endJob (h : Coherent v l s) (hx : s.job j = some x) (ho : x.isOpen = false)
    (hw : ∀ p, x.printer = some p → (s.disp p).window = []) (o : JobOutcome) (c : Cause) :
    Coherent v l (s.endJob j o c) := by
  have hjob : (s.released x o c).job j = some x := (released_job s x o c j).trans hx
  rw [endJob_steps hx]
  refine ((h.released x o c).unqueued hjob fun p hp => ?_).slotFreed (h.unbound hx ho) _
  rw [released_disp]
  exact hw p hp

end Ends

end Sys2Proof.Machine

/-! #### Losses and deliveries (R62, R63, R124, R127) -/

namespace Sys2Proof.Machine

section Losses

variable {v : View} {l : List (Fin 128)} {s t : State} {j : Fin 128} {x : Job} {p : Fin 32}

/-! ##### Losses -/

theorem reserved_unreserve (s : State) (a b : Fin 512) (e : Nat) :
    ((s.unreserve a e).account b).reserved = (s.account b).reserved - if b = a then e else 0 := by
  unfold State.unreserve
  rw [State.account_setAccount]
  split
  · next h => rw [h]
  · rfl

/-- R127: what the lost entries' estimates leave reserved. -/
theorem reserved_each_unreserve (a b : Fin 512) : ∀ (w : List WindowEntry) (s : State),
    ((s.each w fun t y => t.unreserve a y.estimate).account b).reserved =
      (s.account b).reserved - if b = a then estimates w else 0
  | [], s => by simp [State.each, estimates]
  | e :: w, s => by
    show (((s.unreserve a e.estimate).each w fun t y => t.unreserve a y.estimate).account b).reserved = _
    rw [reserved_each_unreserve a b w, reserved_unreserve]
    split
    · show _ - e.estimate - estimates w = _ - (e.estimate + estimates w)
      omega
    · rfl

/-- R123: what a job's window has reserved is part of its account's reserved amount. -/
theorem Coherent.estimates_le (h : Coherent v l s) (hx : s.job j = some x) (hp : x.printer = some p) :
    estimates (s.disp p).window ≤ (s.account x.account).reserved := by
  have hown : ∀ e ∈ (s.disp p).window, e.job = j := fun e he => by
    have ha := ((h.records p).entries e he).1
    rw [h.assigned_of_printer hx hp] at ha
    exact (Option.some.inj ha).symm
  have hshare := share_of_job hx hown x.account
  rw [if_pos rfl] at hshare
  rw [h.reserved, reservedFor_eq, ← hshare]
  exact Finset.single_le_sum (f := fun q => share s.accountOf x.account (s.disp q).window) (fun _ _ => Nat.zero_le _)
    (Finset.mem_univ p)

/-- The job of a window entry is on the printer. -/
theorem Coherent.job_of_entry (h : Coherent v l s) {e : WindowEntry} (he : e ∈ (s.disp p).window) :
    ∃ x, s.job e.job = some x ∧ x.printer = some p := by
  obtain ⟨x, hx, hp, _⟩ := (h.records p).assigned e.job ((h.records p).entries e he).1
  exact ⟨x, hx, hp⟩

theorem loseFrom_none {k : Nat} (h : (s.disp p).window[k]? = none) : s.loseFrom p k = s := by
  simp [State.loseFrom, h]

/-- R61: the first k entries of a window are of the first k positions after the confirm position. -/
theorem WindowHolds.take {d : Dispatch} (h : WindowHolds d j x) {k : Nat} (hk : k ≤ d.window.length) {y : Job}
    (hy : placeOf y = placeOf { x with releasePos := x.confirmPos + k }) :
    WindowHolds { d with window := d.window.take k } j y := by
  simp only [placeOf, Prod.mk.injEq] at hy
  obtain ⟨_, _, y3, _, _, _, _, y8, y9, y10, y11, _⟩ := hy
  have hlen : (d.window.take k).length = k := by rw [List.length_take, Nat.min_eq_left hk]
  refine ⟨h.assigned, ?_, ?_, fun e he => ?_⟩
  · rw [y10, y11, hlen]
  · rw [y9, y11, hlen, List.map_take, h.places, List.take_range'_of_length_ge hk]
  · have := h.entries e (List.mem_of_mem_take he)
    unfold EntryInside at this ⊢
    rw [y8, y9, y3]
    exact this

/-- R63: the first lost entry's position is the one behind those kept. -/
theorem WindowHolds.rewound {d : Dispatch} (h : WindowHolds d j x) {k : Nat} {e : WindowEntry} (he : d.window[k]? = some e) :
    ordinal x.sheets e.copy e.sheet - 1 = x.confirmPos + k := by
  have hk := (List.getElem?_eq_some_iff.1 he).1
  have hp := congrArg (fun m => m[k]?) h.places
  simp only [List.getElem?_map, he, Option.map_some] at hp
  rw [List.getElem?_range' hk] at hp
  have := Option.some.inj hp
  omega

/-- R63, R127: a loss of entries keeps the agreement. -/
theorem Coherent.loseFrom (h : Coherent v l s) (p : Fin 32) (k : Nat) : Coherent v l (s.loseFrom p k) := by
  cases he : (s.disp p).window[k]? with
  | none => rwa [loseFrom_none he]
  | some e =>
    obtain ⟨x, hx, hp⟩ := h.job_of_entry (List.mem_of_getElem? he)
    have hd := (h.jobs _ x hx).window p hp
    have hk := (List.getElem?_eq_some_iff.1 he).1
    have hpos := hd.rewound he
    have hlost := entriesLost_loseFrom he hx
    have hest : estimates (s.disp p).window =
        estimates ((s.disp p).window.take k) + estimates ((s.disp p).window.drop k) := by
      rw [← estimates_append, List.take_append_drop]
    have hle := h.estimates_le hx hp
    refine h.windowMoved hx hp ⟨hlost.job, hlost.disp, fun q => by rw [hlost.printer], fun q => ?_, ?_, .of_jli hlost.jli⟩ rfl
      (hd.take (Nat.le_of_lt hk) ?_) ?_ (fun y hy => ?_) ?_ fun a => ?_
    · rw [loseFrom_some he hx, each_unreserve_only]
      rfl
    · rw [loseFrom_some he hx, each_unreserve_only]
      rfl
    · simp only [placeOf, Sys2Proof.Machine.rewound, hpos]
    · exact Nat.le_trans (List.length_take_le' ..) (h.records p).limit.1
    · have ho := (h.records p).entries y (List.mem_of_mem_take hy)
      rw [hd.assigned] at ho
      exact ⟨(Option.some.inj ho.1).symm, ho.2⟩
    · obtain ⟨hc, ho⟩ := (h.jobs _ x hx).positions
      have hlen := hd.length
      show ordinal x.sheets e.copy e.sheet - 1 ≤ _ ∧ (x.isOpen = true → ordinal x.sheets e.copy e.sheet - 1 ≤ x.sheets)
      rw [hpos]
      exact ⟨by omega, fun hop => by have := ho hop; omega⟩
    · rw [loseFrom_some he hx, reserved_each_unreserve]
      show (s.account a).reserved - _ + _ = (s.account a).reserved + if _ then estimates ((s.disp p).window.take k) else 0
      split
      · next ea => subst ea; omega
      · rfl

/-- R63: a loss shortens one window and leaves every printer its job. -/
theorem disp_loseFrom (s : State) (p q : Fin 32) (k : Nat) :
    (s.loseFrom p k).disp q = if q = p then { s.disp p with window := (s.disp p).window.take k } else s.disp q := by
  cases he : (s.disp p).window[k]? with
  | none =>
    have htake : (s.disp p).window.take k = (s.disp p).window := List.take_of_length_le (List.getElem?_eq_none_iff.1 he)
    rw [loseFrom_none he, htake]
    split
    · next e => rw [e]
    · rfl
  | some e =>
    have hw := disp_setWindow s p q ((s.disp p).window.take k)
    unfold State.loseFrom
    simp only [he]
    split
    · exact hw
    · rw [each_unreserve_only]
      exact (State.disp_modJob _ _ _ q).trans hw

theorem assigned_loseFrom (s : State) (p q : Fin 32) (k : Nat) :
    ((s.loseFrom p k).disp q).assigned = (s.disp q).assigned := by
  rw [disp_loseFrom]
  split
  · next e => rw [e]
  · rfl

theorem window_loseFrom_zero (s : State) (p : Fin 32) : ((s.loseFrom p 0).disp p).window = [] := by
  rw [disp_loseFrom, if_pos rfl]
  rfl

/-! ##### What follows a change of a window -/

/-- R23: a CANCELLING job with nothing in its printer's window ends. -/
theorem Coherent.endCancelled (h : Coherent v l s) (hx : s.job j = some x) (hc : x.phase = .cancelling)
    (hw : ∀ p, x.printer = some p → (s.disp p).window = []) : Coherent v l (s.endCancelled j) := by
  unfold State.endCancelled
  split
  · split
    · exact h.endJob hx ((h.jobs j x hx).cancelled hc) hw _ _
    · exact h
  · exact h

/-- R60: the gate's retry leaves the dispatch records as they are. -/
theorem disp_retryGate (s : State) (j : Fin 128) (p : Fin 32) : (s.retryGate j).disp p = s.disp p := by
  unfold State.retryGate
  split
  · split
    · split
      · split
        · rw [budgetTest_alertOnly]
          rfl
        · rfl
      · rfl
    · rfl
  · rfl

/-- The job that a printer's record names is live and on the printer. -/
theorem Coherent.job_of_assigned (h : Coherent v l s) (ha : (s.disp p).assigned = some j) :
    ∃ x, s.job j = some x ∧ x.printer = some p := by
  obtain ⟨x, hx, hp, _⟩ := (h.records p).assigned j ha
  exact ⟨x, hx, hp⟩

/-- R62, R63: what follows a delivery or a loss in the window of a job's printer. -/
theorem Coherent.afterWindowChange (h : Coherent v l s) (ha : (s.disp p).assigned = some j) :
    Coherent v l (s.afterWindowChange j p) := by
  obtain ⟨x, hx, hp⟩ := h.job_of_assigned ha
  have h1 := h.retryGate j
  have ha1 : ((s.retryGate j).disp p).assigned = some j := by rw [disp_retryGate]; exact ha
  unfold State.afterWindowChange
  simp only [hx]
  split
  · split
    · next y hy =>
      obtain ⟨z, hz, hzp⟩ := h1.job_of_assigned ha1
      cases hy.symm.trans hz
      split
      · next hw =>
        simp only [Bool.and_eq_true, List.isEmpty_iff] at hw
        exact h1.endDrain hy hzp hw.1
      · exact h1.tryReleases j
    · exact h1
  · next hc =>
    split
    · next hw =>
      refine h.endCancelled hx hc fun q hq => ?_
      cases hp.symm.trans hq
      exact List.isEmpty_iff.1 hw
    · exact h
  · exact h

/-- R63: a loss, and what follows it. -/
theorem Coherent.lose (h : Coherent v l s) (p : Fin 32) (k : Nat) : Coherent v l (s.lose p k) := by
  unfold State.lose
  split
  · next e he =>
    refine (h.loseFrom p k).afterWindowChange ?_
    rw [assigned_loseFrom]
    exact ((h.records p).entries e (List.mem_of_getElem? he)).1
  · exact h

/-! ##### Needs-drop -/

theorem Coherent.queueDropSheets (h : Coherent v l s) (p : Fin 32) (b : Bool) : Coherent v l (s.queueDropSheets p b) := by
  refine h.neutral ?_ (.of_jli ?_)
  · rw [queueDropSheets_only]
    rfl
  · rw [queueDropSheets_only]

theorem Coherent.setNeedsDrop (h : Coherent v l s) (p : Fin 32) (f : Byte) : Coherent v l (s.setNeedsDrop p f) := by
  rw [setNeedsDrop_eq]
  refine Coherent.queueDropSheets ?_ p false
  exact h.setPrinter p rfl

theorem disp_setNeedsDrop (s : State) (p q : Fin 32) (f : Byte) : (s.setNeedsDrop p f).disp q = s.disp q := by
  rw [setNeedsDrop_only]
  rfl

theorem job_setNeedsDrop (s : State) (p : Fin 32) (f : Byte) (j : Fin 128) : (s.setNeedsDrop p f).job j = s.job j := by
  rw [setNeedsDrop_only]
  rfl

theorem Coherent.loseAllAndDrop (h : Coherent v l s) (p : Fin 32) : Coherent v l (s.loseAllAndDrop p) := by
  unfold State.loseAllAndDrop
  split
  · exact h
  · next e rest hw =>
    refine ((h.loseFrom p 0).setNeedsDrop p _).afterWindowChange ?_
    rw [disp_setNeedsDrop, assigned_loseFrom]
    exact ((h.records p).entries e (hw ▸ List.mem_cons_self ..)).1

/-! ##### Deliveries -/

theorem disp_of_agreeing (k : agreeingParts t = agreeingParts s) (p : Fin 32) : t.disp p = s.disp p :=
  congrArg (fun u => u.2.2.1.printers.get p) k

theorem agreeingParts_applyWatermarks (s : State) : agreeingParts s.applyWatermarks = agreeingParts s := by
  rw [applyWatermarks_only]
  rfl

theorem agreeingParts_freeDelivered (s : State) (x : Job) (e : WindowEntry) :
    agreeingParts (s.freeDelivered x e) = agreeingParts s := by
  unfold State.freeDelivered
  split
  · split
    · exact (agreeingParts_applyWatermarks _).trans (agreeingParts_freeSheetBlocks s _)
    · rfl
  · rfl

theorem Coherent.freeDelivered (h : Coherent v l s) (x : Job) (e : WindowEntry) : Coherent v l (s.freeDelivered x e) := by
  unfold State.freeDelivered
  split
  · split
    · exact (h.freeSheetBlocks _).applyWatermarks
    · exact h
  · exact h

/-- R62, R124: a job record with one more sheet delivered, for a charge c. -/
def oneDelivered (x : Job) (c : Nat) : Job :=
  { x with confirmPos := x.confirmPos + 1, chargeTotal := satAdd Config.max32 x.chargeTotal c }

/-- R61: behind the oldest entry, a window is of the positions behind the next confirm position. -/
theorem WindowHolds.tail {d : Dispatch} (h : WindowHolds d j x) {e : WindowEntry} {rest : List WindowEntry}
    (hw : d.window = e :: rest) (c : Nat) : WindowHolds { d with window := rest } j (oneDelivered x c) := by
  have hl := h.length
  have hp := h.places
  rw [hw] at hl hp
  rw [List.length_cons] at hl hp
  rw [List.map_cons, List.range'_succ] at hp
  refine ⟨h.assigned, ?_, (List.cons.inj hp).2, fun y hy => h.entries y (hw ▸ List.mem_cons_of_mem _ hy)⟩
  show x.releasePos = x.confirmPos + 1 + rest.length
  omega

/-- R62: a job record with its confirm position one further. -/
def oneConfirmed (x : Job) : Job := { x with confirmPos := x.confirmPos + 1 }

/-- R124: what an account is charged for. -/
def State.chargeFor (s : State) (x : Job) (z m : Fin 4) (printed : List Ink) : Nat :=
  charge (s.jobClass x) z m printed (tierApplies (s.account x.account))

/-- R62, R124: the Dispatch Scheduler's and the Account Meter's part of a delivery. -/
def State.delivered (s : State) (p : Fin 32) (x : Job) (e : WindowEntry) (rest : List WindowEntry) (z m : Fin 4)
    (printed : List Ink) : State :=
  ((s.setWindow p rest).modJob e.job oneConfirmed).takeCharge p e.job x e.estimate z m printed

theorem config_setWindow (s : State) (p q : Fin 32) (w : List WindowEntry) :
    ((s.setWindow p w).printer q).config = (s.printer q).config := by rw [printer_setWindow]

theorem takeCharge_some {y : Job} (hy : s.job j = some y) (p : Fin 32) (x : Job) (e : Nat) (z m : Fin 4)
    (printed : List Ink) :
    s.takeCharge p j x e z m printed =
      ((s.setAccount x.account (chargeAccount (s.account x.account) e (s.chargeFor x z m printed) printed)).setJob j
        (some { y with chargeTotal := satAdd Config.max32 y.chargeTotal (s.chargeFor x z m printed) })).setMeters p
          (raiseMeters (s.acm.meters.get p) printed) := by
  unfold State.takeCharge
  dsimp only
  rw [State.modJob_some (s.setAccount x.account _) hy]
  rfl

theorem JobSet.again {u : State} {y z : Job} (h : JobSet s u j y) (k : JobSet u t j z) : JobSet s t j z := fun i => by
  rw [k i]
  split
  · rfl
  · next hi => rw [h i, if_neg hi]

theorem Coherent.delivered (h : Coherent v l s) {e : WindowEntry} {rest : List WindowEntry}
    (hw : (s.disp p).window = e :: rest) (hx : s.job e.job = some x) (hp : x.printer = some p) (z m : Fin 4)
    (printed : List Ink) : Coherent v l (s.delivered p x e rest z m printed) := by
  have hd := (h.jobs _ x hx).window p hp
  have hle := h.estimates_le hx hp
  rw [hw] at hle
  have hest : estimates (e :: rest) = e.estimate + estimates rest := rfl
  have hset : JobSet s ((s.setWindow p rest).setJob e.job (some (oneConfirmed x))) e.job
      (oneConfirmed x) := jobSet_setJob (s.setWindow p rest) _ _
  unfold State.delivered
  rw [State.modJob_some (s.setWindow p rest) hx, takeCharge_some hset.self]
  generalize State.chargeFor _ x z m printed = c
  refine h.windowMoved (y := oneDelivered x c) hx hp ⟨hset.again (jobSet_setJob _ _ _), fun q => disp_setWindow s p q rest,
    fun q => config_setWindow s p q rest, fun _ => rfl, rfl, .of_jli rfl⟩ rfl
    (hd.tail hw _) ?_ (fun y hy => ?_) (h.jobs _ x hx).positions fun a => ?_
  · have := (h.records p).limit.1
    rw [hw] at this
    exact Nat.le_of_succ_le this
  · have ho := (h.records p).entries y (hw ▸ List.mem_cons_of_mem _ hy)
    rw [hd.assigned] at ho
    exact ⟨(Option.some.inj ho.1).symm, ho.2⟩
  · have hacc := State.account_setAccount s x.account
        (chargeAccount (s.account x.account) e.estimate c printed) a
    rw [hw]
    refine (congrArg (fun (y : Account) => y.reserved + if a = x.account then estimates (e :: rest) else 0) hacc).trans ?_
    dsimp only
    split
    · next ea =>
      subst ea
      show (s.account x.account).reserved - e.estimate + estimates (e :: rest) = _ + estimates rest
      omega
    · rfl

theorem assigned_delivered (s : State) (p q : Fin 32) (x : Job) (e : WindowEntry) (rest : List WindowEntry) (z m : Fin 4)
    (printed : List Ink) : ((s.delivered p x e rest z m printed).disp q).assigned = (s.disp q).assigned := by
  unfold State.delivered State.takeCharge
  dsimp only
  rw [State.disp_setMeters, State.disp_modJob, State.disp_setAccount, State.disp_modJob, disp_setWindow]
  split
  · next e => rw [e]
  · rfl

/-- R62: a delivery keeps the agreement. -/
theorem Coherent.deliver (h : Coherent v l s) (p : Fin 32) (printed : List Ink) : Coherent v l (s.deliver p printed) := by
  cases hw : (s.disp p).window with
  | nil => simpa [State.deliver, hw] using h
  | cons e rest =>
    obtain ⟨x, hx, hp⟩ := h.job_of_entry (p := p) (e := e) (hw ▸ List.mem_cons_self ..)
    unfold State.deliver
    simp only [hw, hx]
    split
    · exact h
    · next d _ =>
      have h3 := (h.delivered hw hx hp d.sizeClass d.media (clampSides d printed)).freeDelivered x e
      have ha : (((s.delivered p x e rest d.sizeClass d.media (clampSides d printed)).freeDelivered x e).disp p).assigned =
          some e.job := by
        rw [disp_of_agreeing (agreeingParts_freeDelivered _ x e), assigned_delivered]
        exact h.assigned_of_printer hx hp
      obtain ⟨y, hy, hyp⟩ := h3.job_of_assigned ha
      show Coherent v l (match ((s.delivered p x e rest _ _ _).freeDelivered x e).job e.job with
        | none => _
        | some job1 => _)
      simp only [hy]
      split
      · next hc =>
        simp only [completes, Bool.and_eq_true, Bool.not_eq_true', beq_iff_eq] at hc
        obtain ⟨⟨_, ho⟩, hall⟩ := hc
        refine h3.endJob hy ho (fun q hq => ?_) _ _
        have o := h3.jobs _ y hy
        have hlen := (o.window q hq).length
        have hmost := o.positions.1
        exact List.length_eq_zero_iff.1 (by omega)
      · exact h3.afterWindowChange ha

end Losses

end Sys2Proof.Machine

/-! #### Cancellation, and what becomes of a stalled or lost printer's job (R134 to R148) -/

namespace Sys2Proof.Machine

section Cancellation

variable {v : View} {l : List (Fin 128)} {s t : State} {j : Fin 128} {x : Job} {p : Fin 32}

/-! ##### Streams and their bindings (R3) -/

/-- The bindings without that of a stream. -/
def View.freed (v : View) (o : Option (Fin 15)) : View :=
  { v with bound := fun i => if o = some i then .idle else v.bound i }

theorem View.freed_opened {o : Option (Fin 15)} {i : Fin 15} {k : Fin 128} :
    (v.freed o).bound i = .opened k ↔ o ≠ some i ∧ v.bound i = .opened k := by
  show (if o = some i then StreamState.idle else v.bound i) = .opened k ↔ _
  split
  · next e => exact ⟨nofun, fun h => absurd e h.1⟩
  · next e => exact ⟨fun h => ⟨e, h⟩, fun h => h.2⟩

/-- A stream's state is set; its binding is as the view gives it. -/
theorem Coherent.restream (h : Coherent v l s) (i : Fin 15) (y : StreamState) :
    Coherent { v with streams := put v.streams i y } l (s.setStream i y) where
  once := h.once
  members := h.members
  order := h.order
  records q := ⟨(h.records q).assigned, (h.records q).free, (h.records q).limit, (h.records q).entries⟩
  jobs n z hz := (h.jobs n z hz).of_disp (fun _ => rfl) fun _ => rfl
  settled n z hz hn := ⟨(h.settled n z hz hn).onPrinter, (h.settled n z hz hn).queued⟩
  aside := h.aside
  streams := congrArg (fun u => put u i y) h.streams
  bound := h.bound
  reserved := h.reserved
  restart := h.restart

/-- R3: the binding of a job ends. -/
theorem Coherent.unbindStream (h : Coherent v l s) (hx : s.job j = some x) :
    Coherent (v.freed x.stream) l (s.unbindStream j) := by
  have o := h.jobs j x hx
  rw [unbindStream_some hx]
  refine h.rebind hx ⟨rfl, rfl, rfl, rfl, rfl, fun _ => Iff.rfl, fun _ => id⟩ ⟨o.onPrinter, o.offPrinter, fun p hp => ?_,
    o.copies, ⟨o.positions.1, nofun⟩, rfl, fun _ => rfl⟩ rfl fun i k => ?_
  · obtain ⟨w1, w2, w3, w4⟩ := o.window p hp
    refine ⟨w1, w2, w3, fun e he => ?_⟩
    obtain ⟨e1, e2, e3, e4, _⟩ := w4 e he
    exact ⟨e1, e2, e3, e4, nofun⟩
  · have hset := jobSet_setJob s j (Sys2Proof.Machine.unbound x)
    rw [View.freed_opened, h.bound]
    by_cases hk : k = j
    · subst hk
      constructor
      · rintro ⟨hi, y, hy, hs⟩
        cases hx.symm.trans hy
        exact absurd hs hi
      · rintro ⟨y, hy, hs⟩
        cases hset.self.symm.trans hy
        cases hs
    · have hsame : BoundTo (s.setJob j (some (Sys2Proof.Machine.unbound x))) i k ↔ BoundTo s i k :=
        BoundTo.congr (congrArg (Option.bind · Job.stream) (hset.others hk))
      rw [hsame]
      refine ⟨fun hb => hb.2, fun hb => ⟨fun hs => ?_, hb⟩⟩
      have h1 := (h.bound i j).2 ⟨x, hx, hs⟩
      have h2 := (h.bound i k).2 hb
      cases h1.symm.trans h2
      exact hk rfl

/-! ##### The cancellation path (R145 to R148) -/

/-- R147: a PRINTING job that no stream is bound to enters CANCELLING. -/
theorem Coherent.enterCancelling (h : Coherent v l s) (hx : s.job j = some x) (hp : x.printer = some p)
    (ho : x.isOpen = false) (o : JobOutcome) (c : Cause) : Coherent v l (s.enterCancelling j p o c) := by
  unfold State.enterCancelling
  simp only [hx]
  split
  · next e _ y _ hy =>
    cases hy
    have k := h.jobs j x hx
    have hphase : x.phase = .printing ∨ x.phase = .cancelling := k.onPrinter (by rw [hp]; nofun)
    refine (Coherent.setNeedsDrop ?_ p _).budgetTest _
    refine h.restate hx ⟨rfl, rfl, rfl, rfl, rfl, fun _ => ⟨nofun, fun hq => ?_⟩, fun _ _ => hphase⟩
      ⟨fun _ => .inr rfl, k.offPrinter, fun q hq => ?_, k.copies, k.positions, k.binding, fun _ => ho⟩ rfl
    · obtain e | e := hphase <;> cases hq.symm.trans e
    · obtain ⟨w1, w2, w3, w4⟩ := k.window q hq
      exact ⟨w1, w2, w3, w4⟩
  · exact h

/-- A loss keeps whether a job is open. -/
theorem job_loseFrom {e : WindowEntry} {k : Nat} (he : (s.disp p).window[k]? = some e) (hx : s.job e.job = some x) :
    (s.loseFrom p k).job e.job = some (rewound x e ((s.disp p).window.drop k).length) := by
  rw [(entriesLost_loseFrom he hx).job, if_pos rfl]

/-- R148: the window of a LOST printer is settled, and its job ends. -/
theorem Coherent.cancelOnLost (h : Coherent v l s) (hx : s.job j = some x) (hp : x.printer = some p)
    (ho : x.isOpen = false) (o : JobOutcome) (c : Cause) : Coherent v l (s.cancelOnLost j p o c) := by
  unfold State.cancelOnLost
  split
  · exact h
  · next e rest hw =>
    have he : (s.disp p).window[0]? = some e := by rw [hw]; rfl
    have hj : e.job = j := by
      have ha := ((h.records p).entries e (List.mem_of_getElem? he)).1
      rw [h.assigned_of_printer hx hp] at ha
      exact (Option.some.inj ha).symm
    subst hj
    have hjob : ((s.loseFrom p 0).setNeedsDrop p e.feed).job e.job =
        some (Sys2Proof.Machine.rewound x e ((s.disp p).window.drop 0).length) :=
      (job_setNeedsDrop _ _ _ _).trans (job_loseFrom he hx)
    refine ((h.loseFrom p 0).setNeedsDrop p e.feed).endJob hjob ho (fun q hq => ?_) o c
    cases hp.symm.trans hq
    rw [disp_setNeedsDrop]
    exact window_loseFrom_zero s p

theorem Coherent.cancelPrinting (h : Coherent v l s) (hx : s.job j = some x) (hp : x.printer = some p)
    (ho : x.isOpen = false) (o : JobOutcome) (c : Cause) : Coherent v l (s.cancelPrinting j p o c) := by
  unfold State.cancelPrinting
  split
  · next hw =>
    refine h.endJob hx ho (fun q hq => ?_) o c
    cases hp.symm.trans hq
    exact List.isEmpty_iff.1 hw
  · split
    · exact h.cancelOnLost hx hp ho o c
    · exact h.enterCancelling hx hp ho o c

/-- R145: the path of a live job, from the state in which its stream's binding has ended. -/
theorem Coherent.cancelJob (h : Coherent v l (s.unbindStream j)) (hx : s.job j = some x) (o : JobOutcome) (c : Cause) :
    Coherent v l (s.cancelJob j o c) := by
  have hj := job_unbindStream hx
  unfold State.cancelJob
  simp only [hj]
  split
  · exact h
  · split
    · next q hq => exact h.cancelPrinting hj hq rfl o c
    · exact h
  · next hc hp =>
    refine h.endJob hj rfl (fun q hq => ?_) o c
    obtain e | e := (h.jobs j _ hj).onPrinter (by rw [hq]; nofun)
    · exact absurd e hp
    · exact absurd e hc

/-! ##### Lost and stalled printers (R92, R136 to R138, R148) -/

theorem Coherent.settleLost (h : Coherent v l s) (p : Fin 32) : Coherent v l (s.settleLost p) := by
  unfold State.settleLost
  split
  · exact h
  · next j ha =>
    obtain ⟨x, hx, hp⟩ := h.job_of_assigned ha
    simp only [hx]
    split
    · next hc _ => exact h.cancelOnLost hx hp ((h.jobs j x hx).cancelled hc) _ _
    · exact h

/-- R136: a stall timer runs for a printer that has a job. -/
theorem Coherent.startStall (h : Coherent v l s) (ha : (s.disp p).assigned ≠ none) (k : Fin 16) :
    Coherent v l (s.startStall p k) := by
  unfold State.startStall
  dsimp only
  split
  · exact h.setDisp p rfl rfl fun hn => absurd hn ha
  · exact h

theorem Coherent.takeCannotFeed (h : Coherent v l s) (p : Fin 32) : Coherent v l (s.takeCannotFeed p) := by
  unfold State.takeCannotFeed
  split
  · exact h
  · next j ha =>
    have hne : (s.disp p).assigned ≠ none := by rw [ha]; nofun
    split
    · exact h
    · next x hx =>
      split
      · exact Coherent.startStall (s := s.setJob j (some { x with stalled := true })) (h.setJob_same hx rfl) hne _
      · exact h.startStall hne _
      · exact h

/-- A stopped stall timer asks nothing of a record. -/
theorem Coherent.stopStall (h : Coherent v l s) (p : Fin 32) : Coherent v l (s.setDisp p { s.disp p with stall := none }) :=
  h.setDisp p rfl rfl fun _ h2 _ => ⟨h2, rfl⟩

theorem Coherent.takeCanFeed (h : Coherent v l s) (p : Fin 32) : Coherent v l (s.takeCanFeed p) := by
  have h1 := h.stopStall p
  unfold State.takeCanFeed
  dsimp only
  split
  · exact h1.offerPrinter p
  · split
    · exact h1
    · next x hx =>
      split
      · refine Coherent.tryReleases (h1.setJob_same hx ?_) _
        rfl
      · exact h1

/-- R134: can feed evaluated again keeps the agreement. -/
theorem Coherent.refreshFeed (h : Coherent v l s) (p : Fin 32) : Coherent v l (s.refreshFeed p) := by
  have hfeeds : ∀ b, Coherent v l (s.setDisp p { s.disp p with feeds := b }) := fun b =>
    h.setDisp p rfl rfl fun _ h2 h3 => ⟨h2, h3⟩
  unfold State.refreshFeed
  dsimp only
  split
  · exact h
  · split
    · exact (hfeeds false).takeCannotFeed p
    · exact (hfeeds true).takeCanFeed p

theorem Coherent.becomeLost (h : Coherent v l s) (p : Fin 32) : Coherent v l (s.becomeLost p) := by
  have h1 : Coherent v l (s.setPrinter p { s.printer p with link := .lost, missed := 3 }) := h.setPrinter p rfl
  exact ((h1.raise _).refreshFeed p).settleLost p

theorem Coherent.loseToReroute (h : Coherent v l s) (p : Fin 32) : Coherent v l (s.loseToReroute p) := by
  unfold State.loseToReroute
  split
  · exact h
  · have h1 := (h.loseFrom p 0).retryGate
    dsimp only
    split
    · exact h1 _
    · exact (h1 _).setNeedsDrop p _

/-- R138: the whole window is lost to a reroute. -/
theorem window_loseToReroute (s : State) (p : Fin 32) : ((s.loseToReroute p).disp p).window = [] := by
  unfold State.loseToReroute
  split
  · next hw => exact hw
  · dsimp only
    split
    · rw [disp_retryGate]
      exact window_loseFrom_zero s p
    · rw [disp_setNeedsDrop, disp_retryGate]
      exact window_loseFrom_zero s p

/-- R138, steps 4 and 5: with its printer's window empty, a job's drain ends, the job is requeued, or it ends. -/
theorem Coherent.settleStalled (h : Coherent v l s) (hx : s.job j = some x) (hp : x.printer = some p)
    (hw : (s.disp p).window = []) : Coherent v l (s.settleStalled p j) := by
  unfold State.settleStalled
  simp only [hx]
  split
  · split
    · exact h.endDrain hx hp hw
    · exact ((h.detach hx hp hw).offerPrinter p).requeue (h.notAside hx hp)
  · next hc =>
    refine h.endCancelled hx hc fun q hq => ?_
    cases hp.symm.trans hq
    exact hw
  · exact h

theorem Coherent.raiseEvent (h : Coherent v l s) (k : AlertKey) : Coherent v l (s.raiseEvent k) := h.raiseAt k _ _

theorem disp_raiseEvent (s : State) (k : AlertKey) (p : Fin 32) : (s.raiseEvent k).disp p = s.disp p := by
  unfold State.raiseEvent
  rw [alertOnly_raiseAt]
  rfl

/-- R138: the expiry of a stall timer keeps the agreement. -/
theorem Coherent.stallExpired (h : Coherent v l s) (p : Fin 32) : Coherent v l (s.stallExpired p) := by
  have h2 := ((h.stopStall p).loseToReroute p).raiseEvent (printerKey p .stallRerouted)
  have hw := window_loseToReroute (s.setDisp p { s.disp p with stall := none }) p
  unfold State.stallExpired
  dsimp only
  split
  · next j ha =>
    obtain ⟨x, hx, hp⟩ := h2.job_of_assigned ha
    refine h2.settleStalled hx hp ?_
    rw [disp_raiseEvent]
    exact hw
  · exact h2

end Cancellation

end Sys2Proof.Machine

/-! #### The Printer Agent (R92 to R104) -/

namespace Sys2Proof.Machine

section PrinterAgent

variable {v : View} {l : List (Fin 128)} {s : State} {p : Fin 32}

/-! ##### An entry that is sent (R95) -/

/-- What the agreement reads of a window entry. -/
def entryPlace (e : WindowEntry) := (e.job, e.copy, e.sheet, e.estimate)

/-- A window with the places of another one holds the same positions. -/
theorem Coherent.setWindow_same (h : Coherent v l s) (p : Fin 32) {w : List WindowEntry}
    (hw : w.map entryPlace = (s.disp p).window.map entryPlace) : Coherent v l (s.setWindow p w) := by
  have hmap : ∀ {α : Type} (f : Fin 128 × Nat × Nat × Nat → α),
      w.map (fun e => f (entryPlace e)) = (s.disp p).window.map fun e => f (entryPlace e) := fun f => by
    have := congrArg (List.map f) hw
    rwa [List.map_map, List.map_map] at this
  have hmem : ∀ e ∈ w, ∃ y ∈ (s.disp p).window, entryPlace y = entryPlace e := fun e he => by
    have := List.mem_map_of_mem (f := entryPlace) he
    rw [hw] at this
    exact List.mem_map.1 this
  have hlen : w.length = (s.disp p).window.length := by simpa using congrArg List.length hw
  have hest : estimates w = estimates (s.disp p).window := congrArg List.sum (hmap fun y => y.2.2.2)
  cases hold : (s.disp p).window with
  | nil =>
    have hnil : w = [] := List.length_eq_zero_iff.1 (by rw [hlen, hold]; rfl)
    have h1 : Coherent v l (s.setDisp p { s.disp p with window := w }) :=
      h.setDisp p rfl (hnil.trans hold.symm) fun _ h2 h3 => ⟨h2, h3⟩
    refine h1.setPrinter p ?_
    rw [restage_kept]
    rfl
  | cons e rest =>
    obtain ⟨x, hx, hp⟩ := h.job_of_entry (p := p) (e := e) (hold ▸ List.mem_cons_self ..)
    have o := h.jobs _ x hx
    obtain ⟨w1, w2, w3, w4⟩ := o.window p hp
    refine h.windowMoved (y := x) (d := { s.disp p with window := w }) hx hp ⟨fun i => ?_, fun q => disp_setWindow s p q w,
      fun q => config_setWindow s p q w, fun _ => rfl, rfl, .of_jli rfl⟩ rfl ⟨w1, ?_, ?_, fun y hy => ?_⟩ ?_ (fun y hy => ?_)
      o.positions fun a => ?_
    · split
      · next ei => rw [ei]; exact hx
      · rfl
    · show x.releasePos = x.confirmPos + w.length
      rw [hlen]
      exact w2
    · show w.map (fun e => ordinal x.sheets e.copy e.sheet) = List.range' _ w.length
      rw [hlen]
      exact (hmap fun y => ordinal x.sheets y.2.1 y.2.2.1).trans w3
    · obtain ⟨z, hz, ez⟩ := hmem y hy
      simp only [entryPlace, Prod.mk.injEq] at ez
      obtain ⟨_, e2, e3, _⟩ := ez
      have := w4 z hz
      unfold EntryInside at this ⊢
      rwa [e2, e3] at this
    · show w.length ≤ _
      rw [hlen]
      exact (h.records p).limit.1
    · obtain ⟨z, hz, ez⟩ := hmem y hy
      simp only [entryPlace, Prod.mk.injEq] at ez
      obtain ⟨e1, _, _, e4⟩ := ez
      have ho := (h.records p).entries z hz
      rw [w1] at ho
      exact ⟨e1 ▸ (Option.some.inj ho.1).symm, e4 ▸ ho.2⟩
    · show (s.account a).reserved + _ = _ + if a = x.account then estimates w else 0
      rw [hest]

theorem Coherent.markSent (h : Coherent v l s) (p : Fin 32) : Coherent v l (s.markSent p) := by
  refine h.setWindow_same p (replaceFirst_map _ _ entryPlace ?_ _)
  exact fun _ _ => rfl

/-! ##### Outcomes -/

theorem Coherent.exchangeFailed (h : Coherent v l s) (p : Fin 32) : Coherent v l (s.exchangeFailed p) := by
  unfold State.exchangeFailed
  dsimp only
  split
  · exact h.setPrinter p rfl
  · split
    · exact h.setPrinter p rfl
    · exact h.becomeLost p

theorem Coherent.answered (h : Coherent v l s) (p : Fin 32) (m : Nat) : Coherent v l (s.answered p m) := by
  have h1 : Coherent v l (s.setPrinter p { s.printer p with link := .answering, missed := m }) := h.setPrinter p rfl
  exact (h1.clear _).refreshFeed p

theorem Coherent.setPollDue (h : Coherent v l s) (p : Fin 32) : Coherent v l (s.setPollDue p) := h.setPrinter p rfl

theorem Coherent.takeRecord (h : Coherent v l s) (p : Fin 32) (x : DeliveryRecord) :
    Coherent v l (State.takeRecord p s x) := by
  unfold State.takeRecord
  dsimp only
  split
  · exact h.deliver p _
  · split
    · exact h.setPrinter p rfl
    · exact Coherent.loseAllAndDrop (s := s.countProtocolError p) (h.setPort _ _) p

theorem Coherent.takeCommitted (h : Coherent v l s) (p : Fin 32) (c : Option Byte) :
    Coherent v l (s.takeCommitted p c) := by
  unfold State.takeCommitted
  split
  · split
    · exact h
    split
    · exact h.lose p 0
    · dsimp only
      split
      · exact h.lose p _
      · split
        · exact h.lose p 0
        · exact h.setPort _ _
  · exact h

theorem Coherent.clearConditionAlert (h : Coherent v l s) (p : Fin 32) (c : Option Condition) :
    Coherent v l (s.clearConditionAlert p c) := by
  unfold State.clearConditionAlert
  split
  · exact h.clear _
  · exact h

theorem Coherent.raiseConditionAlert (h : Coherent v l s) (p : Fin 32) (c : Option Condition) :
    Coherent v l (s.raiseConditionAlert p c) := by
  unfold State.raiseConditionAlert
  split
  · exact h.raise _
  · exact h

theorem Coherent.takeCondition (h : Coherent v l s) (p : Fin 32) (c : Condition) : Coherent v l (s.takeCondition p c) := by
  unfold State.takeCondition
  dsimp only
  split
  · exact h
  · have h1 : Coherent v l (s.setPrinter p { s.printer p with condition := some c }) := h.setPrinter p rfl
    exact (((kept_ite (P := Coherent v l) (h1.lose p 0) h1).clearConditionAlert p _).raiseConditionAlert p _).refreshFeed p

theorem Coherent.takeStatus (h : Coherent v l s) (p : Fin 32) (st : Status) (b : Bool) :
    Coherent v l (s.takeStatus p st b) := by
  have h2 : Coherent v l ((s.answered p 0).setPrinter p { (s.answered p 0).printer p with room := st.room }) :=
    (h.answered p 0).setPrinter p rfl
  have h3 := State.each_kept (P := Coherent v l) (fun _ x ht => ht.takeRecord p x) st.records h2
  exact ((kept_ite (P := Coherent v l) (h3.takeCommitted p _) h3).takeCondition p _).setPollDue p

theorem Coherent.takeAck (h : Coherent v l s) (p : Fin 32) (feed : Byte) (next : Option Nat) (room : Nat) :
    Coherent v l (s.takeAck p feed next room) := by
  have h2 : Coherent v l ((s.answered p 0).setPrinter p { (s.answered p 0).printer p with room := room }) :=
    (h.answered p 0).setPrinter p rfl
  unfold State.takeAck
  dsimp only
  split
  · have h3 := h2.setPrinter p (x := { ((s.answered p 0).setPrinter p
      { (s.answered p 0).printer p with room := room }).printer p with naks := 0 }) rfl
    unfold State.advance
    split
    · exact h3.setPrinter p rfl
    · exact h3.markSent p
  · exact h2

theorem Coherent.takeNak (h : Coherent v l s) (p : Fin 32) (feed : Byte) : Coherent v l (s.takeNak p feed) := by
  have h1 := h.answered p (s.printer p).missed
  unfold State.takeNak
  dsimp only
  split
  · split
    · exact h1.setPrinter p rfl
    · refine Coherent.exchangeFailed (h1.setPrinter p ?_) p
      rfl
  · exact h1

theorem Coherent.takeDataOutcome (h : Coherent v l s) (p : Fin 32) (feed : Byte) (next : Option Nat) (o : ExchangeOutcome) :
    Coherent v l (s.takeDataOutcome p feed next o) := by
  unfold State.takeDataOutcome
  split
  · exact h.takeAck p feed next _
  · exact h.takeNak p feed
  · exact h.exchangeFailed p

theorem Coherent.takePollOutcome (h : Coherent v l s) (p : Fin 32) (o : ExchangeOutcome) :
    Coherent v l (s.takePollOutcome p o) := by
  unfold State.takePollOutcome
  split
  · exact h.takeStatus p _ _
  · exact (h.exchangeFailed p).setPollDue p

theorem Coherent.retryDrop (h : Coherent v l s) (p : Fin 32) : Coherent v l (s.retryDrop p) :=
  kept_ite (P := Coherent v l) (h.queueDropSheets p true) h

theorem Coherent.takeDropOutcome (h : Coherent v l s) (p : Fin 32) (o : ExchangeOutcome) :
    Coherent v l (s.takeDropOutcome p o) := by
  unfold State.takeDropOutcome
  split
  · have h1 : Coherent v l (s.setPrinter p { s.printer p with needsDrop := false, dropFrom := none }) := h.setPrinter p rfl
    exact (h1.takeStatus p _ _).offerPrinter p
  · exact ((h.exchangeFailed p).retryDrop p).setPollDue p

/-- R92 to R104: the outcome of an exchange that the Printer Agent asked for. -/
theorem Coherent.takeOutcome (h : Coherent v l s) (p : Fin 32) (k : BlockKind) (o : ExchangeOutcome) :
    Coherent v l (s.takeOutcome p k o) := by
  unfold State.takeOutcome
  split
  · cases k with
    | poll => exact h.takePollOutcome p o
    | start feed noData => exact h.takeDataOutcome p _ _ o
    | data feed segment last => exact h.takeDataOutcome p _ _ o
    | dropSheets => exact h.takeDropOutcome p o
    | lineReset => exact h
  · exact h

/-! ##### The port's events (R93) -/

theorem Coherent.clearPrinterAlerts (h : Coherent v l s) (p : Fin 32) : Coherent v l (s.clearPrinterAlerts p) :=
  State.each_kept (P := Coherent v l) (fun _ _ ht => ht.clear _) _ h

theorem Coherent.eachConfigured (h : Coherent v l s) (q : Fin 8) {f : State → Fin 32 → State}
    (hf : ∀ t p, Coherent v l t → Coherent v l (f t p)) : Coherent v l (s.eachConfigured q f) :=
  KeepsDispatch.eachConfigured q hf h

theorem Coherent.printerPortFaulted (h : Coherent v l s) (p : Fin 32) : Coherent v l (s.printerPortFaulted p) :=
  kept_ite (P := Coherent v l) h (h.becomeLost p)

theorem Coherent.printerLineReset (h : Coherent v l s) (p : Fin 32) : Coherent v l (s.printerLineReset p) := by
  have h1 : Coherent v l (s.setPrinter p { s.printer p with link := .unknown, missed := 0, pollDue := s.now }) :=
    h.setPrinter p rfl
  have h2 := h1.refreshFeed p
  exact kept_ite (P := Coherent v l) (h2.queueDropSheets p false) h2

theorem Coherent.printerPortDown (h : Coherent v l s) (p : Fin 32) : Coherent v l (s.printerPortDown p) := by
  have h1 : Coherent v l (s.setPrinter p { s.printer p with link := .unknown, missed := 0, condition := none, room := 0 }) :=
    h.setPrinter p rfl
  exact (h1.clearPrinterAlerts p).refreshFeed p

end PrinterAgent

end Sys2Proof.Machine

/-! #### The drop lines and the sense inputs (R66 to R86, R161 to R163) -/

namespace Sys2Proof.Machine

section Lines

variable {v : View} {l : List (Fin 128)} {s : State} {p : Fin 32}

/-! ##### The line arbiters (R83) -/

theorem Coherent.modPort (h : Coherent v l s) (q : Fin 8) (f : Port → Port) : Coherent v l (s.modPort q f) := h.setPort q _

theorem Coherent.countChoice (h : Coherent v l s) : Coherent v l s.countChoice := h.neutral rfl (.of_jli rfl)

theorem Coherent.beginExchange (h : Coherent v l s) (q : Fin 8) (d : Fin 4) (k : BlockKind) (c : Byte) (b : List Byte) :
    Coherent v l (s.beginExchange q d k c b) := h.modPort q _

theorem Coherent.grantControl (h : Coherent v l s) (q : Fin 8) (d : Fin 4) : Coherent v l (s.grantControl q d) :=
  ((kept_ite (P := Coherent v l) h.countChoice h).modPort q _).beginExchange q d _ _ _

theorem Coherent.spendRoom (h : Coherent v l s) (p : Fin 32) (k : BlockKind) : Coherent v l (s.spendRoom p k) := by
  unfold State.spendRoom
  split
  · exact h.setPrinter p rfl
  · exact h

theorem Coherent.grantData (h : Coherent v l s) (q : Fin 8) (d : Fin 4) : Coherent v l (s.grantData q d) := by
  unfold State.grantData
  split
  · exact ((h.spendRoom _ _).modPort q _).beginExchange q d _ _ _
  · exact h

theorem Coherent.grant (h : Coherent v l s) (q : Fin 8) (g : Grant) : Coherent v l (s.grant q g) := by
  cases g with
  | attention d => exact (h.modPort q _).beginExchange q d _ _ _
  | control d => exact h.grantControl q d
  | poll d => exact h.beginExchange q d _ _ _
  | data d => exact h.grantData q d

theorem Coherent.serviceLine (h : Coherent v l s) (q : Fin 8) : Coherent v l (s.serviceLine q) := by
  unfold State.serviceLine
  split
  · split
    · exact h.grant q _
    · exact h
  · exact h

theorem Coherent.serviceLines (h : Coherent v l s) : Coherent v l s.serviceLines :=
  State.each_kept (P := Coherent v l) (fun _ q ht => ht.serviceLine q) _ h

/-! ##### The end of an exchange (R71, R73, R75 to R80) -/

theorem Coherent.portDown (h : Coherent v l s) (q : Fin 8) : Coherent v l (s.portDown q) :=
  ((h.modPort q Port.down).clear (portFaultKey q)).eachConfigured q fun _ p ht => ht.printerPortDown p

theorem Coherent.applyConfig (h : Coherent v l s) (q : Fin 8) : Coherent v l (s.applyConfig q) := by
  have h1 := h.modPort q Port.takeRates
  unfold State.applyConfig
  dsimp only
  split
  · split
    · exact h1.setPort q _
    · exact h1
  · split
    · exact h1
    · exact h1.portDown q

theorem Coherent.handOutcome (h : Coherent v l s) (q : Fin 8) (o : ExchangeOutcome) : Coherent v l (s.handOutcome q o) := by
  unfold State.handOutcome
  split
  · exact h.takeOutcome _ _ o
  · exact h

theorem Coherent.finishExchange (h : Coherent v l s) (q : Fin 8) (o : ExchangeOutcome) :
    Coherent v l (s.finishExchange q o) := by
  have h1 := ((h.handOutcome q o).modPort q Port.dropExchange).applyConfig q
  unfold State.finishExchange
  exact h1.modPort q _

theorem Coherent.faultPort (h : Coherent v l s) (q : Fin 8) : Coherent v l (s.faultPort q) := by
  have h1 := h.modPort q fun x => { x with line := .faulted, recoverExpiry := none, windowExpiry := none }
  have h2 := (h1.handOutcome q .noReply).modPort q Port.dropExchange
  have h3 := h2.modPort q fun x => { x with attention := 0#4, restartPending := false }
  have h4 := (h3.eachConfigured q fun _ p ht => ht.printerPortFaulted p).raise (portFaultKey q)
  unfold State.faultPort
  exact (h4.modPort q _).applyConfig q

theorem Coherent.contend (h : Coherent v l s) (q : Fin 8) : Coherent v l (s.contend q) := by
  unfold State.contend
  split
  · exact h
  · dsimp only
    split
    · exact (h.modPort q _).faultPort q
    · exact (h.modPort q _).modPort q _

theorem Coherent.lineResetDone (h : Coherent v l s) (q : Fin 8) : Coherent v l (s.lineResetDone q) := by
  have h1 := (h.modPort q Port.dropExchange).applyConfig q
  unfold State.lineResetDone
  dsimp only
  split
  · exact h1
  · exact (((h1.modPort q _).clear _).modPort q _).eachConfigured q fun _ p ht => ht.printerLineReset p

theorem Coherent.transmitted (h : Coherent v l s) (q : Fin 8) (k : BlockKind) : Coherent v l (s.transmitted q k) :=
  kept_ite (P := Coherent v l) (h.lineResetDone q) (h.modPort q _)

/-! ##### Characters (R67, R68, R74, R75, R82) -/

theorem Coherent.takeEcho (h : Coherent v l s) (q : Fin 8) (r : CharReport) : Coherent v l (s.takeEcho q r) := by
  unfold State.takeEcho
  split
  · exact h
  split
  · exact h
  · split
    · exact kept_ite (P := Coherent v l) ((h.modPort q _).transmitted q _) (h.modPort q _)
    · exact h.contend q

theorem Coherent.takeReplyCharacter (h : Coherent v l s) (q : Fin 8) (d : Byte) (m : Bool) :
    Coherent v l (s.takeReplyCharacter q d m) :=
  kept_ite (P := Coherent v l) (h.finishExchange q _)
    (kept_ite (P := Coherent v l) (h.finishExchange q _) (h.modPort q _))

theorem Coherent.requestAttention (h : Coherent v l s) (q : Fin 8) : Coherent v l (s.requestAttention q) :=
  kept_ite (P := Coherent v l) (h.modPort q _) h

theorem Coherent.takeBadReport (h : Coherent v l s) (q : Fin 8) (b : Bool) : Coherent v l (s.takeBadReport q b) :=
  kept_ite (P := Coherent v l) ((h.finishExchange q _).requestAttention q) (h.finishExchange q _)

theorem Coherent.takeReport (h : Coherent v l s) (q : Fin 8) (r : CharReport) : Coherent v l (s.takeReport q r) := by
  unfold State.takeReport
  split
  · exact h.takeEcho q _
  · exact h.takeReplyCharacter q _ _
  · exact h.takeBadReport q _
  · exact h.takeBadReport q _
  · exact h.takeBadReport q _
  · exact h.requestAttention q
  · exact kept_ite (P := Coherent v l) h (h.requestAttention q)
  · exact h

theorem Coherent.receiveAndServe (h : Coherent v l s) (q : Fin 8) (c : CharSamples) :
    Coherent v l (s.receiveAndServe q c) := by
  refine Coherent.serviceLines ?_
  exact kept_ite (P := Coherent v l) ((h.modPort q _).takeReport q _) h

theorem Coherent.startConfirmed (h : Coherent v l s) (q : Fin 8) (c : StartSamples) :
    Coherent v l (s.startConfirmed q c) := kept_ite (P := Coherent v l) (h.setPort q _) h

theorem Coherent.lineIdle (h : Coherent v l s) (q : Fin 8) : Coherent v l (s.lineIdle q) := by
  have h1 := h.modPort q Port.reportIdle
  unfold State.lineIdle
  split
  · dsimp only
    split
    · exact h1.finishExchange q _
    · exact h1.modPort q _
    · exact h1
  · exact h

theorem Coherent.restartPort (h : Coherent v l s) (q : Fin 8) : Coherent v l (s.restartPort q) := by
  unfold State.restartPort
  dsimp only
  split
  · exact h.setPort q _
  · exact h.setPort q _
  · exact h.setPort q _
  · exact kept_ite (P := Coherent v l) h (h.setPort q _)
  · exact h

/-! ##### Sense inputs (R161 to R163) -/

theorem Coherent.setSense (h : Coherent v l s) (p : Fin 32) (x : Sense) : Coherent v l (s.setSense p x) :=
  h.neutral rfl (.of_jli rfl)

theorem Coherent.senseStarts (h : Coherent v l s) (p : Fin 32) (m : Time) : Coherent v l (s.senseStarts p m) := by
  have h1 : Coherent v l (s.setSenseActive p true) := h.setSense p _
  exact (h1.raiseAt _ _ _).refreshFeed p

theorem Coherent.senseEnds (h : Coherent v l s) (p : Fin 32) : Coherent v l (s.senseEnds p) := by
  have h1 : Coherent v l (s.setSenseActive p false) := h.setSense p _
  exact (h1.clear _).refreshFeed p

theorem Coherent.takeFall (h : Coherent v l s) (p : Fin 32) : Coherent v l (s.takeFall p) := by
  have h1 := h.setSense p { s.sense p with high := false, run := 0, stamp := s.now, sampled := s.now }
  unfold State.takeFall
  dsimp only
  split
  · exact h1
  · exact h1.raiseAt _ _ _
  · exact h1.senseStarts p _

theorem Coherent.takeRise (h : Coherent v l s) (p : Fin 32) : Coherent v l (s.takeRise p) := by
  have h1 := h.setSense p { s.sense p with high := true, run := 0, sampled := s.now }
  unfold State.takeRise
  dsimp only
  split
  · exact h1
  · exact h1
  · exact h1.senseEnds p

theorem Coherent.takeSample (h : Coherent v l s) (levels : BitVec 32) (p : Fin 32) :
    Coherent v l (State.takeSample levels s p) := by
  unfold State.takeSample
  dsimp only
  split
  · split
    · exact h.setSense p _
    · split
      · exact h.setSense p _
      · exact kept_ite (P := Coherent v l) (h.takeFall p) (h.takeRise p)
  · exact h

theorem Coherent.setSenseLines (h : Coherent v l s) (levels : BitVec 32) : Coherent v l (s.setSenseLines levels) :=
  h.neutral rfl (.of_jli rfl)

theorem Coherent.takeSamples (h : Coherent v l s) (levels : BitVec 32) : Coherent v l (s.takeSamples levels) :=
  State.each_kept (P := Coherent v l) (fun _ p ht => ht.takeSample levels p) _ (h.setSenseLines levels)

theorem Coherent.writeSenseMode (h : Coherent v l s) (p : Fin 32) (m : SenseMode) :
    Coherent v l (s.writeSenseMode p m) := by
  have h1 := h.setSense p { s.sense p with mode := m }
  unfold State.writeSenseMode
  dsimp only
  split
  · exact h
  split
  · exact kept_ite (P := Coherent v l) (h1.senseEnds p) h1
  · split
    · exact kept_ite (P := Coherent v l) h1 (h1.senseStarts p _)
    · exact h1

end Lines

end Sys2Proof.Machine

/-! #### The job streams and admission (R3 to R19, R31 to R40) -/

namespace Sys2Proof.Machine

section Streams

variable {v : View} {l : List (Fin 128)} {s t : State} {i : Fin 15} {j : Fin 128} {x : Job} {y : StreamState}

/-! ##### Sheets declared, filled and completed -/

/-- A sheet completed moves no position of a job whose stream is open. -/
theorem Coherent.completeLast (h : Coherent v l s) (hx : s.job j = some x) (ho : x.isOpen = true) :
    Coherent v l (s.completeLast j) := by
  cases hl : s.lastIncomplete x with
  | none => rwa [completeLast_none hx hl]
  | some nd =>
    have o := h.jobs j x hx
    have hfill : Coherent v l (s.setDescs (putDesc s.spm.descs nd.1 { nd.2 with complete := true })) :=
      h.neutral rfl (.of_jli rfl)
    rw [completeLast_some hx (m := nd.1) (z := nd.2) hl]
    refine hfill.restate hx ⟨rfl, rfl, rfl, rfl, rfl, fun _ => Iff.rfl, fun _ => id⟩ ⟨o.onPrinter, o.offPrinter,
      fun p hp => ?_, o.copies, ⟨?_, fun _ => ?_⟩, o.binding, o.cancelled⟩ rfl
    · obtain ⟨w1, w2, w3, w4⟩ := o.window p hp
      refine ⟨w1, w2, ?_, fun e he => ?_⟩
      · refine Eq.trans (List.map_congr_left fun e he => ?_) w3
        obtain ⟨_, _, _, _, hfirst⟩ := w4 e he
        simp [ordinal, hfirst ho]
      · obtain ⟨e1, e2, e3, e4, e5⟩ := w4 e he
        exact ⟨e1, e2, e3, Nat.le_succ_of_le e4, e5⟩
    · exact Nat.le_trans o.positions.1 (Nat.mul_le_mul_left _ (Nat.le_succ _))
    · exact Nat.le_succ_of_le (o.positions.2 ho)

theorem Coherent.takeDescriptor (h : Coherent v l s) (j : Fin 128) (d : SheetDecl) :
    Coherent v l (s.takeDescriptor j d) := by
  have h1 : Coherent v l (s.setDescs (putDesc s.spm.descs (lowestFree 0 s.spm.descs) (descOf d))) :=
    h.neutral rfl (.of_jli rfl)
  exact h1.modJob_same j fun _ => rfl

theorem Coherent.storeData (h : Coherent v l s) (n : Nat) (d : SheetDesc) (b : List Byte) :
    Coherent v l (s.storeData n d b) := h.neutral rfl (.of_jli rfl)

theorem Coherent.countStray (h : Coherent v l s) : Coherent v l s.countStray :=
  h.neutral rfl ⟨List.prefix_rfl, Nat.min_le_right .., rfl⟩

/-- R18: a SPOOLING job becomes eligible. -/
theorem Coherent.makeEligible (h : Coherent v [] s) (hx : s.job j = some x) (hp : x.phase = .spooling) :
    Coherent v [] (s.makeEligible j) := by
  cases hh : noHolds x.holds with
  | true =>
    rw [makeEligible_queued hx hh]
    exact h.requeue_waiting hx (.inl hp)
  | false =>
    rw [makeEligible_held hx hh]
    refine Coherent.holdAside (h.loosen fun z hz => ?_) hx
    cases hx.symm.trans hz
    exact h.aside_of_phase hx (.inl hp)

theorem Coherent.sheetCompleted (h : Coherent v [] s) (j : Fin 128) : Coherent v [] (s.sheetCompleted j) := by
  unfold State.sheetCompleted
  split
  · next x hx =>
    split
    · next hp => exact kept_ite (P := Coherent v []) (h.makeEligible hx hp) h
    · exact h.tryReleases j
    · exact h
  · exact h

/-! ##### Between the streams' states and the bindings -/

/-- The agreement with the streams as they were is the agreement. -/
theorem Coherent.toDispatchOk (h : Coherent s.view [] t) : DispatchOk t := h.dispatchOk fun _ _ => Iff.rfl

/-- R3: an OPEN stream's job is live, OPEN and bound to it. -/
theorem DispatchOk.boundJob (h : DispatchOk s) (hi : s.stream i = .opened j) :
    ∃ x, s.job j = some x ∧ x.stream = some i ∧ x.isOpen = true := by
  obtain ⟨x, hx, hs⟩ := h.streams i j hi
  refine ⟨x, hx, hs, ?_⟩
  rw [(h.jobs j x hx).stream.1, hs]
  rfl

/-- The streams' states agree with the bindings once a stream whose binding has ended is set to a state that is not OPEN. -/
theorem Coherent.closed (h : Coherent ({ s.view with streams := put s.spm.streams i y }.freed (some i)) [] t)
    (hy : ∀ k, y ≠ .opened k) : DispatchOk t := by
  refine h.dispatchOk fun i' k => ?_
  rw [View.freed_opened]
  show (put s.spm.streams i y).get i' = _ ↔ _ ∧ s.spm.streams.get i' = .opened k
  rw [put_get]
  split
  · next e => exact ⟨fun hk => absurd hk (hy k), fun hk => absurd (congrArg some e.symm) hk.1⟩
  · next e => exact ⟨fun hk => ⟨fun e' => e (Option.some.inj e').symm, hk⟩, fun hk => hk.2⟩

/-- R145: a job is cancelled as its stream's state is set. -/
theorem DispatchOk.cancelFrom (h : DispatchOk s) (hx : s.job j = some x) (hs : x.stream = some i)
    (hy : ∀ k, y ≠ .opened k) (o : JobOutcome) (c : Cause) : DispatchOk ((s.setStream i y).cancelJob j o c) := by
  have h1 := (h.coherent.restream i y).unbindStream hx
  rw [hs] at h1
  exact (h1.cancelJob hx o c).closed hy

/-! ##### Frames of an OPEN stream (R9 to R15) -/

theorem DispatchOk.damage (h : DispatchOk s) (hx : s.job j = some x) (hs : x.stream = some i) (c : Cause) :
    DispatchOk (s.damage i j c) := by
  have h1 : DispatchOk (s.raiseEvent (damagedKey x.tag)) := (h.coherent.raiseEvent _).toDispatchOk
  rw [damage_some hx]
  exact h1.cancelFrom ((job_raiseAt s _ _ _ j).trans hx) hs (by nofun) _ _

theorem DispatchOk.takeSheet (h : DispatchOk s) (hi : s.stream i = .opened j) (d : SheetDecl) :
    DispatchOk (s.takeSheet i j d) := by
  obtain ⟨x, hx, hs, ho⟩ := h.boundJob hi
  unfold State.takeSheet
  simp only [hx]
  split
  · exact h.cancelFrom hx hs (by nofun) _ _
  · split
    · exact h.damage hx hs _
    · have h1 : Coherent s.view [] (s.completePrevious j x) :=
        kept_ite (P := Coherent s.view []) ((h.coherent.completeLast hx ho).sheetCompleted j) h.coherent
      exact (h1.takeDescriptor j d).toDispatchOk

theorem DispatchOk.takeData (h : DispatchOk s) (hi : s.stream i = .opened j) (b : List Byte) :
    DispatchOk (s.takeData i j b) := by
  obtain ⟨x, hx, hs, _⟩ := h.boundJob hi
  unfold State.takeData
  simp only [hx]
  split
  · exact h.coherent.countStray.toDispatchOk
  · split
    · exact h
    split
    · exact h.damage hx hs _
    split
    · exact h.damage hx hs _
    · exact (h.coherent.storeData _ _ _).applyWatermarks.toDispatchOk

/-- R12, steps 3 and 4: what becomes of a job whose stream has been closed. -/
theorem Coherent.afterClose (h : Coherent v [] s) (hx : s.job j = some x) (ho : x.isOpen = false) :
    Coherent v [] (s.afterClose j) := by
  have o := h.jobs j x hx
  unfold State.afterClose
  simp only [hx]
  split
  · next hn =>
    refine h.endJob hx ho (fun p hp => ?_) _ _
    have hlen := (o.window p hp).length
    have hmost := o.positions.1
    rw [hn, Nat.mul_zero] at hmost
    exact List.length_eq_zero_iff.1 (by omega)
  · split
    · next hp => exact h.makeEligible hx hp
    · exact h.tryReleases j
    · exact h

theorem Coherent.completeAtClose (h : Coherent v l s) (hx : s.job j = some x) (ho : x.isOpen = true) :
    Coherent v l (s.completeAtClose j) := by
  have h1 := h.completeLast hx ho
  unfold State.completeAtClose
  dsimp only
  split
  · exact kept_ite (P := Coherent v l) (h1.tryReleases j) h1
  · exact h1

theorem DispatchOk.closeJob (h : DispatchOk s) (hi : s.stream i = .opened j) : DispatchOk (s.closeJob i j) := by
  obtain ⟨x, hx, _, ho⟩ := h.boundJob hi
  have h1 := h.coherent.completeAtClose hx ho
  obtain ⟨z, hz, hs⟩ := (h1.bound i j).1 hi
  have h2 := (h1.unbindStream hz).restream i .idle
  rw [hs] at h2
  exact (h2.afterClose (job_unbindStream hz) rfl).closed (by nofun)

/-! ##### Admission (R31 to R40) -/

/-- A stream that is not OPEN is set to another state that is not OPEN. -/
theorem Coherent.setIdleStream (h : Coherent s.view [] t) (hi : ∀ k, s.stream i ≠ .opened k) (hy : ∀ k, y ≠ .opened k) :
    DispatchOk (t.setStream i y) := by
  refine (h.restream i y).dispatchOk fun i' k => ?_
  show (put s.spm.streams i y).get i' = _ ↔ s.spm.streams.get i' = _
  rw [put_get]
  split
  · next e =>
    subst e
    exact ⟨fun hk => absurd hk (hy k), fun hk => absurd hk (hi k)⟩
  · exact Iff.rfl

/-- R5, R37: a JOB-OPEN refused leaves its stream in DISCARD. -/
theorem DispatchOk.refuseOpen (h : DispatchOk s) (hi : ∀ k, s.stream i ≠ .opened k) (r : OpenRequest) (c : Cause) :
    DispatchOk (s.refuseOpen i r c) := (h.coherent.hand _).setIdleStream hi (by nofun)

/-- The bindings with a stream bound to a job. -/
def View.bind (v : View) (i : Fin 15) (j : Fin 128) : View :=
  { v with bound := fun k => if k = i then .opened j else v.bound k }

/-- R38: a job takes a FREE slot, bound to a stream that is not OPEN. -/
theorem DispatchOk.fillSlot (h : DispatchOk s) (hj : s.job j = none) (hi : ∀ k, s.stream i ≠ .opened k) (r : OpenRequest)
    (a : Fin 512) : Coherent (s.view.bind i j) [] (s.setJob j (some (s.admittedJob i r a))) := by
  have hc := h.coherent
  have hset := jobSet_setJob s j (s.admittedJob i r a)
  have hout : ∀ k, j ∉ (s.pool k).queue := fun k hk => by
    obtain ⟨x, hx, _⟩ := hc.inQueue hk
    cases hj.symm.trans hx
  have hcopies := (clampCopies_range r.copies).1
  refine hc.of_local (local_setJob s j _ none) (owns_none fun x hx => nomatch hj.symm.trans hx)
    ⟨nofun, fun x hx => ?_, fun x hx _ => ?_, fun _ _ hm => absurd hm List.not_mem_nil, fun k hk => absurd hk (hout k), fun k n => ?_,
      fun b => ?_⟩ rfl fun _ _ => Iff.rfl
  · cases hset.self.symm.trans hx
    exact ⟨fun hn => absurd rfl hn, fun _ => rfl, nofun, hcopies, ⟨Nat.zero_le _, fun _ => Nat.zero_le _⟩, rfl, nofun⟩
  · cases hset.self.symm.trans hx
    exact ⟨fun hp => (by obtain e | e := hp <;> cases e), nofun⟩
  · show (if k = i then StreamState.opened j else s.stream k) = .opened n ↔ _
    by_cases hn : n = j
    · subst hn
      constructor
      · intro hk
        split at hk
        · next e => exact ⟨_, hset.self, congrArg some e.symm⟩
        · obtain ⟨x, hx, _⟩ := h.streams k n hk
          cases hj.symm.trans hx
      · rintro ⟨x, hx, hs⟩
        cases hset.self.symm.trans hx
        cases hs
        exact if_pos rfl
    · have hsame : BoundTo (s.setJob j (some (s.admittedJob i r a))) k n ↔ BoundTo s k n :=
        BoundTo.congr (congrArg (Option.bind · Job.stream) (hset.others hn))
      rw [hsame, ← hc.bound]
      show _ ↔ s.stream k = .opened n
      split
      · next e =>
        subst e
        exact ⟨fun hk => absurd (StreamState.opened.inj hk).symm hn, fun hk => absurd hk (hi n)⟩
      · exact Iff.rfl
  · refine (hc.reserved b).trans ?_
    refine (reservedFor_congr (t := s.setJob j (some (s.admittedJob i r a))) (fun q => congrArg Dispatch.window
      (State.disp_setJob s j _ q)) (fun q e he => ?_) b).symm
    obtain ⟨x, hx, _⟩ := hc.job_of_entry he
    have hne : e.job ≠ j := fun ej => by rw [ej, hj] at hx; cases hx
    unfold State.accountOf
    rw [hset.others hne]

theorem Coherent.bindJob (h : Coherent v l s) (a : Fin 512) (b : Fin 2) : Coherent v l (s.bindJob a b) := by
  have h1 : Coherent v l (s.setAccount a { s.account a with bound := (s.account a).bound + 1 }) := h.setAccount a rfl
  exact h1.neutral rfl (.of_jli rfl)

/-- R38, R39: a JOB-OPEN admitted keeps the agreement. -/
theorem DispatchOk.admitted (h : DispatchOk s) (hj : s.job j = none) (hi : ∀ k, s.stream i ≠ .opened k) (r : OpenRequest)
    (a : Fin 512) : DispatchOk (s.admitJob i r a j) := by
  have h1 : Coherent (s.view.bind i j) [] ((s.setJob j (some (s.admittedJob i r a))).setArrival (s.rcl.arrival + 1#32)) :=
    (h.fillSlot hj hi r a).neutral rfl (.of_jli rfl)
  have h2 := h1.bindJob a (s.admittedJob i r a).bank
  refine (h2.restream i (.opened j)).dispatchOk fun k n => ?_
  show (put s.spm.streams i (.opened j)).get k = _ ↔ (if k = i then StreamState.opened j else s.spm.streams.get k) = _
  rw [put_get]

theorem DispatchOk.passToAdmission (h : DispatchOk s) (hi : ∀ k, s.stream i ≠ .opened k) (r : OpenRequest) :
    DispatchOk (s.passToAdmission i r) := by
  unfold State.passToAdmission
  split
  · exact h.refuseOpen hi r _
  · split
    · next hj => exact h.admitted (job_lowestFreeSlot hj) hi r _
    · exact h.refuseOpen hi r _

/-! ##### Frames by the state of their stream (R4) -/

theorem DispatchOk.onJobOpen (h : DispatchOk s) (i : Fin 15) (r : OpenRequest) : DispatchOk (s.onJobOpen i r) := by
  unfold State.onJobOpen
  split
  · next hi => exact h.passToAdmission (fun k hk => nomatch hi.symm.trans hk) r
  · next j hi =>
    obtain ⟨x, hx, hs, _⟩ := h.boundJob hi
    have h1 := h.coherent.unbindStream hx
    rw [hs] at h1
    have h2 := ((h1.cancelJob hx .cancelled .streamReopened).restream i .idle).closed (by nofun)
    rw [← passToAdmission_setStream _ i .idle]
    refine h2.passToAdmission (fun k hk => ?_) r
    rw [State.stream_setStream, if_pos rfl] at hk
    cases hk
  · exact h

theorem DispatchOk.onSheet (h : DispatchOk s) (i : Fin 15) (d : SheetDecl) : DispatchOk (s.onSheet i d) := by
  unfold State.onSheet
  split
  · exact h.coherent.countStray.toDispatchOk
  · next hi => exact h.takeSheet hi d
  · exact h

theorem DispatchOk.onData (h : DispatchOk s) (i : Fin 15) (b : List Byte) : DispatchOk (s.onData i b) := by
  unfold State.onData
  split
  · exact h.coherent.countStray.toDispatchOk
  · next hi => exact h.takeData hi b
  · exact h

theorem DispatchOk.onJobClose (h : DispatchOk s) (i : Fin 15) : DispatchOk (s.onJobClose i) := by
  unfold State.onJobClose
  split
  · exact h.coherent.countStray.toDispatchOk
  · next hi => exact h.closeJob hi
  · next hi => exact h.coherent.setIdleStream (fun k hk => nomatch hi.symm.trans hk) (by nofun)

theorem DispatchOk.onJobAbort (h : DispatchOk s) (i : Fin 15) : DispatchOk (s.onJobAbort i) := by
  unfold State.onJobAbort
  split
  · exact h.coherent.countStray.toDispatchOk
  · next j hi =>
    obtain ⟨x, hx, hs, _⟩ := h.boundJob hi
    exact h.cancelFrom hx hs (by nofun) _ _
  · next hi => exact h.coherent.setIdleStream (fun k hk => nomatch hi.symm.trans hk) (by nofun)

end Streams

end Sys2Proof.Machine

/-! #### Tables, commands on jobs, accounts and printers, and resets (R44, R51 to R55, R71, R88, R120, R128 to R130, R172, R173) -/

namespace Sys2Proof.Machine

section Requests

variable {v : View} {l : List (Fin 128)} {s t : State} {j : Fin 128} {x : Job} {p : Fin 32}

/-! ##### Tables -/

/-- R88: the configuration of a printer without a job is replaced. -/
theorem Coherent.setPrinterConfig (h : Coherent v l s) (hn : (s.disp p).assigned = none) {r : Printer}
    (hr : r.config.limit ≤ 8) : Coherent v l (s.setPrinter p r) where
  once := h.once
  members := h.members
  order := h.order
  records q := by
    have o := h.records q
    by_cases e : q = p
    · subst e
      have hw : ((s.setPrinter q r).disp q).window = [] := (o.free hn).1
      refine ⟨fun i hi => (nomatch hn.symm.trans hi), o.free, ?_, fun e he => ?_⟩
      · rw [hw, State.printer_setPrinter, if_pos rfl]
        exact ⟨Nat.zero_le _, hr⟩
      · rw [hw] at he; cases he
    · have hq : (s.setPrinter p r).printer q = s.printer q := by rw [State.printer_setPrinter, if_neg e]
      exact ⟨fun i hi => by rw [hq]; exact o.assigned i hi, o.free, by rw [hq]; exact o.limit, o.entries⟩
  jobs n z hz := (h.jobs n z hz).of_disp (fun _ => rfl) fun _ => rfl
  settled n z hz hn := ⟨(h.settled n z hz hn).onPrinter, (h.settled n z hz hn).queued⟩
  aside := h.aside
  streams := h.streams
  bound := h.bound
  reserved := h.reserved
  restart := h.restart

theorem Coherent.storePrinter (h : Coherent v l s) (hn : (s.disp p).assigned = none) {c : PrinterConfig} (hc : c.limit ≤ 8) :
    Coherent v l (s.storePrinter p c) := by
  unfold State.storePrinter
  split
  · exact h.setPrinterConfig hn hc
  split
  · refine Coherent.clearPrinterAlerts (Coherent.modPort ?_ _ _) p
    exact h.setPrinterConfig hn hc
  · exact h.setPrinterConfig hn hc

theorem Coherent.writePrinter (h : Coherent v l s) {i : Nat} {e : PrinterEntry} (ht : s.writePrinter i e = some t) :
    Coherent v l t := by
  unfold State.writePrinter at ht
  split at ht
  · dsimp only at ht
    split at ht
    · cases ht
    · next hb =>
      cases ht
      simp only [Bool.or_eq_true, not_or, Bool.not_eq_true, Option.isSome_eq_false_iff, Option.isNone_iff_eq_none] at hb
      exact ((h.storePrinter hb.1 (limit_storedPrinter e).2).refreshFeed _).offerPrinter _
  · cases ht

theorem Coherent.writePool (h : Coherent v l s) {i : Nat} {e : PoolEntry} (ht : s.writePool i e = some t) :
    Coherent v l t := by
  unfold State.writePool at ht
  split at ht
  · dsimp only at ht
    split at ht
    · cases ht
    · cases ht
      exact h.setPool _ rfl
  · cases ht

theorem Coherent.writeRoute (h : Coherent v l s) {i : Nat} {e : RouteEntry} (ht : s.writeRoute i e = some t) :
    Coherent v l t := by
  unfold State.writeRoute at ht
  split at ht
  · split at ht
    · cases ht
      exact h.neutral rfl (.of_jli rfl)
    · cases ht
  · cases ht

theorem Coherent.writePort (h : Coherent v l s) {i : Nat} {e : PortEntry} (ht : s.writePort i e = some t) :
    Coherent v l t := by
  unfold State.writePort at ht
  split at ht
  · dsimp only at ht
    split at ht
    · cases ht
    · cases ht
      exact kept_ite (P := Coherent v l) ((h.setPort _ _).applyConfig _) (h.setPort _ _)
  · cases ht

theorem Coherent.writeAccount (h : Coherent v [] s) {i : Nat} {e : AccountEntry} (ht : s.writeAccount i e = some t) :
    Coherent v [] t := by
  unfold State.writeAccount at ht
  split at ht
  · next hi =>
    dsimp only at ht
    split at ht
    · cases ht
    · cases ht
      have h1 : Coherent v [] (s.setAccount ⟨i, hi⟩ (storedAccount (s.account ⟨i, hi⟩) e)) := h.setAccount _ rfl
      exact kept_ite (P := Coherent v []) (h1.accountChange _) h1
  · cases ht

/-- R156: an enabled class's entries announced are behind the frames that wait. -/
theorem linkGrows_writeMask (s : State) (m : BitVec 12) : LinkGrows s (s.writeMask m) := by
  have e := alertOnly_writeMask s m
  refine ⟨?_, ?_, ?_⟩
  · refine State.each_kept (P := fun t => s.jli.tx <+: t.jli.tx) (fun t a ht => ht.trans ?_) _ List.prefix_rfl
    unfold State.announcePending State.handAlert
    split
    · exact List.prefix_rfl
    · split
      · exact List.prefix_append ..
      · exact List.prefix_rfl
  · rw [e]; exact Nat.min_le_right ..
  · rw [e]; rfl

theorem Coherent.writeMask (h : Coherent v l s) (m : BitVec 12) : Coherent v l (s.writeMask m) := by
  refine h.neutral ?_ (linkGrows_writeMask s m)
  have e := alertOnly_writeMask s m
  unfold AlertOnly at e
  rw [e]
  rfl

theorem Coherent.writeSetup (h : Coherent v l s) {i : Nat} {e : Half} (ht : s.writeSetup i e = some t) :
    Coherent v l t := by
  unfold State.writeSetup at ht
  split at ht
  · cases ht; exact h.writeMask _
  split at ht
  · cases ht; exact h.neutral rfl (.of_jli rfl)
  split at ht
  · cases ht; exact h.neutral rfl (.of_jli rfl)
  split at ht
  · cases ht; exact h.neutral rfl (.of_jli rfl)
  split at ht
  · cases ht; exact h.writeSenseMode _ _
  · cases ht

theorem Coherent.setMgu (h : Coherent v l s) (m : Mgu) : Coherent v l (s.setMgu m) := h.neutral rfl (.of_jli rfl)

theorem Coherent.writeDeviceConfig (h : Coherent v l s) {i : Nat} {e : DeviceConfigEntry}
    (ht : s.writeDeviceConfig i e = some t) : Coherent v l t := by
  cases ht
  exact h.neutral rfl (.of_jli rfl)

theorem Coherent.writeClasses (b : Fin 2) : ∀ (cs : List TariffClass) (i : Nat) {s : State}, Coherent v l s →
    Coherent v l (State.writeClasses b cs i s)
  | [], _, _, h => h
  | _ :: cs, i, _, h => Coherent.writeClasses b cs (i + 1) (h.neutral rfl (.of_jli rfl))

theorem Coherent.writeBank (h : Coherent v l s) (token : Byte) (b : Fin 2) (first : Half) (cs : List TariffClass) :
    Coherent v l (s.writeBank token b first cs) := by
  unfold State.writeBank
  split
  · exact h.hand _
  split
  · exact h.hand _
  split
  · exact h.hand _
  · exact (Coherent.writeClasses b cs _ h).hand _

theorem Coherent.writeEntries {α : Type} {write : State → Nat → α → Option State} (h : Coherent v l s)
    (hw : ∀ s i e t, write s i e = some t → Coherent v l s → Coherent v l t) (size most : Nat) (token : Byte) (first : Half)
    (es : List α) : Coherent v l (s.writeEntries write size most token first es) :=
  KeepsCommands.writeEntries_kept hw (fun ht => Coherent.hand ht _) size most token first es h

theorem Coherent.carryWrite (h : Coherent v [] s) (token table : Byte) (first : Half) (n : Nat) (b : List Byte) :
    Coherent v [] (s.carryWrite token table first n b) := by
  unfold State.carryWrite
  split
  · exact h.writeEntries (fun _ _ _ _ ht k => k.writeRoute ht) _ _ _ _ _
  · exact h.writeEntries (fun _ _ _ _ ht k => k.writePool ht) _ _ _ _ _
  · exact h.writeEntries (fun _ _ _ _ ht k => k.writePort ht) _ _ _ _ _
  · exact h.writeEntries (fun _ _ _ _ ht k => k.writePrinter ht) _ _ _ _ _
  · exact h.writeBank _ _ _ _
  · exact h.writeBank _ _ _ _
  · exact h.writeEntries (fun _ _ _ _ ht k => k.writeAccount ht) _ _ _ _ _
  · exact h.writeEntries (fun _ _ _ _ ht k => k.writeSetup ht) _ _ _ _ _
  · exact h.writeEntries (fun _ _ _ _ ht k => k.writeDeviceConfig ht) _ _ _ _ _
  · exact h.hand _

theorem Coherent.writeRaw (h : Coherent v [] s) (token table : Byte) (first : Half) (count : Byte) (b : List Byte) :
    Coherent v [] (s.writeRaw token table first count b) := by
  unfold State.writeRaw
  split
  · exact h.hand _
  · exact h.carryWrite _ _ _ _ _

theorem Coherent.readTable (h : Coherent v l s) (token table : Byte) (first : Half) (count : Byte) :
    Coherent v l (s.readTable token table first count) := by
  unfold State.readTable
  split
  · exact h.hand _
  · exact h.hand _

theorem Coherent.replyOk (h : Coherent v l s) (token : Byte) (c : CommandCode) (data : List Byte) :
    Coherent v l (s.replyOk token c data) := h.hand _

/-! ##### HOLD-JOB and RELEASE-JOB (R51 to R53) -/

theorem job_budgetTest (s : State) (a : Fin 512) (j : Fin 128) : (s.budgetTest a).job j = s.job j := by
  rw [budgetTest_alertOnly]
  rfl

theorem disp_budgetTest (s : State) (a : Fin 512) (p : Fin 32) : (s.budgetTest a).disp p = s.disp p := by
  rw [budgetTest_alertOnly]
  rfl

/-- R51, R55: a job record's drain reason set, with the condition tested, leaves the dispatch records as they were. -/
theorem Coherent.drained (h : Coherent v l s) (hx : s.job j = some x) {y : Job} (hy : placeOf y = placeOf x) (b : Prop)
    [Decidable b] (a : Fin 512) :
    Coherent v l (if b then (s.setJob j (some y)).budgetTest a else s.setJob j (some y)) ∧
      ∀ q, (if b then (s.setJob j (some y)).budgetTest a else s.setJob j (some y)).disp q = s.disp q := by
  have h1 := h.setJob_same hx hy
  exact kept_ite (P := fun t => Coherent v l t ∧ ∀ q, t.disp q = s.disp q)
    ⟨h1.budgetTest a, fun q => disp_budgetTest _ a q⟩ ⟨h1, fun _ => rfl⟩

/-- R54: the drain of a job with nothing in its printer's window ends at once. -/
theorem Coherent.endDrain_empty (h : Coherent v l s) (ha : (s.disp p).assigned = some j) :
    Coherent v l (if (s.disp p).window.isEmpty then s.endDrain j p else s) := by
  obtain ⟨x, hx, hp⟩ := h.job_of_assigned ha
  split
  · next hw => exact h.endDrain hx hp (List.isEmpty_iff.1 hw)
  · exact h

theorem Coherent.holdPrinting (h : Coherent v l s) (hx : s.job j = some x) : Coherent v l (s.holdPrinting j x) := by
  obtain ⟨h1, hd⟩ := h.drained hx (y := { holdOperator x with
    drain := if x.drain = some .service then some .service else some .hold }) rfl (x.drain = some .budget) x.account
  unfold State.holdPrinting
  dsimp only
  split
  · next p hp =>
    refine h1.endDrain_empty ?_
    rw [hd]
    exact h.assigned_of_printer hx hp
  · exact h1

/-- R51: HOLD-JOB takes a QUEUED job out of its queue. -/
theorem Coherent.holdQueued (h : Coherent v [] s) (hx : s.job j = some x) (hq : x.phase = .queued) :
    Coherent v [] ((s.setJob j (some { holdOperator x with phase := .held })).leaveQueue x.pool j) := by
  have h1 : Coherent v [] (s.setJob j (some (holdOperator x))) := h.setJob_same hx rfl
  have hx1 : (s.setJob j (some (holdOperator x))).job j = some (holdOperator x) := (jobSet_setJob s j _).self
  have hn : (holdOperator x).printer = none := by
    by_contra hne
    obtain e | e := (h.jobs j x hx).onPrinter hne <;> cases hq.symm.trans e
  have h2 := (h1.leave hx1 hn).holdAside hx1
  rw [← State.setJob_setJob s j (some (holdOperator x))]
  exact h2

theorem Coherent.holdJob (h : Coherent v [] s) (hx : s.job j = some x) : Coherent v [] (s.holdJob j x) := by
  unfold State.holdJob
  split
  · next hq => exact h.holdQueued hx hq
  · exact h.holdPrinting hx
  · exact h.setJob_same hx rfl

theorem Coherent.commandHold (h : Coherent v [] s) (token : Byte) (tag : Half) : Coherent v [] (s.commandHold token tag) := by
  unfold State.commandHold
  split
  · exact h.hand _
  split
  · exact h.hand _
  split
  · exact h.hand _
  · next hx _ => exact (h.holdJob hx).hand _

theorem Coherent.releaseHeld (h : Coherent v [] s) (hx : s.job j = some x) : Coherent v [] (s.releaseHeld j x) := by
  unfold State.releaseHeld
  split
  · next hp =>
    have h1 : Coherent v [] (s.setJob j (some { x with holds := emptyHolds })) := h.setJob_same hx rfl
    refine (h1.budgetTest x.account).requeue_waiting (x := { x with holds := emptyHolds }) ?_ (.inr hp)
    rw [job_budgetTest]
    exact (jobSet_setJob s j _).self
  · split
    · refine Coherent.tryReleases (h.setJob_same hx ?_) j
      rfl
    · exact h.setJob_same hx rfl
  · exact h.setJob_same hx rfl

theorem Coherent.commandRelease (h : Coherent v [] s) (token : Byte) (tag : Half) :
    Coherent v [] (s.commandRelease token tag) := by
  unfold State.commandRelease
  split
  · exact h.hand _
  split
  · exact h.hand _
  split
  · exact h.hand _
  · next hx _ => exact (h.releaseHeld hx).hand _

/-! ##### Accounts (R128 to R130) -/

theorem Coherent.commandAdjust (h : Coherent v [] s) (token : Byte) (n : Half) (amount : BitVec 32) :
    Coherent v [] (s.commandAdjust token n amount) := by
  unfold State.commandAdjust
  split
  · exact h.hand _
  · next a _ =>
    have h1 : Coherent v [] (s.setAccount a { s.account a with
        balance := clampBalance ((s.account a).balance + amount.toInt) }) := h.setAccount a rfl
    exact (h1.accountChange a).replyOk _ _ _

theorem Coherent.closePeriod (h : Coherent v l s) (a : Fin 512) :
    Coherent v l (s.setAccount a (Sys2Proof.Machine.closePeriod (s.account a))) := h.setAccount a rfl

theorem Coherent.commandClosePeriod (h : Coherent v [] s) (token : Byte) (n : Half) :
    Coherent v [] (s.commandClosePeriod token n) := by
  unfold State.commandClosePeriod
  split
  · exact h.hand _
  · next a _ => exact ((h.closePeriod a).accountChange a).replyOk _ _ _

theorem Coherent.commandCloseAll (h : Coherent v [] s) (token : Byte) : Coherent v [] (s.commandCloseAll token) := by
  have h1 := State.each_kept (P := Coherent v []) (fun _ a ht => ht.closePeriod a) s.validAccounts h
  exact Coherent.replyOk (State.each_kept (P := Coherent v []) (fun _ a ht => ht.accountChange a) _ h1) _ _ _

/-! ##### PRINTER-SERVICE (R55) -/

theorem Coherent.drainForService (h : Coherent v l s) (hx : s.job j = some x) (ha : (s.disp p).assigned = some j) :
    Coherent v l (s.drainForService p j x) := by
  obtain ⟨h1, hd⟩ := h.drained hx (y := { x with drain := some .service }) rfl (x.drain = some .budget) x.account
  refine h1.endDrain_empty ?_
  rw [hd]
  exact ha

theorem Coherent.serviceOut (h : Coherent v l s) (p : Fin 32) : Coherent v l (s.serviceOut p) := by
  unfold State.serviceOut
  dsimp only
  split
  · exact h.setPrinter p rfl
  · next j ha =>
    split
    · exact h
    · have h1 : Coherent v l (s.setLeaving p true) := h.setDisp p rfl rfl fun hn => nomatch ha.symm.trans hn
      have ha1 : ((s.setLeaving p true).disp p).assigned = some j := by
        unfold State.setLeaving
        rw [State.disp_setDisp, if_pos rfl]
        exact ha
      split
      · next hx => exact kept_ite (P := Coherent v l) (h1.drainForService hx ha1) h1
      · exact h1

theorem Coherent.undrainService (h : Coherent v l s) (j : Fin 128) : Coherent v l (s.undrainService j) := by
  unfold State.undrainService
  split
  · next x hx =>
    split
    · split
      · exact h.setJob_same hx rfl
      · refine Coherent.tryReleases (h.setJob_same hx ?_) j
        rfl
    · exact h
  · exact h

theorem Coherent.serviceIn (h : Coherent v l s) (p : Fin 32) : Coherent v l (s.serviceIn p) := by
  unfold State.serviceIn
  dsimp only
  split
  · have h1 : Coherent v l (s.setService p true) := h.setPrinter p rfl
    exact kept_ite (P := Coherent v l) h (h1.offerPrinter p)
  · have h1 : Coherent v l (s.setLeaving p false) := h.setDisp p rfl rfl fun _ _ h3 => ⟨rfl, h3⟩
    exact kept_ite (P := Coherent v l) (h1.undrainService _) h

theorem Coherent.commandService (h : Coherent v l s) (token printer : Byte) {f : State → Fin 32 → State}
    (hf : ∀ q, Coherent v l (f s q)) : Coherent v l (s.commandService token printer f) := by
  unfold State.commandService
  split
  · exact (hf _).hand _
  · exact h.hand _

/-! ##### The other commands -/

theorem Coherent.commandAck (h : Coherent v l s) (token kind : Byte) (index : Half) (cls : Byte) :
    Coherent v l (s.commandAck token kind index cls) := by
  unfold State.commandAck
  split
  · exact h.hand _
  split
  · exact h.hand _
  · refine Coherent.hand (h.alerts (alertOnly_acknowledge _ _ _) (.of_jli ?_)) _
    unfold State.acknowledge
    split <;> rfl

theorem Coherent.commandPortRestart (h : Coherent v l s) (token port : Byte) :
    Coherent v l (s.commandPortRestart token port) := by
  unfold State.commandPortRestart
  split
  · split
    · exact (h.restartPort _).hand _
    · exact h.hand _
  · exact h.hand _

theorem Coherent.setOverride (h : Coherent v l s) (b : Fin 8) (o : Option Override) : Coherent v l (s.setOverride b o) :=
  h.neutral rfl (.of_jli rfl)

theorem Coherent.commandOverride (h : Coherent v l s) (token beacon pattern : Byte) (seconds : Half) :
    Coherent v l (s.commandOverride token beacon pattern seconds) := by
  unfold State.commandOverride
  split
  · split
    · exact (h.setOverride _ _).hand _
    · exact h.hand _
  · exact h.hand _

theorem Coherent.commandSwap (h : Coherent v l s) (token : Byte) : Coherent v l (s.commandSwap token) := by
  have h1 : Coherent v l (s.setCurrentBank (otherBank s.chg.current)) := h.neutral rfl (.of_jli rfl)
  exact h1.hand _

theorem Coherent.refuseForm (h : Coherent v l s) (k : RequestKind) (b : List Byte) : Coherent v l (s.refuseForm k b) := by
  cases k with
  | tableWrite => exact h.hand _
  | tableRead => exact h.countChoice.countChoice.countChoice.hand _
  | command => exact h.countChoice.hand _

theorem Coherent.discardBytes (h : Coherent v l s) : Coherent v l s.discardBytes := by
  refine kept_ite (P := Coherent v l) h (h.neutral rfl ⟨List.prefix_rfl, ?_, rfl⟩)
  show _ ≤ satAdd _ _ _
  unfold satAdd
  omega

theorem Coherent.silenceRule (h : Coherent v l s) : Coherent v l s.silenceRule := by
  have h1 := h.setMgu { s.mgu with attended := true, timer := silenceStart s.now s.mgu.timeout }
  exact kept_ite (P := Coherent v l) h1 (kept_ite (P := Coherent v l) (h1.clear _).resumeDispatch (h1.clear _))

end Requests

end Sys2Proof.Machine

/-! #### Frames, commands and steps -/

namespace Sys2Proof.Machine

section Steps

variable {v : View} {l : List (Fin 128)} {s t : State} {j : Fin 128} {x : Job}

/-! ##### Resets and the wait of a RESTART (R172, R173) -/

theorem dispatchOk_resetKeeping (hl : ∀ p, (s.printer p).config.limit ≤ 8) (c : ResetCause) :
    DispatchOk (s.resetKeeping c) := by
  refine (setByReset_resetKeeping s c).dispatchOk (fun p => ?_) fun a => ?_
  · rw [printer_resetKeeping]
    exact hl p
  · rw [account_resetKeeping]
    rfl

theorem DispatchOk.resetKeeping (h : DispatchOk s) (c : ResetCause) : DispatchOk (s.resetKeeping c) :=
  dispatchOk_resetKeeping (fun p => (h.records p).limit.2) c

theorem dispatchOk_powerUp (s : State) : DispatchOk s.powerUp := by
  refine (setByReset_powerUp s).dispatchOk (fun p => ?_) fun a => ?_
  · show (State.reset.printer p).config.limit ≤ 8
    rw [printer_reset]
    decide
  · show (State.reset.account a).reserved = 0
    rw [account_reset]
    rfl

/-- R172: a RESTART's wait is for frames of the transmit list. -/
theorem Coherent.relink (h : Coherent v l s) (tx : List OutFrame) (r : Option Nat)
    (hr : ∀ n, r = some n → 1 ≤ n ∧ n ≤ tx.length) : Coherent v l ((s.setTx tx).setRestart r) where
  once := h.once
  members := h.members
  order := h.order
  records q := ⟨(h.records q).assigned, (h.records q).free, (h.records q).limit, (h.records q).entries⟩
  jobs n z hz := (h.jobs n z hz).of_disp (fun _ => rfl) fun _ => rfl
  settled n z hz hn := ⟨(h.settled n z hz hn).onPrinter, (h.settled n z hz hn).queued⟩
  aside := h.aside
  streams := h.streams
  bound := h.bound
  reserved := h.reserved
  restart := hr

/-- R172: the wait of a RESTART goes on, or it is over and the part resets. -/
theorem DispatchOk.restartNow (h : DispatchOk s) (tx : List OutFrame) {r : Option Nat}
    (hr : ∀ n, r = some n → n ≤ tx.length) : DispatchOk ((s.setTx tx).setRestart r).restartNow := by
  by_cases hz : r = some 0
  · rw [State.restartNow_over _ hz]
    exact dispatchOk_resetKeeping (fun p => (h.records p).limit.2) _
  · rw [State.restartNow_waiting _ hz]
    refine (h.coherent.relink tx r fun n hn => ⟨Nat.pos_of_ne_zero fun e => ?_, hr n hn⟩).toDispatchOk
    subst e
    exact hz hn

theorem DispatchOk.commandRestart (h : DispatchOk s) (token : Byte) : DispatchOk (s.commandRestart token) := by
  have h1 : DispatchOk (s.replyOk token .restart []) := (h.coherent.replyOk _ _ _).toDispatchOk
  refine h1.restartNow (s.replyOk token .restart []).jli.tx fun n hn => ?_
  cases hn
  split
  · exact Nat.le_refl _
  · exact Nat.zero_le _

/-- R167: a frame sent leaves one fewer to wait for. -/
theorem DispatchOk.popFrame (h : DispatchOk s) : DispatchOk s.popFrame := by
  unfold State.popFrame
  split
  · exact h
  · split
    · exact h
    · next f rest htx =>
      refine h.restartNow rest fun n hn => ?_
      cases hr : s.jli.restart with
      | none => rw [hr] at hn; cases hn
      | some m =>
        have hm := (h.restart m hr).2
        rw [htx, List.length_cons] at hm
        rw [hr] at hn
        cases hn
        omega

/-! ##### CANCEL-JOB (R146) -/

/-- A job that no stream is bound to is cancelled. -/
theorem DispatchOk.cancelUnbound (h : DispatchOk s) (hx : s.job j = some x) (hs : x.stream = none) (o : JobOutcome)
    (c : Cause) : DispatchOk (s.cancelJob j o c) := by
  have h1 := h.coherent.unbindStream hx
  rw [hs] at h1
  refine (h1.cancelJob hx o c).dispatchOk fun i k => ?_
  rw [View.freed_opened]
  exact ⟨fun hk => ⟨nofun, hk⟩, fun hk => hk.2⟩

theorem DispatchOk.commandCancel (h : DispatchOk s) (token : Byte) (tag : Half) :
    DispatchOk (s.commandCancel token tag) := by
  unfold State.commandCancel
  split
  · exact (h.coherent.hand _).toDispatchOk
  split
  · exact (h.coherent.hand _).toDispatchOk
  split
  · exact (h.coherent.hand _).toDispatchOk
  · next x hx _ =>
    refine (Coherent.replyOk (DispatchOk.coherent ?_) _ _ _).toDispatchOk
    unfold State.discardStream
    split
    · next i hs => exact h.cancelFrom hx hs (by nofun) _ _
    · next hs => exact h.cancelUnbound hx hs _ _

/-! ##### Frames -/

/-- R166: a valid frame keeps the agreement if its own effect does. -/
theorem DispatchOk.onFrame (h : DispatchOk s) {f : State → State} (hf : ∀ t, DispatchOk t → DispatchOk (f t)) :
    DispatchOk (s.onFrame f) :=
  kept_ite (P := DispatchOk) h (hf _ h.coherent.silenceRule.toDispatchOk).coherent.serviceLines.toDispatchOk

/-- A request that leaves the streams as they are. -/
theorem DispatchOk.onRequest (h : DispatchOk s) {f : State → State} (hf : ∀ t v, Coherent v [] t → Coherent v [] (f t)) :
    DispatchOk (s.onFrame f) := h.onFrame fun t ht => (hf t _ ht.coherent).toDispatchOk

theorem DispatchOk.stray (h : DispatchOk s) : DispatchOk s.stray := h.onRequest fun _ _ k => k.countStray

theorem DispatchOk.onJobFrame (h : DispatchOk s) (n : BitVec 4) {f : State → Fin 15 → State}
    (hf : ∀ t i, DispatchOk t → DispatchOk (f t i)) : DispatchOk (s.onJobFrame n f) := by
  unfold State.onJobFrame
  split
  · exact h.onFrame fun t ht => hf t _ ht
  · exact h.stray

/-- An event whose condition holds, and then the line arbiters. -/
theorem DispatchOk.served {b : Prop} [Decidable b] (h : DispatchOk s) (ht : Coherent s.view [] t) :
    DispatchOk (if b then t.serviceLines else s) := kept_ite (P := DispatchOk) ht.serviceLines.toDispatchOk h

/-! ##### Every command -/

/-- Every command keeps the agreement of queues, records, jobs, bindings and reserved amounts. -/
theorem dispatchOk_exec {c : Instr} (h : DispatchOk s) (he : exec c s = .next t) : DispatchOk t := by
  have step : ∀ {u w : State}, (Host.Outcome.next u : Host.Outcome State Fault Refusal) = .next w → DispatchOk u →
      DispatchOk w := by
    intro u w e hu
    cases e
    exact hu
  have k := h.coherent
  cases c with
  | powerOn => exact step he (dispatchOk_powerUp s)
  | resetLine => exact step he (h.resetKeeping _)
  | restartReset => exact step he (kept_ite (P := DispatchOk) (h.resetKeeping _) h)
  | linkError => exact step he (kept_ite (P := DispatchOk) k.discardBytes.toDispatchOk h)
  | strayFrame => exact step he (kept_ite (P := DispatchOk) h.stray h)
  | jobOpen n r => exact step he (h.onJobFrame n fun _ i ht => ht.onJobOpen i r)
  | sheet n d => exact step he (h.onJobFrame n fun _ i ht => ht.onSheet i d)
  | data n b =>
    exact step he (kept_ite (P := DispatchOk) k.discardBytes.toDispatchOk (h.onJobFrame n fun _ i ht => ht.onData i b))
  | jobClose n => exact step he (h.onJobFrame n fun _ i ht => ht.onJobClose i)
  | jobAbort n => exact step he (h.onJobFrame n fun _ i ht => ht.onJobAbort i)
  | tableRead => exact step he (h.onRequest fun _ _ k => k.readTable _ _ _ _)
  | tableWrite => exact step he (h.onRequest fun _ _ k => k.writeRaw _ _ _ _ _)
  | routeWrite => exact step he (h.onRequest fun _ _ k => k.writeEntries (fun _ _ _ _ e k => k.writeRoute e) _ _ _ _ _)
  | poolWrite => exact step he (h.onRequest fun _ _ k => k.writeEntries (fun _ _ _ _ e k => k.writePool e) _ _ _ _ _)
  | portWrite => exact step he (h.onRequest fun _ _ k => k.writeEntries (fun _ _ _ _ e k => k.writePort e) _ _ _ _ _)
  | printerWrite => exact step he (h.onRequest fun _ _ k => k.writeEntries (fun _ _ _ _ e k => k.writePrinter e) _ _ _ _ _)
  | tariffWrite => exact step he (h.onRequest fun _ _ k => k.writeBank _ _ _ _)
  | accountWrite => exact step he (h.onRequest fun _ _ k => k.writeEntries (fun _ _ _ _ e k => k.writeAccount e) _ _ _ _ _)
  | alertSetupWrite =>
    exact step he (h.onRequest fun _ _ k => k.writeEntries (fun _ _ _ _ e k => k.writeSetup e) _ _ _ _ _)
  | deviceConfigWrite =>
    exact step he (h.onRequest fun _ _ k => k.writeEntries (fun _ _ _ _ e k => k.writeDeviceConfig e) _ _ _ _ _)
  | malformed => exact step he (kept_ite (P := DispatchOk) (h.onRequest fun _ _ k => k.refuseForm _ _) h)
  | cancelJob => exact step he (h.onFrame fun _ ht => ht.commandCancel _ _)
  | holdJob => exact step he (h.onRequest fun _ _ k => k.commandHold _ _)
  | releaseJob => exact step he (h.onRequest fun _ _ k => k.commandRelease _ _)
  | adjust => exact step he (h.onRequest fun _ _ k => k.commandAdjust _ _ _)
  | closePeriod => exact step he (h.onRequest fun _ _ k => k.commandClosePeriod _ _)
  | closePeriodAll => exact step he (h.onRequest fun _ _ k => k.commandCloseAll _)
  | swapTariff => exact step he (h.onRequest fun _ _ k => k.commandSwap _)
  | ackAlert => exact step he (h.onRequest fun _ _ k => k.commandAck _ _ _ _)
  | printerServiceOut => exact step he (h.onRequest fun _ _ k => k.commandService _ _ fun p => k.serviceOut p)
  | printerServiceIn => exact step he (h.onRequest fun _ _ k => k.commandService _ _ fun p => k.serviceIn p)
  | portRestart => exact step he (h.onRequest fun _ _ k => k.commandPortRestart _ _)
  | beaconOverride => exact step he (h.onRequest fun _ _ k => k.commandOverride _ _ _ _)
  | restart => exact step he (h.onFrame fun _ ht => ht.commandRestart _)
  | frameSent => exact step he h.popFrame
  | silenceTimerExpiry => exact step he (h.served ((k.setMgu _).raise _))
  | pollDue => exact step he (h.served k)
  | echoMismatch => exact step he (kept_ite (P := DispatchOk) (k.receiveAndServe _ _).toDispatchOk h)
  | echoTimeout => exact step he (h.served (k.contend _))
  | blockTransmitted => exact step he (kept_ite (P := DispatchOk) (k.receiveAndServe _ _).toDispatchOk h)
  | responseWindowExpiry => exact step he (h.served (k.finishExchange _ _))
  | replyReceived => exact step he (kept_ite (P := DispatchOk) (k.receiveAndServe _ _).toDispatchOk h)
  | framingFault => exact step he (kept_ite (P := DispatchOk) (k.receiveAndServe _ _).toDispatchOk h)
  | breakReceived => exact step he (kept_ite (P := DispatchOk) (k.receiveAndServe _ _).toDispatchOk h)
  | lineIdle => exact step he (k.lineIdle _).serviceLines.toDispatchOk
  | recoveryLimitExpiry => exact step he (h.served (k.faultPort _))
  | faultRestExpiry => exact step he (h.served (k.modPort _ _))
  | stallTimerExpiry => exact step he (h.served (k.stallExpired _))
  | fallingChange => exact step he (h.served ((k.setSenseLines _).takeFall _))
  | risingChange => exact step he (h.served ((k.setSenseLines _).takeRise _))
  | beaconOverrideExpiry => exact step he (kept_ite (P := DispatchOk) (k.setOverride _ _).toDispatchOk h)
  | startConfirmed => exact step he (k.startConfirmed _ _).toDispatchOk
  | characterReceived => exact step he (kept_ite (P := DispatchOk) (k.receiveAndServe _ _).toDispatchOk h)
  | senseSample => exact step he (k.takeSamples _).serviceLines.toDispatchOk

theorem DispatchOk.setPending (h : DispatchOk s) (q : List Instr) : DispatchOk (s.setPending q) :=
  Coherent.toDispatchOk (h.coherent.neutral rfl (.of_jli rfl))

theorem DispatchOk.idle (h : DispatchOk s) : DispatchOk s.idle :=
  kept_ite (P := DispatchOk) (h.setPending _) (Coherent.toDispatchOk (h.coherent.neutral rfl (.of_jli rfl)))

theorem dispatchOk_step (h : DispatchOk s) (he : step s = .next t) : DispatchOk t := by
  unfold step at he
  split at he
  · exact dispatchOk_exec (h.setPending _) he
  · cases he
    exact h.idle

/-! ##### The reserved amounts' range (R123) -/

/-- R58, R123: 8 entries in each of 32 windows, of at most 196,605 each. -/
theorem DispatchOk.reserved_le (h : DispatchOk s) (a : Fin 512) : (s.account a).reserved ≤ 4294967295 := by
  have hshare : ∀ p, share s.accountOf a (s.disp p).window ≤ 8 * 196605 := fun p => by
    have o := h.records p
    have hentry : share s.accountOf a (s.disp p).window ≤ (s.disp p).window.length * 196605 := by
      have := List.sum_le_card_nsmul ((s.disp p).window.map fun e => if s.accountOf e.job = some a then e.estimate else 0)
        196605 fun n hn => ?_
      · rwa [List.length_map, smul_eq_mul] at this
      · obtain ⟨e, he, rfl⟩ := List.mem_map.1 hn
        split
        · exact (o.entries e he).2
        · exact Nat.zero_le _
    exact Nat.le_trans hentry (Nat.mul_le_mul_right _ (Nat.le_trans o.limit.1 o.limit.2))
  rw [h.reserved, reservedFor_eq]
  have hsum := Finset.sum_le_card_nsmul Finset.univ (fun p => share s.accountOf a (s.disp p).window) (8 * 196605)
    fun p _ => hshare p
  refine Nat.le_trans hsum ?_
  decide

end Steps

/-- Settles O48: the agreement survives every operation of a command, and so every step; it bounds the reserved amounts. -/
theorem dispatchInvariant : Obligations.DispatchInvariant := fun _ _ h he =>
  ⟨dispatchOk_step h he, (dispatchOk_step h he).reserved_le⟩

end Sys2Proof.Machine

/-! ## Admission (R31 to R40): the seven checks in their order -/

namespace Sys2Proof.Machine

/-! ### What each search of the checks finds -/

theorem jobWithTag_eq_none_iff {s : State} {tag : Half} :
    s.jobWithTag tag = none ↔ ∀ j x, s.job j = some x → x.tag ≠ tag := by
  unfold State.jobWithTag
  rw [List.find?_eq_none]
  refine ⟨fun h j x hx ht => h j (List.mem_finRange j) (by simp [hx, ht]), fun h j _ => ?_⟩
  cases hj : s.job j with
  | none => simp
  | some x => simpa using h j x hj

/-- R33: on a valid route the account charged is the one that the route's source gives. -/
theorem chargedAccount_eq (x : Route) (r : OpenRequest) :
    chargedAccount x r = if x.valid then ChargedNumber x r else none := by
  unfold chargedAccount
  cases x.valid <;> rfl

theorem openAccount_eq_some_iff {s : State} {n : Nat} {a : Fin 512} :
    s.openAccount n = some a ↔ n = a.val ∧ (s.account a).valid = true ∧ (s.account a).blocked = false := by
  unfold State.openAccount
  constructor
  · intro h
    split at h
    · split at h
      · next ho => cases h; simpa using ho
      · cases h
    · cases h
  · rintro ⟨rfl, hv, hb⟩
    simp [hv, hb]

/-- R35: every flag of a mask of needs stands in a mask of capabilities. -/
theorem and_eq_left_iff {need cap : BitVec 4} :
    need &&& cap = need ↔ ∀ b, need.getLsbD b = true → cap.getLsbD b = true := by
  constructor
  · intro h b hb
    rw [← h, BitVec.getLsbD_and, Bool.and_eq_true] at hb
    exact hb.2
  · intro h
    refine BitVec.eq_of_getLsbD_eq fun b _ => ?_
    rw [BitVec.getLsbD_and]
    cases hn : need.getLsbD b with
    | false => rfl
    | true => simpa using h b hn

theorem canServe_iff {s : State} {k : Fin 16} {need : Needs} {p : Fin 32} :
    canServe k need (s.printer p).config = true ↔ CapableMember s k need p := by
  unfold canServe meets
  simp only [Bool.and_eq_true, Bool.or_eq_true, Bool.not_eq_true', beq_iff_eq, and_eq_left_iff]
  constructor
  · rintro ⟨⟨hc, hp⟩, ⟨⟨hcol, hdup⟩, hsize⟩, hmedia⟩
    exact ⟨hc, hp, fun h => hcol.resolve_left (by simp [h]), fun h => hdup.resolve_left (by simp [h]), hsize, hmedia⟩
  · rintro ⟨hc, hp, hcol, hdup, hsize, hmedia⟩
    exact ⟨⟨hc, hp⟩, ⟨⟨(Bool.eq_false_or_eq_true _).symm.imp_right hcol,
      (Bool.eq_false_or_eq_true _).symm.imp_right hdup⟩, hsize⟩, hmedia⟩

theorem poolCanPrint_iff {s : State} {k : Fin 16} {need : Needs} :
    s.poolCanPrint k need = true ↔ ∃ p, CapableMember s k need p := by
  unfold State.poolCanPrint
  simp [canServe_iff]

theorem lowestFreeSlot_eq_none_iff {s : State} : s.lowestFreeSlot = none ↔ ¬∃ j, s.job j = none := by
  unfold State.lowestFreeSlot
  simp [State.slotFree]

/-- R38: of the FREE slots the lowest is found. -/
theorem lowestFreeSlot_eq {s : State} {j : Fin 128} (hj : s.job j = none) (hlow : ∀ k, k < j → s.job k ≠ none) :
    s.lowestFreeSlot = some j := by
  unfold State.lowestFreeSlot
  refine List.find?_eq_some_iff_getElem.2 ⟨by simp [State.slotFree, hj], j.val, by simp, by simp, fun i hi => ?_⟩
  have hk := hlow ⟨i, by omega⟩ hi
  simpa [State.slotFree] using Option.ne_none_iff_isSome.1 hk

/-! ### The first check that fails (R32) -/

section Checks

variable {s : State} {r : OpenRequest}

theorem passes_tag_iff : AdmissionPasses s r 1 ↔ s.jobWithTag r.tag = none := jobWithTag_eq_none_iff.symm

/-- R33: a FIXED account is always given. -/
theorem passes_given_iff : AdmissionPasses s r 3 ↔ ChargedNumber (s.routeOf r) r ≠ none := by
  show ((s.routeOf r).fromJob = true → r.account ≠ none) ↔ _
  unfold ChargedNumber
  cases (s.routeOf r).fromJob <;> simp

theorem passes_account_iff :
    AdmissionPasses s r 4 ↔ ∃ n a, ChargedNumber (s.routeOf r) r = some n ∧ s.openAccount n = some a := by
  simp only [openAccount_eq_some_iff]
  constructor
  · rintro ⟨a, hn, ha⟩
    exact ⟨a.val, a, hn, rfl, ha⟩
  · rintro ⟨_, a, hn, rfl, ha⟩
    exact ⟨a, hn, ha⟩

/-- R34: some permission needed is missing. -/
theorem passes_permission_iff : AdmissionPasses s r 5 ↔
    ((r.needs.colour && !(s.routeOf r).colour) || (r.needs.duplex && !(s.routeOf r).duplex)) = false := by
  show (_ → _) ∧ (_ → _) ↔ _
  cases r.needs.colour <;> cases r.needs.duplex <;> simp

theorem passes_printer_iff : AdmissionPasses s r 6 ↔ s.poolCanPrint (s.routeOf r).pool r.needs = true :=
  poolCanPrint_iff.symm

/-- R32: where checks 1 to 6 pass, the account that check 4 found is charged. -/
theorem admissionCheck_ok {a : Fin 512} (h : ∀ n, 1 ≤ n → n ≤ 6 → AdmissionPasses s r n)
    (ha : ChargedNumber (s.routeOf r) r = some a.val) : s.admissionCheck r = .ok a := by
  have tag := passes_tag_iff.1 (h 1 (by omega) (by omega))
  have valid : (s.routeOf r).valid = true := h 2 (by omega) (by omega)
  have opened : s.openAccount a.val = some a := by
    obtain ⟨b, hb, hopen⟩ : AdmissionPasses s r 4 := h 4 (by omega) (by omega)
    obtain rfl : a = b := Fin.ext (Option.some.inj (ha.symm.trans hb))
    exact openAccount_eq_some_iff.2 ⟨rfl, hopen⟩
  have permitted := passes_permission_iff.1 (h 5 (by omega) (by omega))
  have capable := passes_printer_iff.1 (h 6 (by omega) (by omega))
  simp [State.admissionCheck, tag, valid, chargedAccount_eq, ha, opened, permitted, capable]

/-- R32: of checks 1 to 6 the first that fails gives the cause. -/
theorem admissionCheck_error {n : Nat} (h1 : 1 ≤ n) (h6 : n ≤ 6) (pass : ∀ m, 1 ≤ m → m < n → AdmissionPasses s r m)
    (fail : ¬AdmissionPasses s r n) : s.admissionCheck r = .error (admissionCause n) := by
  obtain rfl | hn := Nat.eq_or_lt_of_le h1
  · simp [State.admissionCheck, Option.ne_none_iff_isSome.1 (mt passes_tag_iff.2 fail), admissionCause]
  have tag := passes_tag_iff.1 (pass 1 (by omega) hn)
  obtain rfl | hn := Nat.eq_or_lt_of_le (Nat.succ_le_of_lt hn)
  · have invalid : (s.routeOf r).valid = false := Bool.eq_false_iff.2 fail
    simp [State.admissionCheck, tag, invalid, admissionCause]
  have valid : (s.routeOf r).valid = true := pass 2 (by omega) hn
  obtain rfl | hn := Nat.eq_or_lt_of_le (Nat.succ_le_of_lt hn)
  · have missing : ChargedNumber (s.routeOf r) r = none := Classical.not_not.1 (mt passes_given_iff.2 fail)
    simp [State.admissionCheck, tag, valid, chargedAccount_eq, missing, admissionCause]
  obtain ⟨k, charged⟩ := Option.ne_none_iff_exists'.1 (passes_given_iff.1 (pass 3 (by omega) hn))
  obtain rfl | hn := Nat.eq_or_lt_of_le (Nat.succ_le_of_lt hn)
  · have closed : s.openAccount k = none :=
      Option.eq_none_iff_forall_ne_some.2 fun a ha => fail (passes_account_iff.2 ⟨k, a, charged, ha⟩)
    simp [State.admissionCheck, tag, valid, chargedAccount_eq, charged, closed, admissionCause]
  obtain ⟨k', a, charged', opened⟩ := passes_account_iff.1 (pass 4 (by omega) hn)
  obtain rfl : k = k' := Option.some.inj (charged.symm.trans charged')
  obtain rfl | hn := Nat.eq_or_lt_of_le (Nat.succ_le_of_lt hn)
  · have forbidden := Bool.eq_true_of_not_eq_false (mt passes_permission_iff.2 fail)
    simp only [State.admissionCheck, tag, valid, chargedAccount_eq, charged, forbidden, admissionCause]
    simp [opened]
  have permitted := passes_permission_iff.1 (pass 5 (by omega) hn)
  obtain rfl : n = 6 := by omega
  have incapable := Bool.eq_false_iff.2 (mt passes_printer_iff.2 fail)
  simp [State.admissionCheck, tag, valid, chargedAccount_eq, charged, opened, permitted, incapable, admissionCause]

/-- R32: an account is charged only where checks 1 to 6 pass, and it is the one that check 4 found. -/
theorem admissionCheck_ok_iff {a : Fin 512} : s.admissionCheck r = .ok a ↔
    (∀ n, 1 ≤ n → n ≤ 6 → AdmissionPasses s r n) ∧ ChargedNumber (s.routeOf r) r = some a.val := by
  classical
  refine ⟨fun h => ?_, fun h => admissionCheck_ok h.1 h.2⟩
  have pass : ∀ n, 1 ≤ n → n ≤ 6 → AdmissionPasses s r n := by
    intro n
    induction n using Nat.strong_induction_on with
    | _ n ih =>
      intro h1 h6
      by_contra fail
      rw [admissionCheck_error h1 h6 (fun m hm hn => ih m hn hm (by omega)) fail] at h
      cases h
  obtain ⟨b, charged, _⟩ : AdmissionPasses s r 4 := pass 4 (by omega) (by omega)
  rw [admissionCheck_ok pass charged] at h
  cases h
  exact ⟨pass, charged⟩

end Checks

/-! ### A JOB-OPEN on an IDLE stream (R4, R5) -/

section Opening

variable {s : State} {i : Fin 15} {r : OpenRequest}

theorem onJobOpen_idle (h : s.stream i = .idle) (r : OpenRequest) : s.onJobOpen i r = s.passToAdmission i r := by
  simp [State.onJobOpen, h]

theorem passToAdmission_admitted {a : Fin 512} {j : Fin 128} (h : s.admissionCheck r = .ok a)
    (hj : s.lowestFreeSlot = some j) : s.passToAdmission i r = s.admitJob i r a j := by
  simp [State.passToAdmission, h, hj]

/-- R5, R32: a JOB-OPEN is refused with the cause of the first of the seven checks that fails. -/
theorem passToAdmission_refused {n : Nat} (h1 : 1 ≤ n) (h7 : n ≤ 7)
    (pass : ∀ m, 1 ≤ m → m < n → AdmissionPasses s r m) (fail : ¬AdmissionPasses s r n) :
    s.passToAdmission i r = s.refuseOpen i r (admissionCause n) := by
  by_cases h6 : n ≤ 6
  · simp [State.passToAdmission, admissionCheck_error h1 h6 pass fail]
  · obtain rfl : n = 7 := by omega
    obtain ⟨a, charged, _⟩ : AdmissionPasses s r 4 := pass 4 (by omega) (by omega)
    have hok := admissionCheck_ok (fun m hm h6 => pass m hm (by omega)) charged
    have full : s.lowestFreeSlot = none := lowestFreeSlot_eq_none_iff.2 fail
    simp [State.passToAdmission, hok, full, admissionCause]

end Opening

/-- R24, R37: the report of a refused JOB-OPEN, field by field. -/
theorem refusalReport_eq (x : Route) (r : OpenRequest) (c : Cause) :
    refusalReport x r c =
      { tag := r.tag
        outcome := .refused
        cause := c
        account := if x.valid then ChargedNumber x r else none
        sheets := 0
        copies := if r.copies.toNat = 0 then 1 else min r.copies.toNat 99
        delivered := 0
        sheetsLost := 0
        chargeTotal := 0
        lastPrinter := none } := by
  unfold refusalReport
  rw [chargedAccount_eq]
  rfl

/-- Settles O16: admission refuses with the cause of the first failing check, and the stream is put in DISCARD. -/
theorem jobOpenIsRefusedByTheFirstFailingCheck : Obligations.JobOpenIsRefusedByTheFirstFailingCheck := by
  intro s u i r n hr hu hi h1 h7 pass fail
  subst hu
  refine ⟨_, _, exec_jobOpen hr i r, rfl, ?_⟩
  rw [onJobOpen_idle hi, passToAdmission_refused h1 h7 pass fail, ← setStream_eq, ← refusalReport_eq]
  exact linesOnly_serviceLines _

/-- Settles O15: with all seven checks passing, the lowest FREE slot takes the admitted job's record. -/
theorem jobOpenIsAdmitted : Obligations.JobOpenIsAdmitted := by
  intro s u i r a j hr hu hi pass charged hj hlow
  subst hu
  have hok := admissionCheck_ok (fun n h1 h6 => pass n h1 (by omega)) charged
  refine ⟨_, exec_jobOpen hr i r, ?_⟩
  rw [onJobOpen_idle hi, passToAdmission_admitted hok (lowestFreeSlot_eq hj hlow)]
  exact linesOnly_serviceLines _

end Sys2Proof.Machine

/-! ## Routes, pools, printers, accounts and bound counts (R29, R39, R44, R88, R109, R119, R121) -/

namespace Sys2Proof.Machine

/-! ### The live jobs that name one thing -/

section LiveNaming

variable {α : Type} [DecidableEq α] (f : Job → α) (a : α)

/-- The number of live jobs whose field `f` is `a`. -/
def liveNaming (jobs : Vector (Option Job) 128) : Nat := jobs.toList.countP fun o => o.map f == some a

theorem liveNaming_congr {u v : Vector (Option Job) 128} (h : ∀ j, (v.get j).map f = (u.get j).map f) :
    liveNaming f a v = liveNaming f a u := by
  simp [liveNaming, toList_eq_map_get, List.countP_map, Function.comp_def, h]

theorem liveNaming_fill {jobs : Vector (Option Job) 128} {j : Fin 128} (h : jobs.get j = none) (x : Job) :
    liveNaming f a (put jobs j (some x)) = liveNaming f a jobs + if f x = a then 1 else 0 := by
  simpa [liveNaming, h] using countP_put (fun o : Option Job => o.map f == some a) jobs j (some x)

theorem liveNaming_free {jobs : Vector (Option Job) 128} {j : Fin 128} {x : Job} (h : jobs.get j = some x) :
    liveNaming f a (put jobs j none) = liveNaming f a jobs - if f x = a then 1 else 0 := by
  have hput : liveNaming f a (put jobs j none) + (if f x = a then 1 else 0) = liveNaming f a jobs := by
    simpa [liveNaming, h] using countP_put (fun o : Option Job => o.map f == some a) jobs j none
  omega

/-- The thing that a live job names is named. -/
theorem liveNaming_ne_zero {jobs : Vector (Option Job) 128} {j : Fin 128} {x : Job} (h : jobs.get j = some x) :
    liveNaming f (f x) jobs ≠ 0 := by
  have hmem := mem_toList jobs j
  rw [h] at hmem
  exact (List.countP_pos_iff.2 ⟨_, hmem, by simp⟩).ne'

end LiveNaming

theorem jobsOfAccount_eq (jobs : Vector (Option Job) 128) (a : Fin 512) :
    jobsOfAccount jobs a = liveNaming Job.account a jobs := by
  unfold jobsOfAccount liveNaming
  congr 1
  funext o
  cases o <;> simp

theorem jobsOfBank_eq (jobs : Vector (Option Job) 128) (b : Fin 2) : jobsOfBank jobs b = liveNaming Job.bank b jobs := by
  unfold jobsOfBank liveNaming
  congr 1
  funext o
  cases o <;> simp

/-! ### What names a pool and a FIXED account -/

theorem any_toList_iff {α : Type} {n : Nat} {f : α → Bool} {v : Vector α n} :
    v.toList.any f = true ↔ ∃ i, f (v.get i) = true := by
  simp [toList_eq_map_get]

/-- R44: a pool is named by a valid route, by a live job or by a configured printer. -/
theorem poolNamed_iff {s : State} {k : Fin 16} : s.poolNamed k = true ↔
    (∃ r, (s.route r).valid = true ∧ (s.route r).pool = k) ∨ (∃ j x, s.job j = some x ∧ x.pool = k) ∨
      ∃ p, (s.printer p).config.configured = true ∧ (s.printer p).config.pool = some k := by
  have live : (∃ j, (match s.spm.jobs.get j with | some x => x.pool == k | none => false) = true) ↔
      ∃ j x, s.job j = some x ∧ x.pool = k := by
    refine exists_congr fun j => ?_
    show _ ↔ ∃ x, s.spm.jobs.get j = some x ∧ x.pool = k
    cases s.spm.jobs.get j <;> simp
  unfold State.poolNamed
  simp only [Bool.or_eq_true, any_toList_iff, Bool.and_eq_true, beq_iff_eq, or_assoc]
  exact or_congr Iff.rfl (or_congr live Iff.rfl)

/-- R119: an account is named by a valid route whose source is FIXED. -/
theorem fixedBySome_iff {s : State} {a : Fin 512} : s.fixedBySome a = true ↔
    ∃ r, (s.route r).valid = true ∧ (s.route r).fromJob = false ∧ (s.route r).fixedAccount = a := by
  unfold State.fixedBySome
  simp only [any_toList_iff, Bool.and_eq_true, Bool.not_eq_true', beq_iff_eq, and_assoc]
  rfl

/-- R29: a valid route that may be stored names an enabled pool and, when FIXED, a valid account. -/
theorem routeAllowed_iff {s : State} {x : Route} : s.routeAllowed x = true ↔
    (x.valid = true → (s.pool x.pool).enabled = true ∧ (x.fromJob = false → (s.account x.fixedAccount).valid = true)) := by
  unfold State.routeAllowed
  cases x.valid <;> cases x.fromJob <;> simp

/-- R88: a record that may be stored is, when configured, no member of a disabled pool. -/
theorem namesDisabledPool_false {s : State} {c : PrinterConfig} (h : s.namesDisabledPool c = false)
    (hc : c.configured = true) {k : Fin 16} (hk : c.pool = some k) : (s.pool k).enabled = true := by
  simpa [State.namesDisabledPool, hc, hk] using h

/-! ### Operations that leave all of this as it is -/

/-- What a job record binds: its account, its bank and its pool (R39). -/
def bindingOf (x : Job) := (x.account, x.bank, x.pool)

/-- The routes, the enabled pools, the printers' configuration, the valid accounts, the bound counts and what the live jobs
are bound to are the same. -/
structure SameBinding (s t : State) : Prop where
  routes : ∀ r, t.route r = s.route r
  pools : ∀ k, (t.pool k).enabled = (s.pool k).enabled
  printers : ∀ p, (t.printer p).config = (s.printer p).config
  valid : ∀ a, (t.account a).valid = (s.account a).valid
  accounts : ∀ a, (t.account a).bound = (s.account a).bound
  banks : ∀ b, t.chg.bound.get b = s.chg.bound.get b
  jobs : ∀ j, (t.job j).map bindingOf = (s.job j).map bindingOf

theorem SameBinding.refl (s : State) : SameBinding s s :=
  ⟨fun _ => rfl, fun _ => rfl, fun _ => rfl, fun _ => rfl, fun _ => rfl, fun _ => rfl, fun _ => rfl⟩

theorem SameBinding.trans {s t u : State} (h : SameBinding s t) (k : SameBinding t u) : SameBinding s u where
  routes r := (k.routes r).trans (h.routes r)
  pools i := (k.pools i).trans (h.pools i)
  printers p := (k.printers p).trans (h.printers p)
  valid a := (k.valid a).trans (h.valid a)
  accounts a := (k.accounts a).trans (h.accounts a)
  banks b := (k.banks b).trans (h.banks b)
  jobs j := (k.jobs j).trans (h.jobs j)

/-- The parts of the state that the law of routes and bindings speaks of. -/
def bindingParts (s : State) := (s.rcl.routes, s.dsc.pools, s.pra, s.acm.accounts, s.chg.bound, s.spm.jobs)

theorem SameBinding.of_parts {s t : State} (h : bindingParts t = bindingParts s) : SameBinding s t := by
  simp only [bindingParts, Prod.mk.injEq] at h
  obtain ⟨routes, pools, printers, accounts, banks, jobs⟩ := h
  exact
    { routes := fun r => by unfold State.route; rw [routes]
      pools := fun k => by unfold State.pool; rw [pools]
      printers := fun p => by unfold State.printer; rw [printers]
      valid := fun a => by unfold State.account; rw [accounts]
      accounts := fun a => by unfold State.account; rw [accounts]
      banks := fun b => by rw [banks]
      jobs := fun j => by unfold State.job; rw [jobs] }

theorem JobKept.bindingOf {x y : Job} (h : JobKept x y) : bindingOf y = bindingOf x := by
  unfold JobKept at h; rw [h]; rfl

theorem DispatchOnly.sameBinding {s t : State} (h : DispatchOnly s t) : SameBinding s t where
  routes r := by unfold State.route; rw [h.rest]
  pools k := by rw [h.pools k]
  printers := h.printers
  valid a := by rw [h.accounts a]
  accounts a := by rw [h.accounts a]
  banks b := by rw [h.rest]
  jobs j := by
    cases e : s.job j with
    | none => rw [h.free j e]
    | some x =>
      obtain ⟨y, hy, k⟩ := h.live j x e
      rw [hy, Option.map_some, Option.map_some, k.kept.bindingOf]

theorem AlertOnly.sameBinding {s t : State} (h : AlertOnly s t) : SameBinding s t := h.dispatchOnly.sameBinding

theorem sameBinding_hand (s : State) (f : OutFrame) : SameBinding s (s.hand f) := by
  refine .of_parts ?_
  rw [hand_only]
  rfl

/-- A job record changes in its slot and keeps its bindings. -/
theorem sameBinding_job {s : State} {j : Fin 128} {x y : Job} (e : s.job j = some x) (h : JobKept x y) :
    SameBinding s (s.setJob j (some y)) :=
  { SameBinding.refl s with
    jobs := fun i => by
      rw [State.job_setJob]
      split
      · next ei => rw [ei, e, Option.map_some, Option.map_some, h.bindingOf]
      · rfl }

theorem sameBinding_account {s : State} {a : Fin 512} {x : Account} (hv : x.valid = (s.account a).valid)
    (hb : x.bound = (s.account a).bound) : SameBinding s (s.setAccount a x) :=
  { SameBinding.refl s with
    valid := fun i => by
      rw [State.account_setAccount]
      split
      · next e => rw [e, hv]
      · rfl
    accounts := fun i => by
      rw [State.account_setAccount]
      split
      · next e => rw [e, hb]
      · rfl }

theorem SameAccount.valid {x y : Account} (h : SameAccount x y) : y.valid = x.valid := by rw [h.1]

theorem SameAccount.bound {x y : Account} (h : SameAccount x y) : y.bound = x.bound := by rw [h.1]

theorem bindingParts_freeSheetBlocks (s : State) (n : Nat) : bindingParts (s.freeSheetBlocks n) = bindingParts s := by
  unfold State.freeSheetBlocks
  split <;> rfl

theorem bindingParts_freeSheets (s : State) (l : List Nat) : bindingParts (s.freeSheets l) = bindingParts s :=
  State.each_kept (P := fun t => bindingParts t = bindingParts s)
    (fun t n ht => (bindingParts_freeSheetBlocks t n).trans ht) l rfl

theorem SameBinding.setJob {s t : State} (h : SameBinding s t) (j : Fin 128) (o : Option Job) :
    SameBinding (s.setJob j o) (t.setJob j o) :=
  { h with
    jobs := fun i => by
      simp only [State.job_setJob]
      split
      · rfl
      · exact h.jobs i }

/-! ### The law -/

/-- R29, R39, R44, R88, R109, R121: what RouteAndBindingInvariant says of a state. -/
structure BindingLaw (s : State) : Prop where
  routes : RoutesOk s
  members : MembersOk s
  bound : BoundOk s

theorem BoundOk.of_counts {s : State} (ha : ∀ a, (s.account a).bound = liveNaming Job.account a s.spm.jobs)
    (hb : ∀ b, s.chg.bound.get b = liveNaming Job.bank b s.spm.jobs)
    (hv : ∀ j x, s.job j = some x → (s.account x.account).valid = true ∧ (s.pool x.pool).enabled = true) : BoundOk s where
  accounts a := by rw [jobsOfAccount_eq]; exact ha a
  banks b := by rw [jobsOfBank_eq]; exact hb b
  valid j x e := (hv j x e).1
  pools j x e := (hv j x e).2

theorem BoundOk.account_count {s : State} (h : BoundOk s) (a : Fin 512) :
    (s.account a).bound = liveNaming Job.account a s.spm.jobs := (h.accounts a).trans (jobsOfAccount_eq _ a)

theorem BoundOk.bank_count {s : State} (h : BoundOk s) (b : Fin 2) :
    s.chg.bound.get b = liveNaming Job.bank b s.spm.jobs := (h.banks b).trans (jobsOfBank_eq _ b)

theorem SameBinding.fields {s t : State} (h : SameBinding s t) {j : Fin 128} {y : Job} (e : t.job j = some y) :
    ∃ x, s.job j = some x ∧ y.account = x.account ∧ y.bank = x.bank ∧ y.pool = x.pool := by
  have hj := h.jobs j
  rw [e, Option.map_some] at hj
  obtain ⟨x, hx, hb⟩ := Option.map_eq_some_iff.1 hj.symm
  simp only [bindingOf, Prod.mk.injEq] at hb
  exact ⟨x, hx, hb.1.symm, hb.2.1.symm, hb.2.2.symm⟩

/-- A count of live jobs by what they are bound to. -/
theorem SameBinding.liveNaming {s t : State} (h : SameBinding s t) {α : Type} [DecidableEq α]
    (g : Fin 512 × Fin 2 × Fin 16 → α) (a : α) :
    liveNaming (fun x => g (bindingOf x)) a t.spm.jobs = Machine.liveNaming (fun x => g (bindingOf x)) a s.spm.jobs :=
  liveNaming_congr _ a fun j => by
    have hj := congrArg (Option.map g) (h.jobs j)
    rw [Option.map_map, Option.map_map] at hj
    exact hj

theorem SameBinding.law {s t : State} (k : SameBinding s t) (h : BindingLaw s) : BindingLaw t where
  routes r hr := by
    rw [k.routes] at hr ⊢
    rw [k.pools, k.valid]
    exact h.routes r hr
  members p i hc hp := by
    rw [k.printers] at hc hp
    rw [k.pools]
    exact h.members p i hc hp
  bound := .of_counts
    (fun a => by rw [k.accounts, h.bound.account_count]; exact (k.liveNaming Prod.fst a).symm)
    (fun b => by rw [k.banks, h.bound.bank_count]; exact (k.liveNaming (fun g => g.2.1) b).symm)
    (fun j y e => by
      obtain ⟨x, hx, ha, _, hp⟩ := k.fields e
      rw [ha, hp, k.valid, k.pools]
      exact ⟨h.bound.valid j x hx, h.bound.pools j x hx⟩)

theorem BindingLaw.of_parts {s t : State} (h : BindingLaw s) (k : bindingParts t = bindingParts s) : BindingLaw t :=
  (SameBinding.of_parts k).law h

/-! ### One entry of a table is replaced -/

/-- R28, R29: a route that may be stored is stored. -/
theorem BindingLaw.setRoute {s : State} (h : BindingLaw s) (r : Fin 256) {x : Route} (hx : s.routeAllowed x = true) :
    BindingLaw (s.setRoute r x) where
  routes i hi := by
    rw [State.route_setRoute] at hi ⊢
    split at hi
    · next e => rw [if_pos e]; exact routeAllowed_iff.1 hx hi
    · next e => rw [if_neg e]; exact h.routes i hi
  members := h.members
  bound := ⟨h.bound.accounts, h.bound.banks, h.bound.valid, h.bound.pools⟩

/-- R44: a pool is enabled, or disabled while nothing names it. -/
theorem BindingLaw.setPool {s : State} (h : BindingLaw s) (k : Fin 16) {x : Pool}
    (hx : x.enabled = false → s.poolNamed k = false) : BindingLaw (s.setPool k x) := by
  have enabled : ∀ i, s.poolNamed i = true → (s.pool i).enabled = true → ((s.setPool k x).pool i).enabled = true := by
    intro i hn he
    rw [State.pool_setPool]
    split
    · next e =>
      subst e
      exact Bool.eq_true_of_not_eq_false fun hf => by rw [hx hf] at hn; cases hn
    · exact he
  exact
    { routes := fun r hr =>
        ⟨enabled _ (poolNamed_iff.2 (.inl ⟨r, hr, rfl⟩)) (h.routes r hr).1, (h.routes r hr).2⟩
      members := fun p i hc hp => enabled i (poolNamed_iff.2 (.inr (.inr ⟨p, hc, hp⟩))) (h.members p i hc hp)
      bound :=
        { accounts := h.bound.accounts
          banks := h.bound.banks
          valid := h.bound.valid
          pools := fun j y e => enabled _ (poolNamed_iff.2 (.inr (.inl ⟨j, y, e, rfl⟩))) (h.bound.pools j y e) } }

/-- R88: a printer record is written, as no member of a disabled pool when it is configured. -/
theorem BindingLaw.setPrinter {s : State} (h : BindingLaw s) (p : Fin 32) {x : Printer}
    (hx : s.namesDisabledPool x.config = false) : BindingLaw (s.setPrinter p x) where
  routes := h.routes
  members i k hc hk := by
    rw [State.printer_setPrinter] at hc hk
    split at hc
    · next e => rw [if_pos e] at hk; exact namesDisabledPool_false hx hc hk
    · next e => rw [if_neg e] at hk; exact h.members i k hc hk
  bound := ⟨h.bound.accounts, h.bound.banks, h.bound.valid, h.bound.pools⟩

/-- R119, R121: an account keeps its bound count, and is made not valid only while nothing is bound to it and no valid route
names it. -/
theorem BindingLaw.setAccount {s : State} (h : BindingLaw s) (a : Fin 512) {x : Account}
    (hb : x.bound = (s.account a).bound) (hx : x.valid = false → (s.account a).bound = 0 ∧ s.fixedBySome a = false) :
    BindingLaw (s.setAccount a x) := by
  have valid : ∀ i, ((s.account i).bound ≠ 0 ∨ s.fixedBySome i = true) → (s.account i).valid = true →
      ((s.setAccount a x).account i).valid = true := by
    intro i hn hv
    rw [State.account_setAccount]
    split
    · next e =>
      subst e
      refine Bool.eq_true_of_not_eq_false fun hf => ?_
      obtain ⟨hzero, hfixed⟩ := hx hf
      obtain hn | hn := hn
      · exact hn hzero
      · rw [hfixed] at hn; cases hn
    · exact hv
  exact
    { routes := fun r hr => ⟨(h.routes r hr).1, fun hf =>
        valid _ (.inr (fixedBySome_iff.2 ⟨r, hr, hf, rfl⟩)) ((h.routes r hr).2 hf)⟩
      members := h.members
      bound := .of_counts
        (fun i => by
          rw [State.account_setAccount]
          split
          · next e => rw [e, hb]; exact h.bound.account_count a
          · exact h.bound.account_count i)
        h.bound.bank_count
        (fun j y e => ⟨valid _ (.inl (by
          rw [h.bound.account_count]
          exact liveNaming_ne_zero Job.account e)) (h.bound.valid j y e), h.bound.pools j y e⟩) }

/-! ### A job starts and ends (R22, R38, R39) -/

section Binding

variable (s : State) (a i : Fin 512) (b k : Fin 2)

theorem valid_bindJob : ((s.bindJob a b).account i).valid = (s.account i).valid := by
  unfold State.bindJob
  rw [State.account_setBankBound, State.account_setAccount]
  split
  · next e => rw [e]
  · rfl

theorem bound_bindJob : ((s.bindJob a b).account i).bound = (s.account i).bound + if a = i then 1 else 0 := by
  unfold State.bindJob
  rw [State.account_setBankBound, State.account_setAccount]
  split
  · next e => rw [if_pos e.symm, e]
  · next e => rw [if_neg fun h => e h.symm, Nat.add_zero]

theorem bank_bindJob : (s.bindJob a b).chg.bound.get k = s.chg.bound.get k + if b = k then 1 else 0 := by
  unfold State.bindJob
  rw [State.setBankBound_bound, put_get]
  split
  · next e => rw [if_pos e.symm, e]
  · next e => rw [if_neg fun h => e h.symm]; rfl

theorem valid_unbindJob : ((s.unbindJob a b).account i).valid = (s.account i).valid := by
  unfold State.unbindJob
  rw [State.account_setBankBound, State.account_setAccount]
  split
  · next e => rw [e]
  · rfl

theorem bound_unbindJob : ((s.unbindJob a b).account i).bound = (s.account i).bound - if a = i then 1 else 0 := by
  unfold State.unbindJob
  rw [State.account_setBankBound, State.account_setAccount]
  split
  · next e => rw [if_pos e.symm, e]
  · next e => rw [if_neg fun h => e h.symm, Nat.sub_zero]

theorem bank_unbindJob : (s.unbindJob a b).chg.bound.get k = s.chg.bound.get k - if b = k then 1 else 0 := by
  unfold State.unbindJob
  rw [State.setBankBound_bound, put_get]
  split
  · next e => rw [if_pos e.symm, e]
  · next e => rw [if_neg fun h => e h.symm]; rfl

end Binding

/-- R38, R39: a FREE slot takes a job that is charged to a valid account in an enabled pool, and both counts rise. -/
theorem BindingLaw.bindJob {s : State} (h : BindingLaw s) {j : Fin 128} (hj : s.job j = none) {x : Job}
    (hv : (s.account x.account).valid = true) (hp : (s.pool x.pool).enabled = true) :
    BindingLaw ((s.setJob j (some x)).bindJob x.account x.bank) where
  routes r hr := by rw [valid_bindJob]; exact h.routes r hr
  members := h.members
  bound := .of_counts
    (fun a => by
      rw [bound_bindJob, State.account_setJob, h.bound.account_count]
      exact (liveNaming_fill Job.account a hj x).symm)
    (fun b => by
      rw [bank_bindJob, State.setJob_chg, h.bound.bank_count]
      exact (liveNaming_fill Job.bank b hj x).symm)
    (fun i y e => by
      rw [valid_bindJob]
      have e : (s.setJob j (some x)).job i = some y := e
      rw [State.job_setJob] at e
      split at e
      · cases e; exact ⟨hv, hp⟩
      · exact ⟨h.bound.valid i y e, h.bound.pools i y e⟩)

/-- R22: a live job's slot becomes FREE, and both counts fall. -/
theorem BindingLaw.unbindJob {s : State} (h : BindingLaw s) {j : Fin 128} {x : Job} (hj : s.job j = some x) :
    BindingLaw ((s.unbindJob x.account x.bank).setJob j none) where
  routes r hr := by rw [State.account_setJob, valid_unbindJob]; exact h.routes r hr
  members := h.members
  bound := .of_counts
    (fun a => by
      rw [State.account_setJob, bound_unbindJob, h.bound.account_count]
      exact (liveNaming_free Job.account a hj).symm)
    (fun b => by
      rw [State.setJob_chg, bank_unbindJob, h.bound.bank_count]
      exact (liveNaming_free Job.bank b hj).symm)
    (fun i y e => by
      rw [State.account_setJob, valid_unbindJob]
      rw [State.job_setJob] at e
      split at e
      · cases e
      · exact ⟨h.bound.valid i y e, h.bound.pools i y e⟩)

/-- R22: the end of a job. -/
theorem bindingLaw_endJob {s : State} (h : BindingLaw s) (j : Fin 128) (o : JobOutcome) (c : Cause) :
    BindingLaw (s.endJob j o c) := by
  cases e : s.job j with
  | none => rw [endJob_none e]; exact h
  | some x =>
    have freed : SameBinding s ((s.hand (.jobReport (reportOf x o c))).freeSheets x.sheetList) :=
      (sameBinding_hand s _).trans (.of_parts (bindingParts_freeSheets _ _))
    have hx : ((s.hand (.jobReport (reportOf x o c))).freeSheets x.sheetList).job j = some x :=
      (released_job s x o c j).trans e
    have unqueued : SameBinding ((s.released x o c).setJob j none) (((s.released x o c).unqueued j x).setJob j none) :=
      (unqueued_only _ j x).sameBinding.setJob j none
    have ended : SameBinding (((s.released x o c).unqueued j x).setJob j none)
        (((s.released x o c).unqueued j x).slotFreed j x.account) := by
      refine .of_parts ?_
      rw [slotFreed_only]
      rfl
    rw [endJob_steps e]
    exact (unqueued.trans ended).law ((freed.law h).unbindJob hx)

/-- R32, R38, R39: a JOB-OPEN that passes admission is charged to a valid account, and its route's pool is enabled. -/
theorem bindingLaw_admitJob {s : State} (h : BindingLaw s) {i : Fin 15} {r : OpenRequest} {a : Fin 512} {j : Fin 128}
    (ha : s.admissionCheck r = .ok a) (hj : s.lowestFreeSlot = some j) : BindingLaw (s.admitJob i r a j) := by
  obtain ⟨pass, charged⟩ := admissionCheck_ok_iff.1 ha
  have valid : (s.routeOf r).valid = true := pass 2 (by omega) (by omega)
  obtain ⟨b, hb, hopen, _⟩ : AdmissionPasses s r 4 := pass 4 (by omega) (by omega)
  obtain rfl : a = b := Fin.ext (Option.some.inj (charged.symm.trans hb))
  have taken := h.bindJob (job_lowestFreeSlot hj) (x := s.admittedJob i r a) hopen (h.routes _ valid).1
  exact taken.of_parts rfl

/-! ### Every command -/

theorem sameBinding_completeLast (s : State) (j : Fin 128) : SameBinding s (s.completeLast j) := by
  unfold State.completeLast
  split
  · next x e =>
    split
    · next n d _ =>
      have h1 : SameBinding s (s.setDescs (putDesc s.spm.descs n { d with complete := true })) := .of_parts rfl
      exact h1.trans (sameBinding_job (x := x) e rfl)
    · exact .refl s
  · exact .refl s

theorem sameBinding_takeDescriptor {s : State} {j : Fin 128} (hj : (s.job j).isSome = true) (d : SheetDecl) :
    SameBinding s (s.takeDescriptor j d) := by
  obtain ⟨x, e⟩ := Option.isSome_iff_exists.1 hj
  have taken : SameBinding s (s.setDescs (putDesc s.spm.descs (lowestFree 0 s.spm.descs) (descOf d))) := .of_parts rfl
  rw [takeDescriptor_some e]
  refine taken.trans { SameBinding.refl _ with jobs := fun i => ?_ }
  rw [State.job_setJob]
  split
  · next ei => rw [ei, State.job_setDescs, e]; rfl
  · rfl

theorem bindingLaw_writePool {s t : State} {i : Nat} {e : PoolEntry} (ht : s.writePool i e = some t) (h : BindingLaw s) :
    BindingLaw t := by
  unfold State.writePool at ht
  split at ht
  · next hi =>
    dsimp only at ht
    split at ht
    · cases ht
    · next hn =>
      cases ht
      exact h.setPool ⟨i, hi⟩ fun he => by simpa [show e.enabled = false from he] using hn
  · cases ht

/-- A table that a reset keeps meets the laws on it as before. -/
theorem KeptByReset.routesOk {s t : State} (k : KeptByReset s t) (h : RoutesOk s) : RoutesOk t := by
  intro r hr
  rw [k.routes] at hr ⊢
  rw [(k.pools _).1, k.accounts]
  exact h r hr

theorem KeptByReset.membersOk {s t : State} (k : KeptByReset s t) (h : MembersOk s) : MembersOk t := by
  intro p i hc hp
  rw [k.printers] at hc hp
  rw [(k.pools i).1]
  exact h p i hc hp

/-- R25, R109, R118: after a reset no job is live, and no count is above 0. -/
theorem bindingLaw_resetKeeping {s : State} (h : BindingLaw s) (c : ResetCause) : BindingLaw (s.resetKeeping c) := by
  have kept := keptByReset_resetKeeping s c
  have empty := setByReset_resetKeeping s c
  exact
    { routes := kept.routesOk h.routes
      members := kept.membersOk h.members
      bound := .of_counts
        (fun a => by rw [kept.accounts]; exact (countP_replicate_none rfl).symm)
        (fun b => by rw [empty.bound]; exact (countP_replicate_none rfl).symm)
        (fun j x e => by rw [empty.jobs j] at e; cases e) }

theorem bindingLaw_reset : BindingLaw State.reset := by
  obtain ⟨_, _, _, routes, members, bound, _⟩ := resetMeetsTheInvariants
  exact ⟨routes, members, bound⟩

/-- The law survives each single change that the commands are made of. -/
theorem keepsCommands_bindingLaw : KeepsCommands BindingLaw where
  raiseAt h := (alertOnly_raiseAt _ _ _ _).sameBinding.law h
  clear h := (alertOnly_clear _ _).sameBinding.law h
  job e k h := (sameBinding_job e k.1.kept).law h
  disp h := h.of_parts rfl
  pool he hr h := (dispatchOnly_pool he hr).sameBinding.law h
  printer he _ h := (dispatchOnly_printer he).sameBinding.law h
  reserved h := (dispatchOnly_reserved _ _ _).sameBinding.law h
  account k h := (sameBinding_account k.valid k.bound).law h
  hand h := (sameBinding_hand _ _).law h
  paused h := h.of_parts rfl
  freeSheet h := h.of_parts (bindingParts_freeSheetBlocks _ _)
  meters _ h := h.of_parts rfl
  progress e k h := (sameBinding_job e k.1).law h
  control h := h.of_parts rfl
  protocolError h := h.of_parts rfl
  endJob h := bindingLaw_endJob h _ _ _
  choice h := h.of_parts rfl
  port _ _ h := h.of_parts rfl
  stream h := h.of_parts rfl
  stray h := h.of_parts rfl
  declare hj _ h := (sameBinding_takeDescriptor hj _).law h
  complete h := (sameBinding_completeLast _ _).law h
  store _ _ _ h := h.of_parts rfl
  admitJob ha hj h := bindingLaw_admitJob h ha hj
  sense _ _ h := h.of_parts rfl
  linkError h := h.of_parts rfl
  sent _ h := h.of_parts rfl
  mgu _ _ h := h.of_parts rfl
  restartWait h := h.of_parts rfl
  route hx _ h := h.setRoute _ hx
  poolWrite e h := bindingLaw_writePool e h
  portWrite h := h.of_parts rfl
  printerWrite hn hc _ h := h.setPrinter _ (by rw [hc]; exact hn)
  tariff h := h.of_parts rfl
  bank h := h.of_parts rfl
  accountWrite hx h := h.setAccount _ rfl hx
  mask {s m} h := (alertOnly_writeMask s m).sameBinding.law (h.of_parts (t := s.setMask m) rfl)
  printerBeacon h := h.of_parts rfl
  portBeacon h := h.of_parts rfl
  officeBeacon h := h.of_parts rfl
  override h := h.of_parts rfl
  acknowledge _ h := (alertOnly_acknowledge _ _ _).sameBinding.law h
  mode h := h.of_parts rfl
  senseLines h := h.of_parts rfl
  reset h := bindingLaw_resetKeeping h _

/-- Settles O57: the law survives each single change, and so every step. -/
theorem routeAndBindingInvariant : Obligations.RouteAndBindingInvariant := by
  intro s t routes members bound e
  obtain ⟨routes, members, bound⟩ := step_kept keepsCommands_bindingLaw
    (fun _ => bindingLaw_reset.of_parts rfl) (fun h => h.of_parts rfl)
    (fun h => h.of_parts rfl) ⟨routes, members, bound⟩ e
  exact ⟨routes, members, bound⟩

end Sys2Proof.Machine

/-! ## The Route Table after the resets (R27, R29, R172) -/

namespace Sys2Proof.Machine

theorem route_powerUp (s : State) (r : Fin 256) : s.powerUp.route r = Route.initial := route_reset r

/-- Settles O4: power-on, the reset line, and the reset of a RESTART by each of its ways. -/
theorem routesAfterEachReset : Obligations.RoutesAfterEachReset := by
  intro s
  have hs := setByReset_resetKeeping s .restart
  have hk := keptByReset_resetKeeping s .restart
  refine ⟨⟨_, rfl, (setByReset_powerUp s).arrival, route_powerUp s⟩, ?_, fun f rest ht hr => ?_, fun token hr hfull => ?_,
    fun hr => ?_⟩
  · have kept := keptByReset_resetKeeping s .resetLine
    exact ⟨_, rfl, (setByReset_resetKeeping s .resetLine).arrival, kept, kept.routesOk⟩
  · exact ⟨_, congrArg Host.Outcome.next (popFrame_last ht hr), hs.arrival, hk, hk.routesOk⟩
  · have kept := ((keptByReset_resetKeeping s.silenceRule .restart).of_dispatchOnly (silenceRule_only s)).of_heard
    exact ⟨_, exec_restart_full hr hfull token, (setByReset_resetKeeping _ _).arrival, kept, kept.routesOk⟩
  · exact ⟨_, congrArg Host.Outcome.next (State.restartNow_over s hr), hs.arrival, hk, hk.routesOk⟩

end Sys2Proof.Machine

/-! ## A ROUTE entry is written and read back (R28, R29, R169 to R171) -/

namespace Sys2Proof.Machine

/-! ### The bytes of an entry -/

/-- R177: the first flag of a byte of flags stands in bit 0. -/
theorem getLsbD_flagByte (l : List Bool) : ∀ i, i < 8 → (flagByte l).getLsbD i = l.getD i false := by
  induction l with
  | nil => intro i _; simp [flagByte]
  | cons b l ih =>
    intro i hi
    unfold flagByte
    rw [BitVec.getLsbD_or, BitVec.getLsbD_shiftLeft]
    cases i with
    | zero => cases b <;> rfl
    | succ i =>
      have hbit : (if b then 1#8 else 0#8).getLsbD (i + 1) = false := by cases b <;> simp
      rw [hbit, Nat.add_sub_cancel, ih i (by omega)]
      simp [hi]

/-- R171: the number that the k low bytes of a number spell. -/
theorem beNat_beBytes (k n : Nat) : beNat (beBytes k n) = n % 256 ^ k := by
  have fold : ∀ k acc, (beBytes k n).foldl (fun m b => m * 256 + b.toNat) acc = acc * 256 ^ k + n % 256 ^ k := by
    intro k
    induction k with
    | zero => intro acc; simp [beBytes, Nat.mod_one]
    | succ k ih =>
      intro acc
      have low : n % 256 ^ (k + 1) = n % 256 ^ k + 256 ^ k * (n / 256 ^ k % 256) := by rw [Nat.pow_succ, Nat.mod_mul]
      calc (beBytes (k + 1) n).foldl _ acc
          = (acc * 256 + n / 256 ^ k % 256) * 256 ^ k + n % 256 ^ k := ih _
        _ = acc * 256 ^ (k + 1) + n % 256 ^ (k + 1) := by rw [low]; ring
  simpa [beNat] using fold k 0

/-- A number in its range is not clamped, and a byte holds it. -/
theorem clampTo_byte {n : Nat} (hn : n < 256) (a : Fin (n + 1)) : clampTo n (BitVec.ofNat 8 a.val).toNat = a := by
  have h := a.isLt
  refine Fin.ext ?_
  simp only [clampTo, BitVec.toNat_ofNat]
  omega

/-- R28, R171: the fields that a stored route's entry spells. -/
theorem readRouteEntry_routeBytes (x : Route) : readRouteEntry (routeBytes x) =
    { valid := x.valid
      pool := BitVec.ofNat 8 x.pool.val
      tariffClass := BitVec.ofNat 8 x.tariffClass.val
      fromJob := x.fromJob
      fixedAccount := BitVec.ofNat 16 x.fixedAccount.val
      priority := BitVec.ofNat 8 x.priority.val
      startThreshold := BitVec.ofNat 8 x.startThreshold
      holdOnArrival := x.holdOnArrival
      colour := x.colour
      duplex := x.duplex } := by
  have flag : ∀ i, i < 8 → (byteAt (routeBytes x) 0).getLsbD i =
      [x.valid, x.fromJob, x.holdOnArrival, x.colour, x.duplex].getD i false := getLsbD_flagByte _
  have account : halfAt (routeBytes x) 3 = BitVec.ofNat 16 x.fixedAccount.val := by
    show BitVec.ofNat 16 (beNat (beBytes 2 x.fixedAccount.val)) = _
    rw [beNat_beBytes, Nat.mod_eq_of_lt (by omega)]
  have byte : ∀ n, BitVec.ofNat 8 (n / 256 ^ 0) = BitVec.ofNat 8 n := fun n => by rw [Nat.pow_zero, Nat.div_one]
  unfold readRouteEntry
  rw [flag 0 (by omega), flag 1 (by omega), flag 2 (by omega), flag 3 (by omega), flag 4 (by omega), account]
  congr 1
  · exact byte _
  · exact byte _
  · exact byte _
  · exact byte _

/-- R28, R171: a route of the Route Table reads as the entry whose write stores it. -/
theorem storedRoute_routeBytes {x : Route} (h : x.startThreshold ≤ 255) : storedRoute (readRouteEntry (routeBytes x)) = x := by
  have account : clampTo 511 (BitVec.ofNat 16 x.fixedAccount.val).toNat = x.fixedAccount := by
    have ha := x.fixedAccount.isLt
    refine Fin.ext ?_
    simp only [clampTo, BitVec.toNat_ofNat]
    omega
  have threshold : (BitVec.ofNat 8 x.startThreshold).toNat = x.startThreshold := by
    rw [BitVec.toNat_ofNat]
    omega
  rw [readRouteEntry_routeBytes]
  simp only [storedRoute, clampTo_byte, account, threshold, Nat.reduceLT]

/-! ### The write of one entry -/

/-- R166: while no RESTART waits, a management frame acts after the silence rule, and the line arbiters run. -/
theorem onFrame_running {s : State} (h : s.jli.restart = none) (f : State → State) :
    s.onFrame f = (f s.silenceRule).serviceLines := by
  unfold State.onFrame
  simp [h]

theorem exec_routeWrite {s : State} (h : s.jli.restart = none) (token : Byte) (first : Half) (l : List RouteEntry) :
    exec (.routeWrite token first l) s =
      .next (s.silenceRule.writeEntries State.writeRoute 256 32 token first l).serviceLines :=
  congrArg Host.Outcome.next (onFrame_running h _)

theorem toNat_indexOf {n : Nat} (h : n < 65536) : (indexOf n).toNat = n := by
  rw [indexOf, BitVec.toNat_ofNat]
  omega

/-- R169: a write of one entry of a table is not refused as a whole. -/
theorem writeRefusal_one {i size most : Nat} (hi : i < size) (h16 : i < 65536) (hm : 1 ≤ most) :
    writeRefusal (indexOf i) 1 size most = none := by
  unfold writeRefusal
  rw [toNat_indexOf h16, if_neg (by decide), if_neg (by omega), if_neg (by omega)]

section OneEntry

variable {α : Type} {s : State} {write : State → Nat → α → Option State} {i size most : Nat} {e : α}

/-- R169: the write of one entry answers what its own write does. -/
theorem writeEntries_one (hi : i < size) (h16 : i < 65536) (hm : 1 ≤ most) (token : Byte) :
    s.writeEntries write size most token (indexOf i) [e] =
      match write s i e with
      | some t => t.replyWrite token .ok 1
      | none => s.replyWrite token .interlock 0 := by
  unfold State.writeEntries
  rw [List.length_singleton, writeRefusal_one hi h16 hm, toNat_indexOf h16]
  unfold applyEntries
  cases write s i e <;> rfl

theorem writeEntries_one_taken {t : State} (hi : i < size) (h16 : i < 65536) (hm : 1 ≤ most) (token : Byte)
    (hw : write s i e = some t) :
    s.writeEntries write size most token (indexOf i) [e] = t.hand (.commandReply token 0#8 .ok [1#8]) := by
  rw [writeEntries_one hi h16 hm, hw]
  exact congrArg (fun l => t.hand (.commandReply token 0#8 .ok l)) (beBytes_one 1)

theorem writeEntries_one_refused (hi : i < size) (h16 : i < 65536) (hm : 1 ≤ most) (token : Byte)
    (hw : write s i e = none) :
    s.writeEntries write size most token (indexOf i) [e] = s.hand (.commandReply token 0#8 .interlock [0#8]) := by
  rw [writeEntries_one hi h16 hm, hw]
  exact congrArg (fun l => s.hand (.commandReply token 0#8 .interlock l)) (beBytes_one 0)

end OneEntry

/-- R29: a route that may be stored is stored clamped. -/
theorem writeRoute_taken {s : State} {e : RouteEntry} (h : s.routeAllowed (storedRoute e) = true) (r : Fin 256) :
    s.writeRoute r.val e = some (s.setRoute r (storedRoute e)) := by
  unfold State.writeRoute
  rw [dif_pos r.isLt, if_pos h]

theorem writeRoute_refused {s : State} {e : RouteEntry} (h : s.routeAllowed (storedRoute e) = false) (i : Nat) :
    s.writeRoute i e = none := by
  unfold State.writeRoute
  simp [h]

/-- R170: the ROUTE entry read is the route's bytes. -/
theorem readEntry_route (s : State) (r : Fin 256) : s.readEntry 1#8 r.val = some (routeBytes (s.route r)) :=
  dif_pos r.isLt

theorem route_hand (s : State) (f : OutFrame) (r : Fin 256) : (s.hand f).route r = s.route r := by rw [hand_only]; rfl

/-- R83: the line arbiters leave the Route Table as it is. -/
theorem LinesOnly.route {u t : State} (h : LinesOnly u t) (r : Fin 256) : t.route r = u.route r := by rw [h.rest]; rfl

/-- Settles O29: the write of one entry, stored or refused by the interlock of the clamped route. -/
theorem routeIsStoredClamped : Obligations.RouteIsStoredClamped := by
  intro s u token r e x hs hu hx
  have stored : storedRoute e = x := hx.symm
  have h16 : r.val < 65536 := by omega
  subst hu
  refine ⟨_, exec_routeWrite hs token _ _, fun hok => ?_, fun hv hbad => ?_⟩
  · have allowed : s.silenceRule.routeAllowed (storedRoute e) = true := by
      rw [stored, routeAllowed_iff]
      intro hv
      rcases hok with hn | ⟨hp, ha⟩
      · rw [hv] at hn; cases hn
      · exact ⟨hp, fun hj => ha.resolve_left (by rw [hj]; decide)⟩
    rw [writeEntries_one_taken r.isLt h16 (by omega) token (writeRoute_taken allowed r), stored]
    have lines := linesOnly_serviceLines ((s.silenceRule.setRoute r x).hand (.commandReply token 0#8 .ok [1#8]))
    refine ⟨lines, ?_, storedRoute_routeBytes ?_⟩
    · rw [readEntry_route, lines.route, route_hand, State.route_setRoute, if_pos rfl]
    · rw [← stored]
      exact Nat.le_of_lt_succ e.startThreshold.isLt
  · have refused : s.silenceRule.routeAllowed (storedRoute e) = false := by
      rw [stored, Bool.eq_false_iff, Ne, routeAllowed_iff]
      intro h
      obtain ⟨hp, ha⟩ := h hv
      rcases hbad with hn | ⟨hj, hn⟩
      · rw [hp] at hn; cases hn
      · rw [ha hj] at hn; cases hn
    rw [writeEntries_one_refused r.isLt h16 (by omega) token (writeRoute_refused refused r.val)]
    exact linesOnly_serviceLines _

end Sys2Proof.Machine

/-! ## The Pool Table: its resets and its writes (R42 to R44) -/

namespace Sys2Proof.Machine

/-! ### After a reset (R43) -/

theorem pool_powerUp (s : State) (k : Fin 16) : s.powerUp.pool k = Pool.initial := get_replicate _ _

/-- R43: the pools after the reset line or the reset of a RESTART, with no job live and the routes' validity kept. -/
structure PoolsReset (s t : State) : Prop where
  free : ∀ j, t.job j = none
  valid : ∀ r, (t.route r).valid = (s.route r).valid
  pools : ∀ k, t.pool k = { enabled := (s.pool k).enabled, reroute := (s.pool k).reroute, pointer := 0, queue := [] }

theorem PoolsReset.of_reset {s u t : State} {c : ResetCause} (h : SetByReset u t c) (k : KeptByReset s t) :
    PoolsReset s t where
  free := h.jobs
  valid r := by rw [k.routes r]
  pools i := by
    obtain ⟨henabled, hreroute⟩ := k.pools i
    obtain ⟨hpointer, hqueue⟩ := h.pointers i
    rw [← henabled, ← hreroute, ← hpointer, ← hqueue]

theorem poolsReset_resetKeeping (s : State) (c : ResetCause) : PoolsReset s (s.resetKeeping c) :=
  .of_reset (setByReset_resetKeeping s c) (keptByReset_resetKeeping s c)

/-- Settles O5: power-on, the reset line, and the reset of a RESTART by each of its ways. -/
theorem poolsAfterEachReset : Obligations.PoolsAfterEachReset := by
  intro s
  obtain ⟨hfree, hvalid, hpools⟩ := poolsReset_resetKeeping s .restart
  refine ⟨⟨_, rfl, pool_powerUp s⟩, ?_, fun f rest ht hr => ?_, fun token hr hfull => ?_, fun hr => ?_⟩
  · obtain ⟨hfree, hvalid, hpools⟩ := poolsReset_resetKeeping s .resetLine
    exact ⟨_, rfl, hfree, hvalid, hpools⟩
  · exact ⟨_, congrArg Host.Outcome.next (popFrame_last ht hr), hfree, hvalid, hpools⟩
  · have kept := ((keptByReset_resetKeeping s.silenceRule .restart).of_dispatchOnly (silenceRule_only s)).of_heard
    obtain ⟨hfree, hvalid, hpools⟩ := PoolsReset.of_reset (setByReset_resetKeeping s.silenceRule .restart) kept
    exact ⟨_, exec_restart_full hr hfull token, hfree, hvalid, hpools⟩
  · exact ⟨_, congrArg Host.Outcome.next (State.restartNow_over s hr), hfree, hvalid, hpools⟩

/-! ### A POOL write (R44) -/

theorem exec_poolWrite {s : State} (h : s.jli.restart = none) (token : Byte) (first : Half) (l : List PoolEntry) :
    exec (.poolWrite token first l) s =
      .next (s.silenceRule.writeEntries State.writePool 16 32 token first l).serviceLines :=
  congrArg Host.Outcome.next (onFrame_running h _)

/-- R44: a pool as a write stores it; the pointer and the queue are kept. -/
def writtenPool (old : Pool) (e : PoolEntry) : Pool :=
  { old with enabled := e.enabled, reroute := min e.reroute.toNat 3600 }

theorem writePool_taken {s : State} {k : Fin 16} {e : PoolEntry} (h : e.enabled = true ∨ s.poolNamed k = false) :
    s.writePool k.val e = some (s.setPool k (writtenPool (s.pool k) e)) := by
  unfold State.writePool
  rw [dif_pos k.isLt]
  refine if_neg ?_
  obtain h | h := h <;> simp [h]

theorem writePool_refused {s : State} {k : Fin 16} {e : PoolEntry} (he : e.enabled = false) (hn : s.poolNamed k = true) :
    s.writePool k.val e = none := by
  unfold State.writePool
  rw [dif_pos k.isLt]
  exact if_pos (by simp [he, hn])

/-- Settles O30: the write of one entry, stored or refused by the interlock of what names the pool. -/
theorem poolWrites : Obligations.PoolWrites := by
  intro s u token k e hs hu
  subst hu
  have h16 : k.val < 65536 := by omega
  refine ⟨fun hok => ⟨_, exec_poolWrite hs token _ _, ?_⟩, fun he hnamed => ⟨_, exec_poolWrite hs token _ _, ?_⟩⟩
  · have free : e.enabled = true ∨ s.silenceRule.poolNamed k = false := by
      refine hok.imp_right fun ⟨hroutes, hjobs, hprinters⟩ => ?_
      rw [Bool.eq_false_iff, Ne, poolNamed_iff]
      rintro (⟨r, hv, hk⟩ | ⟨j, x, hx, hk⟩ | ⟨p, hc, hk⟩)
      · exact hroutes r hv hk
      · exact hjobs j x hx hk
      · exact hprinters p hc hk
    rw [writeEntries_one_taken k.isLt h16 (by omega) token (writePool_taken free)]
    exact linesOnly_serviceLines _
  · rw [writeEntries_one_refused k.isLt h16 (by omega) token (writePool_refused he (poolNamed_iff.2 hnamed))]
    exact linesOnly_serviceLines _

end Sys2Proof.Machine

/-! ## Tried releases and arbiters' runs, job by job (R45 to R60) -/

namespace Sys2Proof.Machine

/-! ### A change that is none -/

theorem put_get_self {α : Type} {n : Nat} (v : Vector α n) (i : Fin n) : put v i (v.get i) = v :=
  table_ext fun j => by
    rw [put_get]
    split
    · next e => rw [e]
    · rfl

theorem setPrinter_self (s : State) (p : Fin 32) : s.setPrinter p (s.printer p) = s := by
  show { s with pra := put s.pra p (s.pra.get p) } = s
  rw [put_get_self]

theorem setJob_self {s : State} {j : Fin 128} {x : Job} (hx : s.job j = some x) : s.setJob j (some x) = s := by
  rw [← hx]
  show { s with spm := { s.spm with jobs := put s.spm.jobs j (s.spm.jobs.get j) } } = s
  rw [put_get_self]

section JobByJob

variable {s t : State} {j : Fin 128} {x : Job} {p : Fin 32}

/-! ### The gate's failure (R54, R59) -/

/-- R50: the printer's record once its job is unassigned; a printer that is leaving service goes OUT. -/
def afterUnassign (r : Printer) (d : Dispatch) : Printer := { r with inService := r.inService && !d.leaving }

theorem detach_eq (hx : s.job j = some x) (p : Fin 32) :
    s.detach j p = ((s.setDisp p (unassigned (s.disp p))).setJob j (some (detached x))).setPrinter p
      (afterUnassign (s.printer p) (s.disp p)) := by
  rw [detach_some hx]
  unfold afterUnassign
  cases (s.disp p).leaving with
  | true =>
    rw [if_pos rfl, Bool.not_true, Bool.and_false]
    rfl
  | false =>
    rw [if_neg Bool.false_ne_true, Bool.not_false, Bool.and_true]
    exact (setPrinter_self _ p).symm

/-- R59: the record of a job whose gate failed on an empty window. -/
def heldForBudget (x : Job) : Job :=
  { x with
    phase := .held
    holds := { x.holds with budget := true }
    drain := none
    stalled := false
    printer := none }

/-- R59: the record of a job whose gate failed. -/
def drainingForBudget (x : Job) : Job := { x with drain := some .budget }

theorem holdForBudget_eq (hx : s.job j = some (drainingForBudget x)) (p : Fin 32) :
    s.holdForBudget j p = ((s.setDisp p (unassigned (s.disp p))).setPrinter p
      (afterUnassign (s.printer p) (s.disp p))).setJob j (some (heldForBudget x)) := by
  have hd : (s.setJob j (some (holdDrained (drainingForBudget x)))).job j = some (holdDrained (drainingForBudget x)) :=
    (jobSet_setJob s j _).self
  have hoff : ((s.setJob j (some (holdDrained (drainingForBudget x)))).detach j p).job j =
      some (detached (holdDrained (drainingForBudget x))) := by
    rw [detach_eq hd]
    exact (jobSet_setJob _ j _).self
  unfold State.holdForBudget
  rw [State.modJob_some s hx, State.modJob_some _ hoff, detach_eq hd]
  calc _ = ((((s.setDisp p (unassigned (s.disp p))).setPrinter p (afterUnassign (s.printer p) (s.disp p))).setJob j
        (some (holdDrained (drainingForBudget x)))).setJob j
          (some (detached (holdDrained (drainingForBudget x))))).setJob j (some (heldForBudget x)) := rfl
    _ = _ := by rw [State.setJob_setJob, State.setJob_setJob]

/-- R59: the state of a failed gate, before its drain can end: the drain reason, and BUDGET_HOLD. -/
def State.gateShut (s : State) (j : Fin 128) (x : Job) : State :=
  (s.setJob j (some (drainingForBudget x))).raise (budgetKey x.account)

theorem gateShut_alertOnly (s : State) (j : Fin 128) (x : Job) :
    AlertOnly (s.setJob j (some (drainingForBudget x))) (s.gateShut j x) := alertOnly_raiseAt _ _ _ _

theorem job_gateShut (s : State) (j : Fin 128) (x : Job) : JobSet s (s.gateShut j x) j (drainingForBudget x) := by
  intro i
  rw [gateShut_alertOnly]
  exact jobSet_setJob s j _ i

theorem disp_gateShut (s : State) (j : Fin 128) (x : Job) (p : Fin 32) : (s.gateShut j x).disp p = s.disp p := by
  rw [gateShut_alertOnly]
  rfl

theorem printer_gateShut (s : State) (j : Fin 128) (x : Job) (p : Fin 32) : (s.gateShut j x).printer p = s.printer p := by
  rw [gateShut_alertOnly]
  rfl

theorem pool_gateShut (s : State) (j : Fin 128) (x : Job) (k : Fin 16) : (s.gateShut j x).pool k = s.pool k := by
  rw [gateShut_alertOnly]
  rfl

/-- R59: while its sheets are in the window, the job drains. -/
theorem gateFailed_draining (hx : s.job j = some x) (hw : (s.disp p).window ≠ []) :
    s.gateFailed j p x.account = s.gateShut j x := by
  unfold State.gateFailed
  rw [State.modJob_some s hx]
  show (if ((s.gateShut j x).disp p).window.isEmpty then _ else s.gateShut j x) = _
  rw [disp_gateShut, if_neg (by simpa using hw)]

/-- R54, R59: on an empty window the drain ends at once. -/
theorem gateFailed_empty (hx : s.job j = some x) (hw : (s.disp p).window = []) :
    s.gateFailed j p x.account = (((s.gateShut j x).setDisp p (unassigned (s.disp p))).setPrinter p
      (afterUnassign (s.printer p) (s.disp p))).setJob j (some (heldForBudget x)) := by
  unfold State.gateFailed
  rw [State.modJob_some s hx]
  show (if ((s.gateShut j x).disp p).window.isEmpty then (s.gateShut j x).holdForBudget j p else _) = _
  rw [disp_gateShut, if_pos (by rw [hw]; rfl), holdForBudget_eq (job_gateShut s j x).self, disp_gateShut, printer_gateShut]

/-! ### What the tries for one job leave as it is -/

/-- Besides the job `j`, no job record differs, and no pool. -/
structure TriedOnly (j : Fin 128) (s t : State) : Prop where
  others : ∀ i, i ≠ j → t.job i = s.job i
  pools : ∀ k, t.pool k = s.pool k

theorem TriedOnly.refl (j : Fin 128) (s : State) : TriedOnly j s s := ⟨fun _ _ => rfl, fun _ => rfl⟩

theorem TriedOnly.trans {u : State} (h : TriedOnly j s t) (k : TriedOnly j t u) : TriedOnly j s u :=
  ⟨fun i hi => (k.others i hi).trans (h.others i hi), fun n => (k.pools n).trans (h.pools n)⟩

theorem triedOnly_release (hx : s.job j = some x) (p : Fin 32) (a : Fin 512) (pos : Nat × Nat) (e : Nat) :
    TriedOnly j s (s.release j p a pos e) := by
  obtain ⟨r, _, hr⟩ := release_some (p := p) hx a pos e
  rw [hr]
  exact ⟨fun i hi => (jobSet_setJob _ j _).others hi, fun _ => rfl⟩

theorem job_release (hx : s.job j = some x) (p : Fin 32) (a : Fin 512) (pos : Nat × Nat) (e : Nat) :
    (s.release j p a pos e).job j = some (oneReleased x) := by
  obtain ⟨r, _, hr⟩ := release_some (p := p) hx a pos e
  rw [hr]
  exact (jobSet_setJob _ j _).self

theorem triedOnly_gateFailed (hx : s.job j = some x) (p : Fin 32) : TriedOnly j s (s.gateFailed j p x.account) := by
  by_cases hw : (s.disp p).window = []
  · rw [gateFailed_empty hx hw]
    refine ⟨fun i hi => ((jobSet_setJob _ j _).others hi).trans ((job_gateShut s j x).others hi), fun k => ?_⟩
    exact pool_gateShut s j x k
  · rw [gateFailed_draining hx hw]
    exact ⟨fun i hi => (job_gateShut s j x).others hi, pool_gateShut s j x⟩

/-- R59: what a failed gate makes of the job. -/
theorem job_gateFailed (hx : s.job j = some x) (p : Fin 32) :
    (s.gateFailed j p x.account).job j =
      some (if (s.disp p).window = [] then heldForBudget x else drainingForBudget x) := by
  split
  · next hw =>
    rw [gateFailed_empty hx hw]
    exact (jobSet_setJob _ j _).self
  · next hw =>
    rw [gateFailed_draining hx hw]
    exact (job_gateShut s j x).self

/-- R57: what a release and a failed gate of the job both keep, its tries keep. -/
theorem releaseLoop_kept {P : State → Prop} (j : Fin 128)
    (hr : ∀ {t x} p pos e, t.job j = some x → P t → P (t.release j p x.account pos e))
    (hg : ∀ {t x} p, t.job j = some x → P t → P (t.gateFailed j p x.account)) :
    ∀ (n : Nat) {t : State}, P t → P (State.releaseLoop n j t)
  | 0, _, h => h
  | n + 1, t, h => by
    unfold State.releaseLoop
    split
    · exact h
    next x hx =>
    split
    · exact h
    next p hp =>
    split
    · split
      · exact h
      next pos e hn =>
      split
      · exact releaseLoop_kept j hr hg n (hr p pos e hx h)
      · exact hg p hx h
    · exact h

theorem triedOnly_releaseLoop (j : Fin 128) (n : Nat) (s : State) : TriedOnly j s (State.releaseLoop n j s) :=
  releaseLoop_kept (P := TriedOnly j s) j (fun p pos e hx h => h.trans (triedOnly_release hx p _ pos e))
    (fun p hx h => h.trans (triedOnly_gateFailed hx p)) n (.refl j s)

/-! ### A job that no arbiter serves -/

/-- The slot holds the record, and stands in no queue. -/
structure OutOfQueues (j : Fin 128) (o : Option Job) (t : State) : Prop where
  job : t.job j = o
  queues : ∀ k, j ∉ (t.pool k).queue

variable {o : Option Job} {i : Fin 128}

theorem OutOfQueues.of_tried (h : OutOfQueues j o s) (ht : TriedOnly i s t) (hi : j ≠ i) : OutOfQueues j o t :=
  ⟨(ht.others j hi).trans h.job, fun k => by rw [ht.pools k]; exact h.queues k⟩

/-- R46: an assignment of another job. -/
theorem OutOfQueues.assign (h : OutOfQueues j o s) (hi : j ≠ i) (k : Fin 16) (p : Fin 32) :
    OutOfQueues j o (s.assign k p i) := by
  have h1 : OutOfQueues j o (s.assigned k p i) := by
    unfold State.assigned
    refine ⟨?_, fun k' hk => h.queues k' ?_⟩
    · rw [State.job_setDisp, State.job_modJob, if_neg hi]
      exact h.job
    · rw [State.pool_setDisp, State.pool_modJob, queue_leaveQueue] at hk
      split at hk
      · next e => rw [e]; exact List.mem_of_mem_filter hk
      · exact hk
  rw [assign_eq]
  exact h1.of_tried (triedOnly_releaseLoop i _ _) hi

theorem OutOfQueues.setPointer (h : OutOfQueues j o s) (k : Fin 16) (p : Fin 32) :
    OutOfQueues j o (s.setPool k { s.pool k with pointer := p }) :=
  ⟨h.job, fun k' hk => (keepsArbiter_notQueued k' j).pointer (h.queues k') hk⟩

/-- R48: an arbiter serves the jobs of its queue. -/
theorem OutOfQueues.arbiterLoop (k : Fin 16) : ∀ (n : Nat) {t : State}, OutOfQueues j o t →
    OutOfQueues j o (State.arbiterLoop n k t)
  | 0, _, h => h
  | n + 1, t, h => by
    unfold State.arbiterLoop
    split
    · exact h
    next p i hpick =>
    obtain ⟨_, _, _, hmem⟩ := pick_some hpick
    have hi : j ≠ i := fun e => h.queues k (e ▸ hmem)
    exact OutOfQueues.arbiterLoop k n ((h.setPointer k p).assign hi k p)

theorem OutOfQueues.runArbiter (h : OutOfQueues j o s) (k : Fin 16) : OutOfQueues j o (s.runArbiter k) :=
  kept_ite (h.arbiterLoop k _) h

theorem OutOfQueues.offerPrinter (h : OutOfQueues j o s) (p : Fin 32) : OutOfQueues j o (s.offerPrinter p) := by
  unfold State.offerPrinter
  split
  · split
    · exact h.runArbiter _
    · exact h
  · exact h

theorem OutOfQueues.tryReleases (h : OutOfQueues j o s) (hi : j ≠ i) : OutOfQueues j o (s.tryReleases i) := by
  unfold State.tryReleases
  split
  · split
    · next p _ =>
      have h1 := h.of_tried (triedOnly_releaseLoop i (s.releaseTries p) s) hi
      exact kept_ite h1 (h1.offerPrinter p)
    · exact h
  · exact h

theorem OutOfQueues.setJob (h : OutOfQueues j o s) (o' : Option Job) : OutOfQueues j o' (s.setJob j o') :=
  ⟨by rw [State.job_setJob, if_pos rfl], h.queues⟩

theorem OutOfQueues.setJob_other (h : OutOfQueues j o s) (hi : j ≠ i) (o' : Option Job) : OutOfQueues j o (s.setJob i o') :=
  ⟨by rw [State.job_setJob, if_neg hi]; exact h.job, h.queues⟩

theorem OutOfQueues.alerts (h : OutOfQueues j o s) (k : AlertOnly s t) : OutOfQueues j o t := by
  rw [k]
  exact ⟨h.job, h.queues⟩

theorem OutOfQueues.budgetTest (h : OutOfQueues j o s) (a : Fin 512) : OutOfQueues j o (s.budgetTest a) :=
  h.alerts (budgetTest_alertOnly s a)

theorem OutOfQueues.requeue (h : OutOfQueues j o s) (hi : j ≠ i) : OutOfQueues j o (s.requeue i) := by
  unfold State.requeue
  split
  · next y hy =>
    refine OutOfQueues.runArbiter ?_ _
    rw [enqueue_some hy]
    refine ⟨(h.setJob_other hi _).job, fun k hk => ?_⟩
    rw [State.pool_setQueue] at hk
    split at hk
    · obtain e | hk := List.mem_cons.1 ((insertJob_perm _ _ _ _).mem_iff.1 hk)
      · exact hi e
      · exact h.queues _ hk
    · exact h.queues k hk
  · exact h

/-! ### A job that the tries and the arbiters may serve -/

/-- A property of job records that a release, a failed gate and an assignment keep. -/
structure KeptByTries (Q : Job → Prop) : Prop where
  released : ∀ {x}, Q x → Q (oneReleased x)
  draining : ∀ {x}, Q x → Q (drainingForBudget x)
  heldForBudget : ∀ {x}, Q x → Q (heldForBudget x)
  printing : ∀ {x} p, Q x → Q (printingOn p x)

/-- The slot holds a job with the property. -/
def LiveWith (j : Fin 128) (Q : Job → Prop) (t : State) : Prop := ∃ y, t.job j = some y ∧ Q y

variable {Q : Job → Prop}

theorem LiveWith.of_job (h : LiveWith j Q s) (e : t.job j = s.job j) : LiveWith j Q t := by
  obtain ⟨y, hy, hq⟩ := h
  exact ⟨y, e.trans hy, hq⟩

namespace KeptByTries

variable (K : KeptByTries Q)
include K

theorem releaseLoop (i : Fin 128) (n : Nat) (h : LiveWith j Q s) : LiveWith j Q (State.releaseLoop n i s) := by
  by_cases hi : j = i
  · subst hi
    refine releaseLoop_kept j (fun p pos e hx h => ?_) (fun p hx h => ?_) n h
    all_goals
      obtain ⟨y, hy, hq⟩ := h
      cases hx.symm.trans hy
    · exact ⟨_, job_release hx p _ pos e, K.released hq⟩
    · refine ⟨_, job_gateFailed hx p, ?_⟩
      split
      · exact K.heldForBudget hq
      · exact K.draining hq
  · exact h.of_job ((triedOnly_releaseLoop i n s).others j hi)

theorem assign (k : Fin 16) (p : Fin 32) (i : Fin 128) (h : LiveWith j Q s) : LiveWith j Q (s.assign k p i) := by
  rw [assign_eq]
  refine K.releaseLoop i _ ?_
  obtain ⟨y, hy, hq⟩ := h
  unfold State.assigned LiveWith
  rw [State.job_setDisp, State.job_modJob]
  by_cases hi : j = i
  · subst hi
    rw [if_pos rfl]
    exact ⟨_, congrArg (Option.map (printingOn p)) hy, K.printing p hq⟩
  · rw [if_neg hi]
    exact ⟨y, hy, hq⟩

theorem arbiterLoop (k : Fin 16) : ∀ (n : Nat) {t : State}, LiveWith j Q t → LiveWith j Q (State.arbiterLoop n k t)
  | 0, _, h => h
  | n + 1, t, h => by
    unfold State.arbiterLoop
    split
    · exact h
    · exact arbiterLoop k n (K.assign k _ _ h)

theorem runArbiter (k : Fin 16) (h : LiveWith j Q s) : LiveWith j Q (s.runArbiter k) := kept_ite (K.arbiterLoop k _ h) h

theorem offerPrinter (p : Fin 32) (h : LiveWith j Q s) : LiveWith j Q (s.offerPrinter p) := by
  unfold State.offerPrinter
  split
  · split
    · exact K.runArbiter _ h
    · exact h
  · exact h

theorem tryReleases (i : Fin 128) (h : LiveWith j Q s) : LiveWith j Q (s.tryReleases i) := by
  unfold State.tryReleases
  split
  · split
    · next p _ =>
      have h1 := K.releaseLoop i (s.releaseTries p) h
      exact kept_ite h1 (K.offerPrinter p h1)
    · exact h
  · exact h

/-- R45: another job enters its queue, or this one does and is QUEUED. -/
theorem requeue (i : Fin 128) (hq : ∀ x, s.job j = some x → i = j → Q { x with phase := .queued }) (h : LiveWith j Q s) :
    LiveWith j Q (s.requeue i) := by
  unfold State.requeue
  split
  · next y hy =>
    refine K.runArbiter _ ?_
    rw [enqueue_some hy]
    unfold LiveWith
    rw [State.job_setQueue, State.job_setJob]
    by_cases hi : j = i
    · subst hi
      rw [if_pos rfl]
      exact ⟨_, rfl, hq y hy rfl⟩
    · rw [if_neg hi]
      exact h
  · exact h

end KeptByTries

end JobByJob

end Sys2Proof.Machine

/-! ## HOLD-JOB and RELEASE-JOB (R51 to R54) -/

namespace Sys2Proof.Machine

section HoldAndRelease

variable {s : State} {j : Fin 128} {x : Job} {p : Fin 32}

/-! ### The job that a command names (R172) -/

/-- R51: where one live job alone has the tag, the search finds it. -/
theorem jobWithTag_eq_some {tag : Half} (hx : s.job j = some x) (ht : x.tag = tag)
    (hone : ∀ k y, s.job k = some y → y.tag = tag → k = j) : s.jobWithTag tag = some j := by
  cases hfind : s.jobWithTag tag with
  | none => exact absurd ht (jobWithTag_eq_none_iff.1 hfind j x hx)
  | some k =>
    have hk := List.find?_some hfind
    cases hy : s.job k with
    | none => simp [hy] at hk
    | some y => rw [hone k y hy (by simpa [hy] using hk)]

theorem exec_holdJob (h : s.jli.restart = none) (token : Byte) (tag : Half) :
    exec (.holdJob token tag) s = .next (s.silenceRule.commandHold token tag).serviceLines :=
  congrArg Host.Outcome.next (onFrame_running h _)

theorem exec_releaseJob (h : s.jli.restart = none) (token : Byte) (tag : Half) :
    exec (.releaseJob token tag) s = .next (s.silenceRule.commandRelease token tag).serviceLines :=
  congrArg Host.Outcome.next (onFrame_running h _)

section Answers

variable (token : Byte) {tag : Half}

theorem commandHold_unknown (h : s.jobWithTag tag = none) :
    s.commandHold token tag = s.hand (.commandReply token 2#8 .unknownJob []) := by
  simp only [State.commandHold, h]
  rfl

theorem commandRelease_unknown (h : s.jobWithTag tag = none) :
    s.commandRelease token tag = s.hand (.commandReply token 3#8 .unknownJob []) := by
  simp only [State.commandRelease, h]
  rfl

variable (h : s.jobWithTag tag = some j) (hx : s.job j = some x)
include h hx

theorem commandHold_cancelling (hc : x.phase = .cancelling) :
    s.commandHold token tag = s.hand (.commandReply token 2#8 .badState []) := by
  simp only [State.commandHold, h, hx, if_pos hc]
  rfl

theorem commandRelease_cancelling (hc : x.phase = .cancelling) :
    s.commandRelease token tag = s.hand (.commandReply token 3#8 .badState []) := by
  simp only [State.commandRelease, h, hx, if_pos hc]
  rfl

theorem commandHold_ok (hc : x.phase ≠ .cancelling) :
    s.commandHold token tag = (s.holdJob j x).hand (.commandReply token 2#8 .ok []) := by
  simp only [State.commandHold, h, hx, if_neg hc]
  rfl

theorem commandRelease_ok (hc : x.phase ≠ .cancelling) :
    s.commandRelease token tag = (s.releaseHeld j x).hand (.commandReply token 3#8 .ok []) := by
  simp only [State.commandRelease, h, hx, if_neg hc]
  rfl

end Answers

/-! ### HOLD-JOB (R51, R53) -/

theorem holdJob_waiting (h : x.phase = .spooling ∨ x.phase = .held) :
    s.holdJob j x = s.setJob j (some (holdOperator x)) := by
  obtain h | h := h <;> simp [State.holdJob, h]

theorem holdJob_queued (h : x.phase = .queued) :
    s.holdJob j x = (s.setJob j (some { holdOperator x with phase := .held })).leaveQueue x.pool j := by
  simp [State.holdJob, h]

/-- R51, R53: the record of a PRINTING job that is held. -/
def drainingForHold (x : Job) : Job :=
  { holdOperator x with drain := if x.drain = some .service then some .service else some .hold }

/-- R51, R60: a PRINTING job is held, before its drain can end; a displaced BUDGET drain is tested. -/
def State.drainedForHold (s : State) (j : Fin 128) (x : Job) : State :=
  if x.drain = some .budget then (s.setJob j (some (drainingForHold x))).budgetTest x.account
  else s.setJob j (some (drainingForHold x))

theorem drainedForHold_alertOnly (s : State) (j : Fin 128) (x : Job) :
    AlertOnly (s.setJob j (some (drainingForHold x))) (s.drainedForHold j x) :=
  kept_ite (P := AlertOnly _) (budgetTest_alertOnly _ _) (.refl _)

theorem disp_drainedForHold (s : State) (j : Fin 128) (x : Job) (p : Fin 32) :
    (s.drainedForHold j x).disp p = s.disp p := by
  rw [drainedForHold_alertOnly]
  rfl

theorem holdJob_printing (hp : x.phase = .printing) (hpr : x.printer = some p) :
    s.holdJob j x =
      if (s.disp p).window = [] then (s.drainedForHold j x).endDrain j p else s.drainedForHold j x := by
  unfold State.holdJob
  simp only [hp]
  unfold State.holdPrinting
  simp only [hpr]
  show (if ((s.drainedForHold j x).disp p).window.isEmpty then _ else s.drainedForHold j x) = _
  rw [disp_drainedForHold]
  simp only [List.isEmpty_iff]
  rfl

/-- R60: the test of the condition changes nothing, or clears it. -/
theorem budgetTest_cases (s : State) (a : Fin 512) : s.budgetTest a = s ∨ s.budgetTest a = s.clear (budgetKey a) := by
  unfold State.budgetTest
  split
  · exact .inl rfl
  · exact .inr rfl

/-- R54: a job that stands in no queue and holds OPERATOR is HELD once its drain ends. -/
theorem job_endDrain_held (hx : s.job j = some x) (hd : x.drain ≠ some .budget) (ho : x.holds.operator = true)
    (hq : ∀ k, j ∉ (s.pool k).queue) : (s.endDrain j p).job j =
      some { x with phase := .held, drain := none, stalled := false, printer := none } := by
  have hold : holdDrained x = x := by
    unfold holdDrained
    rw [if_neg hd]
  have hmod : s.modJob j holdDrained = s := by rw [State.modJob_some s hx, hold, setJob_self hx]
  have hoff : OutOfQueues j (some (detached x)) (s.detach j p) := by
    rw [detach_eq hx]
    exact ⟨(jobSet_setJob _ j _).self, hq⟩
  have hafter := (hoff.offerPrinter p).job
  unfold State.endDrain
  rw [hmod]
  simp only [hafter]
  rw [if_neg (by simp [noHolds, detached, ho])]
  exact (jobSet_setJob _ j _).self

/-! ### RELEASE-JOB (R52) -/

/-- R52: the record of a job whose holds are emptied. -/
def holdsEmptied (x : Job) : Job := { x with holds := emptyHolds }

theorem releaseHeld_held (h : x.phase = .held) :
    s.releaseHeld j x = ((s.setJob j (some (holdsEmptied x))).budgetTest x.account).requeue j := by
  simp [State.releaseHeld, h, holdsEmptied]

theorem releaseHeld_drained (h : x.phase = .printing) (hd : x.drain = some .hold) :
    s.releaseHeld j x = (s.setJob j (some { holdsEmptied x with drain := none })).tryReleases j := by
  simp [State.releaseHeld, h, hd, holdsEmptied]

theorem releaseHeld_other (h : x.phase = .spooling ∨ x.phase = .queued ∨ (x.phase = .printing ∧ x.drain ≠ some .hold)) :
    s.releaseHeld j x = s.setJob j (some (holdsEmptied x)) := by
  obtain h | h | ⟨h, hd⟩ := h
  · simp [State.releaseHeld, h, holdsEmptied]
  · simp [State.releaseHeld, h, holdsEmptied]
  · simp [State.releaseHeld, h, hd, holdsEmptied]

/-- Beyond the emptied holds, RELEASE-JOB is dispatch. -/
theorem releaseHeld_only (j : Fin 128) (hc : x.phase ≠ .cancelling) :
    DispatchOnly (s.setJob j (some (holdsEmptied x))) (s.releaseHeld j x) := by
  have K := keepsDispatch_only (s.setJob j (some (holdsEmptied x)))
  have h0 := DispatchOnly.refl (s.setJob j (some (holdsEmptied x)))
  have hr : (s.setJob j (some (holdsEmptied x))).job j = some (holdsEmptied x) := (jobSet_setJob s j _).self
  cases hp : x.phase with
  | cancelling => exact absurd hp hc
  | spooling => rw [releaseHeld_other (.inl hp)]; exact h0
  | queued => rw [releaseHeld_other (.inr (.inl hp))]; exact h0
  | held => rw [releaseHeld_held hp]; exact K.requeue j (K.budgetTest _ h0)
  | printing =>
    by_cases hd : x.drain = some .hold
    · have h1 := K.job (x := { holdsEmptied x with drain := none }) hr ⟨rfl, fun o => ⟨o.1, o.2, o.3, o.4⟩⟩ h0
      rw [State.setJob_setJob] at h1
      rw [releaseHeld_drained hp hd]
      exact K.tryReleases j h1
    · rw [releaseHeld_other (.inr (.inr ⟨hp, hd⟩))]; exact h0

/-- The job holds neither OPERATOR nor ARRIVAL, and where it is HELD it holds BUDGET. -/
def HeldForBudgetAlone (x : Job) : Prop :=
  x.holds.operator = false ∧ x.holds.arrival = false ∧ (x.phase = .held → x.holds.budget = true)

theorem keptByTries_heldForBudgetAlone : KeptByTries HeldForBudgetAlone where
  released h := h
  draining h := h
  heldForBudget := fun ⟨ho, ha, _⟩ => ⟨ho, ha, fun _ => rfl⟩
  printing _ := fun ⟨ho, ha, _⟩ => ⟨ho, ha, nofun⟩

theorem keptByTries_notDrainingForHold : KeptByTries fun x => x.drain ≠ some .hold where
  released h := h
  draining _ := nofun
  heldForBudget _ := nofun
  printing _ _ := nofun

/-- R52, R45: a HELD job leaves HELD, or its gate fails and it is HELD again for BUDGET. -/
theorem liveWith_releaseHeld_held (j : Fin 128) (h : x.phase = .held) :
    LiveWith j HeldForBudgetAlone (s.releaseHeld j x) := by
  have hr : ((s.setJob j (some (holdsEmptied x))).budgetTest x.account).job j = some (holdsEmptied x) :=
    (job_budgetTest _ _ _).trans (jobSet_setJob s j _).self
  rw [releaseHeld_held h]
  unfold State.requeue
  simp only [hr]
  refine keptByTries_heldForBudgetAlone.runArbiter _ ?_
  rw [enqueue_some hr]
  exact ⟨_, (State.job_setQueue _ _ _ j).trans (jobSet_setJob _ j _).self, rfl, rfl, nofun⟩

/-- R52, R53: releases are tried for a PRINTING job that drained for HOLD, and it drains for HOLD no longer. -/
theorem liveWith_releaseHeld_drained (h : x.phase = .printing) (hd : x.drain = some .hold) :
    ∃ y, (s.releaseHeld j x).job j = some y ∧ y.drain ≠ some .hold ∧ y.holds.operator = false ∧
      y.holds.arrival = false := by
  have hr : (s.setJob j (some { holdsEmptied x with drain := none })).job j = some { holdsEmptied x with drain := none } :=
    (jobSet_setJob s j _).self
  rw [releaseHeld_drained h hd]
  obtain ⟨y, hy, hdrain⟩ := keptByTries_notDrainingForHold.tryReleases j ⟨_, hr, nofun⟩
  obtain ⟨z, hz, hop, harr, _⟩ := keptByTries_heldForBudgetAlone.tryReleases j
    ⟨_, hr, rfl, rfl, fun e => nomatch e.symm.trans h⟩
  cases hz.symm.trans hy
  exact ⟨y, hy, hdrain, hop, harr⟩

end HoldAndRelease

/-- Settles O36: what each command answers by the job its tag names, and what it makes of the job by its phase. -/
theorem holdAndRelease : Obligations.HoldAndRelease := by
  intro s u token tag hs hu
  subst hu
  have lines := fun v : State => linesOnly_serviceLines v
  refine ⟨fun hnone => ?_, fun j x h r hx ht hone hh hr => ⟨fun hc => ?_, fun hc => ⟨?_, ?_⟩⟩⟩
  · have hfind := jobWithTag_eq_none_iff.2 hnone
    refine ⟨⟨_, exec_holdJob hs token tag, ?_⟩, ⟨_, exec_releaseJob hs token tag, ?_⟩⟩
    · rw [commandHold_unknown token hfind]; exact lines _
    · rw [commandRelease_unknown token hfind]; exact lines _
  · have hfind := jobWithTag_eq_some hx ht hone
    refine ⟨⟨_, exec_holdJob hs token tag, ?_⟩, ⟨_, exec_releaseJob hs token tag, ?_⟩⟩
    · rw [commandHold_cancelling token hfind hx hc]; exact lines _
    · rw [commandRelease_cancelling token hfind hx hc]; exact lines _
  · have hfind := jobWithTag_eq_some hx ht hone
    subst hh
    refine ⟨s.silenceRule.holdJob j x, _, exec_holdJob hs token tag, ?_, fun hp => holdJob_waiting hp,
      fun hp => holdJob_queued hp, fun p w hp hpr hw => ?_⟩
    · rw [commandHold_ok token hfind hx hc]; exact lines _
    · have hw' : w = s.silenceRule.setJob j (some (drainingForHold x)) := hw
      subst hw'
      rw [holdJob_printing hp hpr]
      refine ⟨fun hwin hd => ?_, fun hwin hd => ?_, fun hwin => ?_⟩
      · rw [if_neg hwin, State.drainedForHold, if_neg hd]
      · rw [if_neg hwin, State.drainedForHold, if_pos hd]
        exact budgetTest_cases _ _
      · rw [if_pos hwin]
        have halert := drainedForHold_alertOnly s.silenceRule j x
        refine ⟨(keepsDispatch_only _).endDrain j p halert.dispatchOnly, fun hq => ?_⟩
        have hout : OutOfQueues j (some (drainingForHold x)) (s.silenceRule.drainedForHold j x) :=
          (OutOfQueues.setJob (o := some x) ⟨hx, hq⟩ _).alerts halert
        refine job_endDrain_held (x := drainingForHold x) hout.job ?_ rfl hout.queues
        show (if x.drain = some .service then some DrainReason.service else some .hold) ≠ some .budget
        split <;> nofun
  · have hfind := jobWithTag_eq_some hx ht hone
    subst hr
    refine ⟨s.silenceRule.releaseHeld j x, _, exec_releaseJob hs token tag, ?_, releaseHeld_only j hc,
      fun hp => releaseHeld_other hp, fun hp => ?_, fun hp hd => liveWith_releaseHeld_drained hp hd⟩
    · rw [commandRelease_ok token hfind hx hc]; exact lines _
    · obtain ⟨y, hy, hop, harr, hbudget⟩ := liveWith_releaseHeld_held j hp
      refine ⟨y, hy, hop, harr, fun hheld => ?_⟩
      calc y.holds = ⟨y.holds.operator, y.holds.arrival, y.holds.budget⟩ := rfl
        _ = _ := by rw [hop, harr, hbudget hheld]

end Sys2Proof.Machine

/-! ## An account change (R45, R60, R131) -/

namespace Sys2Proof.Machine

/-! ### A pass over a list that reaches each element once -/

/-- A pass that keeps `P` up to its element `j`, makes `Q` of it there, and keeps `Q` from there on. -/
theorem each_at {α : Type} {P Q : State → Prop} {f : State → α → State} {j : α}
    (hP : ∀ t i, i ≠ j → P t → P (f t i)) (hj : ∀ t, P t → Q (f t j)) (hQ : ∀ t i, i ≠ j → Q t → Q (f t i))
    {l : List α} (hmem : j ∈ l) (hl : l.Nodup) {s : State} (h : P s) : Q (s.each l f) := by
  obtain ⟨before, after, rfl⟩ := List.append_of_mem hmem
  have hother : ∀ i ∈ before ++ after, i ≠ j := by
    have hperm : (before ++ j :: after).Perm (j :: (before ++ after)) := List.perm_middle
    intro i hi e
    exact (List.nodup_cons.1 (hperm.nodup hl)).1 (e ▸ hi)
  have hbefore : P (s.each before f) :=
    State.each_kept_mem before (fun t i hi ht => hP t i (hother i (List.mem_append_left _ hi)) ht) h
  have hafter : Q ((f (s.each before f) j).each after f) :=
    State.each_kept_mem after (fun t i hi ht => hQ t i (hother i (List.mem_append_right _ hi)) ht) (hj _ hbefore)
  have hsplit : s.each (before ++ j :: after) f = (f (s.each before f) j).each after f := List.foldl_append
  rwa [hsplit]

/-- A pass that changes nothing at any element of its list. -/
theorem each_same {α : Type} {f : State → α → State} {l : List α} {s : State} (h : ∀ i ∈ l, f s i = s) :
    s.each l f = s :=
  State.each_kept_mem (P := fun t => t = s) l (fun t i hi ht => by rw [ht, h i hi]) rfl

/-- A pass that changes something at one element alone, whether the others come before it or behind it. -/
theorem each_only {α : Type} {f : State → α → State} {l : List α} {s : State} {j : α} (hmem : j ∈ l) (hl : l.Nodup)
    (hbefore : ∀ i, i ≠ j → f s i = s) (hafter : ∀ i, i ≠ j → f (f s j) i = f s j) : s.each l f = f s j :=
  each_at (P := fun t => t = s) (Q := fun t => t = f s j) (fun t i hi ht => by rw [ht, hbefore i hi])
    (fun t ht => by rw [ht]) (fun t i hi ht => by rw [ht, hafter i hi]) hmem hl rfl

section AccountChange

variable {s t : State} {a : Fin 512} {i j : Fin 128} {x : Job} {p : Fin 32}

/-! ### The budget condition (R60) -/

theorem inBudget_iff : inBudget a x = true ↔
    x.account = a ∧ ((x.phase = .held ∧ x.holds.budget = true) ∨ (x.phase = .printing ∧ x.drain = some .budget)) := by
  simp [inBudget]

/-- The account's jobs of which R60 speaks. -/
theorem budgetTest_any_iff : (s.spm.jobs.toList.any fun o =>
    match o with
    | some job => inBudget a job
    | none => false) = true ↔ ∃ j x, s.job j = some x ∧ inBudget a x = true := by
  rw [any_toList_iff]
  refine exists_congr fun j => ?_
  show _ ↔ ∃ x, s.spm.jobs.get j = some x ∧ _
  cases s.spm.jobs.get j <;> simp

theorem budgetTest_kept (hx : s.job j = some x) (h : inBudget a x = true) : s.budgetTest a = s := by
  unfold State.budgetTest
  exact if_pos (budgetTest_any_iff.2 ⟨j, x, hx, h⟩)

theorem budgetTest_cleared (h : ∀ j x, s.job j = some x → ¬inBudget a x = true) :
    s.budgetTest a = s.clear (budgetKey a) := by
  unfold State.budgetTest
  refine if_neg fun hany => ?_
  obtain ⟨j, x, hx, hb⟩ := budgetTest_any_iff.1 hany
  exact h j x hx hb

/-! ### A clear, twice (R154) -/

theorem alertFor_none_iff {k : AlertKey} : s.alertFor k = none ↔ ∀ e ∈ s.arl.queue, e.key ≠ k := by
  unfold State.alertFor
  rw [List.find?_eq_none]
  simp [hasKey]

theorem clear_none {k : AlertKey} (h : s.alertFor k = none) : s.clear k = s := by
  simp [State.clear, h]

theorem clear_inactive {k : AlertKey} {e : AlertEntry} (h : s.alertFor k = some e) (he : e.active = false) :
    s.clear k = s := by
  simp [State.clear, h, he]

/-- R154: what a clear makes of the queue, where the entry is active. -/
theorem queue_clear {k : AlertKey} {e : AlertEntry} (h : s.alertFor k = some e) (he : e.active = true) :
    (s.clear k).arl.queue =
      if e.acked then s.arl.queue.eraseP (hasKey k)
      else replaceFirst (hasKey k) (fun x => { x with active := false }) s.arl.queue := by
  have hq : (if enabledIn s.arl.mask k.cls then s.handAlert false { e with active := false } else s).arl.queue =
      s.arl.queue := by
    split
    · exact handAlert_queue _ _ _
    · rfl
  simp only [State.clear, h, he, if_true]
  split <;> simp only [State.setAlerts_queue, hq]

/-- R152: an entry taken out of a queue of different keys leaves none of its key. -/
theorem not_hasKey_eraseP {k : AlertKey} {l : List AlertEntry} (hl : (l.map AlertEntry.key).Nodup) :
    ∀ e ∈ l.eraseP (hasKey k), e.key ≠ k := by
  induction l with
  | nil => nofun
  | cons y l ih =>
    rw [List.map_cons, List.nodup_cons] at hl
    obtain ⟨hfirst, hrest⟩ := hl
    by_cases hy : hasKey k y = true
    · rw [List.eraseP_cons_of_pos hy]
      intro e he hk
      exact hfirst (List.mem_map.2 ⟨e, he, hk.trans (key_of_hasKey hy).symm⟩)
    · rw [List.eraseP_cons_of_neg hy]
      intro e he
      obtain rfl | he := List.mem_cons.1 he
      · exact fun hk => hy (by simp [hasKey, hk])
      · exact ih hrest e he

/-- R154: the entry found after its key's first entry is replaced by one of the same key. -/
theorem find?_replaceFirst {k : AlertKey} {g : AlertEntry → AlertEntry} (hg : ∀ e, (g e).key = e.key) (l : List AlertEntry) :
    (replaceFirst (hasKey k) g l).find? (hasKey k) = (l.find? (hasKey k)).map g := by
  induction l with
  | nil => rfl
  | cons y l ih =>
    have hkey : hasKey k (g y) = hasKey k y := by rw [hasKey, hg, ← hasKey]
    unfold replaceFirst
    cases hy : hasKey k y with
    | true => rw [if_pos rfl, List.find?_cons_of_pos (by rw [hkey, hy]), List.find?_cons_of_pos hy]; rfl
    | false =>
      rw [if_neg Bool.false_ne_true, List.find?_cons_of_neg (by rw [hy]; nofun), ih,
        List.find?_cons_of_neg (by rw [hy]; nofun)]

/-- R154: a clear leaves nothing for a second one to clear. -/
theorem clear_clear (h : AlertsOk s.arl) (k : AlertKey) : (s.clear k).clear k = s.clear k := by
  cases hk : s.alertFor k with
  | none => rw [clear_none hk, clear_none hk]
  | some e =>
    cases he : e.active with
    | false => rw [clear_inactive hk he, clear_inactive hk he]
    | true =>
      have hq := queue_clear hk he
      cases ha : e.acked with
      | true =>
        rw [ha, if_pos rfl] at hq
        refine clear_none (alertFor_none_iff.2 ?_)
        rw [hq]
        exact not_hasKey_eraseP h.keys
      | false =>
        rw [ha, if_neg Bool.false_ne_true] at hq
        refine clear_inactive (e := { e with active := false }) ?_ rfl
        unfold State.alertFor at hk ⊢
        rw [hq, find?_replaceFirst (g := fun x => { x with active := false }) fun _ => rfl, hk]
        rfl

/-! ### Queues and the gate's retry (R45, R60) -/

theorem requeueUnheld_same (h : ∀ x, s.job j = some x → x.phase = .held → noHolds x.holds = false) :
    s.requeueUnheld j = s := by
  unfold State.requeueUnheld
  split
  · next x hx =>
    refine if_neg fun ⟨hp, hn⟩ => ?_
    rw [h x hx hp] at hn
    cases hn
  · rfl

theorem requeueUnheld_some (hx : s.job j = some x) (hp : x.phase = .held) (hn : noHolds x.holds = true) :
    s.requeueUnheld j = s.requeue j := by
  simp [State.requeueUnheld, hx, hp, hn]

/-- R131: the record of a job that no longer holds BUDGET. -/
def budgetDropped (x : Job) : Job := { x with holds := { x.holds with budget := false } }

theorem unholdBudget_some (hx : s.job j = some x) (ha : x.account = a) (hp : x.phase = .held)
    (hb : x.holds.budget = true) :
    State.unholdBudget a s j = s.setJob j (some (budgetDropped x)) := by
  simp [State.unholdBudget, hx, ha, hp, hb, budgetDropped]

theorem retryForAccount_same
    (h : ∀ x, s.job j = some x → x.account = a → x.phase = .printing → x.drain ≠ some .budget) :
    State.retryForAccount a s j = s := by
  unfold State.retryForAccount
  split
  · next x hx => exact if_neg fun ⟨ha, hp, hd⟩ => h x hx ha hp hd
  · rfl

/-- R60: the record of a job that drains no longer. -/
def undrained (x : Job) : Job := { x with drain := none }

theorem retryGate_passed {pos : Nat × Nat} {e : Nat} (hx : s.job j = some x) (hp : x.phase = .printing)
    (hd : x.drain = some .budget) (hn : s.nextEstimate x = some (pos, e)) (hg : gatePasses (s.account x.account) e = true) :
    s.retryGate j = (s.setJob j (some (undrained x))).budgetTest x.account := by
  simp [State.retryGate, hx, hp, hd, hn, hg, undrained]

theorem retryGate_failed (hx : s.job j = some x)
    (h : ∀ pos e, s.nextEstimate x = some (pos, e) → gatePasses (s.account x.account) e = false) : s.retryGate j = s := by
  unfold State.retryGate
  simp only [hx]
  split
  · split
    · next pos e hn => rw [h pos e hn, if_neg Bool.false_ne_true]
    · rfl
  · rfl

/-- R60, R131: the gate of a job passes that drains for BUDGET. -/
theorem retryForAccount_passed {pos : Nat × Nat} {e : Nat} (hx : s.job j = some x) (ha : x.account = a)
    (hp : x.phase = .printing) (hd : x.drain = some .budget) (hn : s.nextEstimate x = some (pos, e))
    (hg : gatePasses (s.account a) e = true) :
    State.retryForAccount a s j = ((s.setJob j (some (undrained x))).budgetTest a).tryReleases j := by
  subst ha
  have hj : ((s.setJob j (some (undrained x))).budgetTest x.account).job j = some (undrained x) :=
    (job_budgetTest _ _ _).trans (jobSet_setJob s j _).self
  unfold State.retryForAccount
  simp only [hx]
  rw [if_pos ⟨trivial, hp, hd⟩, retryGate_passed hx hp hd hn hg]
  simp only [hj]
  exact if_pos rfl

/-- R60, R131: the gate of a job fails again, or it has no next position. -/
theorem retryForAccount_failed (hx : s.job j = some x) (ha : x.account = a) (hd : x.drain = some .budget)
    (h : ∀ pos e, s.nextEstimate x = some (pos, e) → gatePasses (s.account a) e = false) :
    State.retryForAccount a s j = s := by
  subst ha
  unfold State.retryForAccount
  simp [hx, retryGate_failed hx h, hd]

/-! ### The two parts of an account change (R131) -/

/-- R131, step 1: the gates of the jobs that drain for BUDGET are retried. -/
def State.gatesRetried (s : State) (a : Fin 512) : State := s.each (List.finRange 128) (State.retryForAccount a)

/-- R131, step 2: BUDGET is taken from the HELD jobs of a list, and those that hold nothing are queued. -/
def State.unheld (s : State) (a : Fin 512) (held : List (Fin 128)) : State :=
  (((s.each held (State.unholdBudget a)).budgetTest a).each held State.requeueUnheld).budgetTest a

theorem accountChange_eq (s : State) (a : Fin 512) :
    s.accountChange a = (s.gatesRetried a).unheld a ((s.gatesRetried a).budgetHeld a) := rfl

theorem gatesRetried_same
    (h : ∀ j x, s.job j = some x → x.account = a → ¬(x.phase = .printing ∧ x.drain = some .budget)) :
    s.gatesRetried a = s :=
  each_same fun j _ => retryForAccount_same fun x hx ha hp hd => h j x hx ha ⟨hp, hd⟩

theorem mem_budgetHeld_iff : j ∈ s.budgetHeld a ↔
    ∃ x, s.job j = some x ∧ x.account = a ∧ x.phase = .held ∧ x.holds.budget = true := by
  unfold State.budgetHeld
  cases hx : s.job j <;> simp [hx, and_assoc]

theorem nodup_budgetHeld (s : State) (a : Fin 512) : (s.budgetHeld a).Nodup := (List.nodup_finRange 128).filter _

theorem budgetHeld_nil (h : ∀ j x, s.job j = some x → x.account = a → ¬(x.phase = .held ∧ x.holds.budget = true)) :
    s.budgetHeld a = [] := by
  refine List.eq_nil_iff_forall_not_mem.2 fun j hj => ?_
  obtain ⟨x, hx, ha, hp, hb⟩ := mem_budgetHeld_iff.1 hj
  exact h j x hx ha ⟨hp, hb⟩

theorem budgetHeld_one (hx : s.job j = some x) (ha : x.account = a) (hp : x.phase = .held) (hb : x.holds.budget = true)
    (h : ∀ i y, i ≠ j → s.job i = some y → y.account = a → ¬(y.phase = .held ∧ y.holds.budget = true)) :
    s.budgetHeld a = [j] := by
  refine List.perm_singleton.1 ((List.perm_ext_iff_of_nodup (nodup_budgetHeld s a) (List.nodup_singleton j)).2 fun i => ?_)
  rw [mem_budgetHeld_iff, List.mem_singleton]
  constructor
  · rintro ⟨y, hy, hay, hpy, hby⟩
    by_contra hi
    exact h i y hi hy hay ⟨hpy, hby⟩
  · rintro rfl
    exact ⟨x, hx, ha, hp, hb⟩

/-! ### A HELD job that stands in no queue -/

theorem OutOfQueues.retryForAccount {o : Option Job} (h : OutOfQueues j o s) (hi : j ≠ i) :
    OutOfQueues j o (State.retryForAccount a s i) := by
  have hgate : OutOfQueues j o (s.retryGate i) := by
    unfold State.retryGate
    split
    · refine kept_ite ?_ h
      split
      · exact kept_ite ((h.setJob_other hi _).budgetTest _) h
      · exact h
    · exact h
  unfold State.retryForAccount
  split
  · refine kept_ite ?_ h
    dsimp only
    split
    · exact kept_ite (hgate.tryReleases hi) hgate
    · exact hgate
  · exact h

theorem OutOfQueues.unholdBudget {o : Option Job} (h : OutOfQueues j o s) (hi : j ≠ i) :
    OutOfQueues j o (State.unholdBudget a s i) := by
  unfold State.unholdBudget
  split
  · exact kept_ite (h.setJob_other hi _) h
  · exact h

theorem OutOfQueues.requeueUnheld {o : Option Job} (h : OutOfQueues j o s) (hi : j ≠ i) :
    OutOfQueues j o (s.requeueUnheld i) := by
  unfold State.requeueUnheld
  split
  · exact kept_ite (h.requeue hi) h
  · exact h

/-- R131, step 1: a HELD job is not one whose gate is retried. -/
theorem OutOfQueues.gatesRetried (h : OutOfQueues j (some x) s) (hp : x.phase = .held) (a : Fin 512) :
    OutOfQueues j (some x) (s.gatesRetried a) := by
  refine State.each_kept (P := OutOfQueues j (some x)) (fun t i ht => ?_) _ h
  by_cases hi : j = i
  · subst hi
    rwa [retryForAccount_same fun y hy _ hpy => ?_]
    cases ht.job.symm.trans hy
    cases hp.symm.trans hpy
  · exact ht.retryForAccount hi

/-- R131, step 2: BUDGET is no longer among its holds. -/
theorem OutOfQueues.budgetCleared (h : OutOfQueues j (some x) s) (ha : x.account = a) (hp : x.phase = .held)
    (hb : x.holds.budget = true) : OutOfQueues j (some (budgetDropped x))
      ((s.each (s.budgetHeld a) (State.unholdBudget a)).budgetTest a) := by
  refine OutOfQueues.budgetTest (each_at (P := OutOfQueues j (some x)) (fun t i hi ht => ht.unholdBudget (Ne.symm hi))
    (fun t ht => ?_) (fun t i hi ht => ht.unholdBudget (Ne.symm hi)) ?_ (nodup_budgetHeld s a) h) a
  · rw [unholdBudget_some ht.job ha hp hb]
    exact ht.setJob _
  · exact mem_budgetHeld_iff.2 ⟨x, h.job, ha, hp, hb⟩

/-- R131: a HELD job that holds another reason stays HELD. -/
theorem job_accountChange_stillHeld (hx : s.job j = some x) (ha : x.account = a) (hp : x.phase = .held)
    (hb : x.holds.budget = true) (hother : x.holds.operator = true ∨ x.holds.arrival = true)
    (hq : ∀ k, j ∉ (s.pool k).queue) :
    (s.accountChange a).job j = some (budgetDropped x) := by
  have h1 := (OutOfQueues.gatesRetried ⟨hx, hq⟩ hp a).budgetCleared ha hp hb
  rw [accountChange_eq]
  refine (OutOfQueues.budgetTest (State.each_kept (P := OutOfQueues j _) (fun t i ht => ?_) _ h1) a).job
  by_cases hi : j = i
  · subst hi
    rwa [requeueUnheld_same fun y hy _ => ?_]
    cases ht.job.symm.trans hy
    obtain e | e := hother <;> simp [noHolds, budgetDropped, e]
  · exact ht.requeueUnheld hi

/-- The job is QUEUED, PRINTING, or HELD for BUDGET. -/
def Requeued (x : Job) : Prop := x.phase = .queued ∨ x.phase = .printing ∨ (x.phase = .held ∧ x.holds.budget = true)

theorem keptByTries_requeued : KeptByTries Requeued where
  released h := h
  draining h := h
  heldForBudget _ := .inr (.inr ⟨rfl, rfl⟩)
  printing _ _ := .inr (.inl rfl)

/-- R45, R131: a HELD job that holds BUDGET alone leaves that hold. -/
theorem liveWith_accountChange (hx : s.job j = some x) (ha : x.account = a) (hp : x.phase = .held)
    (hh : x.holds = { operator := false, arrival := false, budget := true }) (hq : ∀ k, j ∉ (s.pool k).queue) :
    LiveWith j Requeued (s.accountChange a) := by
  have hb : x.holds.budget = true := by rw [hh]
  have hretried := OutOfQueues.gatesRetried ⟨hx, hq⟩ hp a
  have hqueued : ∀ t, OutOfQueues j (some (budgetDropped x)) t →
      LiveWith j Requeued (t.requeueUnheld j) := by
    intro t ht
    rw [requeueUnheld_some ht.job hp (by simp [noHolds, budgetDropped, hh])]
    unfold State.requeue
    simp only [ht.job]
    refine keptByTries_requeued.runArbiter _ ?_
    rw [enqueue_some ht.job]
    exact ⟨_, (State.job_setQueue _ _ _ j).trans (jobSet_setJob _ j _).self, .inl rfl⟩
  have hkept : ∀ t i, i ≠ j → LiveWith j Requeued t → LiveWith j Requeued (t.requeueUnheld i) := by
    intro t i hi ht
    unfold State.requeueUnheld
    split
    · exact kept_ite (keptByTries_requeued.requeue i (fun _ _ e => absurd e hi) ht) ht
    · exact ht
  rw [accountChange_eq]
  refine LiveWith.of_job ?_ (job_budgetTest _ a j)
  exact each_at (fun t i hi ht => ht.requeueUnheld (Ne.symm hi)) hqueued hkept
    (mem_budgetHeld_iff.2 ⟨x, hretried.job, ha, hp, hb⟩) (nodup_budgetHeld _ a) (hretried.budgetCleared ha hp hb)

/-! ### No job concerned, or one -/

/-- R60, R131: with no job concerned, the change clears the condition. -/
theorem accountChange_none (h : AlertsOk s.arl)
    (hnone : ∀ j x, s.job j = some x → x.account = a →
      ¬(x.phase = .held ∧ x.holds.budget = true) ∧ ¬(x.phase = .printing ∧ x.drain = some .budget)) :
    s.accountChange a = s.clear (budgetKey a) := by
  have hclear : ∀ t : State, (∀ j, t.job j = s.job j) → t.budgetTest a = t.clear (budgetKey a) := by
    intro t ht
    refine budgetTest_cleared fun j x hx hb => ?_
    obtain ⟨hacc, hb⟩ := inBudget_iff.1 hb
    obtain ⟨hheld, hdrain⟩ := hnone j x ((ht j).symm.trans hx) hacc
    exact hb.elim hheld hdrain
  rw [accountChange_eq, gatesRetried_same fun j x hx hacc => (hnone j x hx hacc).2,
    budgetHeld_nil fun j x hx hacc => (hnone j x hx hacc).1]
  show (s.budgetTest a).budgetTest a = _
  rw [hclear s fun _ => rfl, hclear _ fun j => job_clear s _ j, clear_clear h]

/-- No other job of the account holds BUDGET or drains for it. -/
def OnlyInBudget (a : Fin 512) (j : Fin 128) (s : State) : Prop :=
  ∀ i y, i ≠ j → s.job i = some y → ¬inBudget a y = true

theorem OnlyInBudget.of_others (h : OnlyInBudget a j s) (e : ∀ i, i ≠ j → t.job i = s.job i) : OnlyInBudget a j t :=
  fun i y hi hy => h i y hi ((e i hi).symm.trans hy)

/-- R60: once the one job concerned is in BUDGET no longer, the condition is cleared. -/
theorem OnlyInBudget.budgetTest (h : OnlyInBudget a j s) (hx : s.job j = some x) (hb : ¬inBudget a x = true) :
    s.budgetTest a = s.clear (budgetKey a) := by
  refine budgetTest_cleared fun i y hy => ?_
  by_cases hi : i = j
  · subst hi
    cases hx.symm.trans hy
    exact hb
  · exact h i y hi hy

theorem OnlyInBudget.retry_other (h : OnlyInBudget a j s) (hi : i ≠ j) : State.retryForAccount a s i = s :=
  retryForAccount_same fun y hy ha hp hd => h i y hi hy (inBudget_iff.2 ⟨ha, .inr ⟨hp, hd⟩⟩)

/-- R131: a HELD job that holds BUDGET alone is the only one concerned. -/
theorem accountChange_held (hone : OnlyInBudget a j s) (hx : s.job j = some x) (ha : x.account = a) (hp : x.phase = .held)
    (hh : x.holds = { operator := false, arrival := false, budget := true }) :
    s.accountChange a =
      (((s.setJob j (some (holdsEmptied x))).clear (budgetKey a)).requeue j).budgetTest a := by
  have hb : x.holds.budget = true := by rw [hh]
  have hheld : s.budgetHeld a = [j] := budgetHeld_one hx ha hp hb fun i y hi hy hacc hy' =>
    hone i y hi hy (inBudget_iff.2 ⟨hacc, .inl hy'⟩)
  have hretried : s.gatesRetried a = s := by
    refine each_same fun i _ => ?_
    by_cases hi : i = j
    · subst hi
      refine retryForAccount_same fun y hy _ hpy => ?_
      cases hx.symm.trans hy
      cases hp.symm.trans hpy
    · exact hone.retry_other hi
  have hset : budgetDropped x = holdsEmptied x := by
    unfold budgetDropped holdsEmptied
    rw [hh]
    rfl
  have hj : (s.setJob j (some (holdsEmptied x))).job j = some (holdsEmptied x) :=
    (jobSet_setJob s j _).self
  have hclear : (s.setJob j (some (holdsEmptied x))).budgetTest a = _ :=
    (hone.of_others fun i hi => (jobSet_setJob s j _).others hi).budgetTest hj (by simp [inBudget, holdsEmptied, hp, emptyHolds])
  rw [accountChange_eq, hretried, hheld]
  unfold State.unheld
  simp only [State.each_cons, State.each_nil]
  rw [unholdBudget_some hx ha hp hb, hset, hclear, requeueUnheld_some ((job_clear _ _ j).trans hj) hp rfl]

/-- R57: where a condition of a release fails, none is made. -/
theorem releaseLoop_stopped (hx : s.job j = some x) (hpr : x.printer = some p)
    (h : s.mayRelease x p = false ∨ s.nextEstimate x = none) (n : Nat) : State.releaseLoop n j s = s := by
  cases n with
  | zero => rfl
  | succ n =>
    unfold State.releaseLoop
    simp only [hx, hpr]
    obtain h | h := h
    · rw [h, if_neg Bool.false_ne_true]
    · simp only [h]
      exact ite_self s

/-- R57 to R59: where they hold, the gate decides. -/
theorem releaseLoop_step {pos : Nat × Nat} {e : Nat} (hx : s.job j = some x) (hpr : x.printer = some p)
    (hm : s.mayRelease x p = true) (hn : s.nextEstimate x = some (pos, e)) (n : Nat) :
    State.releaseLoop (n + 1) j s =
      if gatePasses (s.account x.account) e then State.releaseLoop n j (s.release j p x.account pos e)
      else s.gateFailed j p x.account := by
  conv => lhs; unfold State.releaseLoop
  simp only [hx, hpr, hm, hn, if_true]

/-- The tries for a PRINTING job have left it on its printer. -/
structure StillPrinting (j : Fin 128) (p : Fin 32) (s t : State) : Prop where
  tried : TriedOnly j s t
  job : LiveWith j (fun y => y.phase = .printing ∧ y.printer = some p) t
  assigned : (t.disp p).assigned = some j

theorem disp_release (hx : s.job j = some x) (p q : Fin 32) (a : Fin 512) (pos : Nat × Nat) (e : Nat) :
    (s.release j p a pos e).disp q =
      if q = p then { s.disp p with window := (s.disp p).window ++ [entryFor (s.printer p) j pos e] } else s.disp q := by
  obtain ⟨r, _, hr⟩ := release_some (p := p) hx a pos e
  rw [hr]
  exact State.disp_setDisp _ _ _ _

theorem window_release (hx : s.job j = some x) (p : Fin 32) (a : Fin 512) (pos : Nat × Nat) (e : Nat) :
    ((s.release j p a pos e).disp p).window = (s.disp p).window ++ [entryFor (s.printer p) j pos e] := by
  rw [disp_release hx, if_pos rfl]

theorem StillPrinting.release (h : StillPrinting j p s t) (hx : t.job j = some x) (a : Fin 512) (pos : Nat × Nat) (e : Nat) :
    StillPrinting j p s (t.release j p a pos e) where
  tried := h.tried.trans (triedOnly_release hx p a pos e)
  job := by
    obtain ⟨y, hy, hprinting⟩ := h.job
    cases hx.symm.trans hy
    exact ⟨_, job_release hx p a pos e, hprinting⟩
  assigned := by
    rw [disp_release hx, if_pos rfl]
    exact h.assigned

/-- R59: with sheets in the window, a failed gate leaves the job on its printer. -/
theorem StillPrinting.gateFailed (h : StillPrinting j p s t) (hx : t.job j = some x) (hw : (t.disp p).window ≠ []) :
    StillPrinting j p s (t.gateFailed j p x.account) where
  tried := h.tried.trans (triedOnly_gateFailed hx p)
  job := by
    obtain ⟨y, hy, hprinting⟩ := h.job
    cases hx.symm.trans hy
    exact ⟨_, (job_gateFailed hx p).trans (congrArg some (if_neg hw)), hprinting⟩
  assigned := by
    rw [gateFailed_draining hx hw, disp_gateShut]
    exact h.assigned

theorem StillPrinting.releaseLoop : ∀ (n : Nat) {t : State}, StillPrinting j p s t → (t.disp p).window ≠ [] →
    StillPrinting j p s (State.releaseLoop n j t)
  | 0, _, h, _ => h
  | n + 1, t, h, hw => by
    obtain ⟨x, hx, hp, hpr⟩ := h.job
    cases hm : t.mayRelease x p with
    | false => rwa [releaseLoop_stopped hx hpr (.inl hm)]
    | true =>
      cases hn : t.nextEstimate x with
      | none => rwa [releaseLoop_stopped hx hpr (.inr hn)]
      | some next =>
        rw [releaseLoop_step hx hpr hm hn]
        refine kept_ite (StillPrinting.releaseLoop n (h.release hx _ _ _) ?_) (h.gateFailed hx hw)
        rw [window_release hx]
        exact List.append_ne_nil_of_left_ne_nil hw _

/-- R57, R59: where the gate passes at its next position, the tries for a job leave it on its printer. -/
theorem stillPrinting_tryReleases {pos : Nat × Nat} {e : Nat} (hx : s.job j = some x) (hp : x.phase = .printing)
    (hpr : x.printer = some p) (has : (s.disp p).assigned = some j) (hn : s.nextEstimate x = some (pos, e))
    (hg : gatePasses (s.account x.account) e = true) : StillPrinting j p s (s.tryReleases j) := by
  have h0 : StillPrinting j p s s := ⟨.refl j s, ⟨x, hx, hp, hpr⟩, has⟩
  have hloop : StillPrinting j p s (State.releaseLoop (s.releaseTries p) j s) := by
    cases hm : s.mayRelease x p with
    | false => rwa [releaseLoop_stopped hx hpr (.inl hm)]
    | true =>
      unfold State.releaseTries
      rw [releaseLoop_step hx hpr hm hn, if_pos hg]
      refine (h0.release hx _ _ _).releaseLoop _ ?_
      rw [window_release hx]
      exact List.append_ne_nil_of_right_ne_nil _ (List.cons_ne_nil _ _)
  unfold State.tryReleases
  simp only [hx, hpr]
  rwa [if_pos hloop.assigned]

theorem AlertOnly.nextEstimate (h : AlertOnly s t) (y : Job) : t.nextEstimate y = s.nextEstimate y := by rw [h]; rfl

theorem AlertOnly.account (h : AlertOnly s t) (b : Fin 512) : t.account b = s.account b := by rw [h]; rfl

theorem AlertOnly.job (h : AlertOnly s t) (k : Fin 128) : t.job k = s.job k := by rw [h]; rfl

theorem AlertOnly.disp (h : AlertOnly s t) (q : Fin 32) : t.disp q = s.disp q := by rw [h]; rfl

/-- R131: a job that drains for BUDGET on its printer is the only one concerned, and its gate passes. -/
theorem accountChange_passed {pos : Nat × Nat} {e : Nat} (hone : OnlyInBudget a j s) (hx : s.job j = some x)
    (ha : x.account = a) (hp : x.phase = .printing) (hd : x.drain = some .budget) (hpr : x.printer = some p)
    (has : (s.disp p).assigned = some j) (hn : s.nextEstimate x = some (pos, e))
    (hg : gatePasses (s.account a) e = true) :
    s.accountChange a =
      ((((s.setJob j (some (undrained x))).clear (budgetKey a)).tryReleases j).budgetTest a).budgetTest a := by
  have hset := jobSet_setJob s j (undrained x)
  have hclear : (s.setJob j (some (undrained x))).budgetTest a = (s.setJob j (some (undrained x))).clear (budgetKey a) :=
    (hone.of_others fun i hi => hset.others hi).budgetTest hset.self (by simp [inBudget, undrained, hp])
  have hpass := retryForAccount_passed hx ha hp hd hn hg
  rw [hclear] at hpass
  have halert := alertOnly_clear (s.setJob j (some (undrained x))) (budgetKey a)
  have hafter := stillPrinting_tryReleases (p := p) ((halert.job j).trans hset.self) hp hpr
    (by rw [halert.disp]; exact has) ((halert.nextEstimate _).trans hn) (by rw [halert.account]; exact ha.symm ▸ hg)
  have hothers : ∀ i, i ≠ j → (((s.setJob j (some (undrained x))).clear (budgetKey a)).tryReleases j).job i = s.job i :=
    fun i hi => (hafter.tried.others i hi).trans ((halert.job i).trans (hset.others hi))
  have hretried : s.gatesRetried a = ((s.setJob j (some (undrained x))).clear (budgetKey a)).tryReleases j := by
    rw [← hpass]
    refine each_only (List.mem_finRange j) (List.nodup_finRange 128) (fun i hi => hone.retry_other hi) fun i hi => ?_
    rw [hpass]
    exact (hone.of_others hothers).retry_other hi
  have hheld : (((s.setJob j (some (undrained x))).clear (budgetKey a)).tryReleases j).budgetHeld a = [] := by
    refine budgetHeld_nil fun i y hy hacc hyb => ?_
    by_cases hi : i = j
    · subst hi
      obtain ⟨z, hz, hzp, _⟩ := hafter.job
      cases hy.symm.trans hz
      cases hzp.symm.trans hyb.1
    · exact hone.of_others hothers i y hi hy (inBudget_iff.2 ⟨hacc, .inl hyb⟩)
  rw [accountChange_eq, hretried, hheld]
  rfl

/-- R131: where its gate fails again, or it has no next position, nothing changes. -/
theorem accountChange_failed (hone : OnlyInBudget a j s) (hx : s.job j = some x) (ha : x.account = a)
    (hp : x.phase = .printing) (hd : x.drain = some .budget)
    (h : ∀ pos e, s.nextEstimate x = some (pos, e) → gatePasses (s.account a) e = false) : s.accountChange a = s := by
  have hretried : s.gatesRetried a = s := by
    refine each_same fun i _ => ?_
    by_cases hi : i = j
    · subst hi
      exact retryForAccount_failed hx ha hd h
    · exact hone.retry_other hi
  have hheld : s.budgetHeld a = [] := by
    refine budgetHeld_nil fun i y hy hacc hyb => ?_
    by_cases hi : i = j
    · subst hi
      cases hx.symm.trans hy
      cases hp.symm.trans hyb.1
    · exact hone i y hi hy (inBudget_iff.2 ⟨hacc, .inl hyb⟩)
  have htest : s.budgetTest a = s := budgetTest_kept hx (inBudget_iff.2 ⟨ha, .inr ⟨hp, hd⟩⟩)
  rw [accountChange_eq, hretried, hheld]
  show (s.budgetTest a).budgetTest a = s
  rw [htest, htest]

/-! ### The place in the queue (R45) -/

/-- R45: an entering job is put behind those that go before it and in front of one that goes behind it. -/
theorem insertJob_split (find : Fin 128 → Option Job) (j : Fin 128) (x : Job) (l : List (Fin 128)) :
    ∃ before after, l = before ++ after ∧ insertJob find j x l = before ++ j :: after ∧
      (∀ i y, i ∈ before → find i = some y → goesAfter x y = true) ∧
      ∀ i y, after.head? = some i → find i = some y → goesAfter x y = false := by
  induction l with
  | nil => exact ⟨[], [], rfl, rfl, fun i y hi => absurd hi List.not_mem_nil, fun i y hi => by cases hi⟩
  | cons k l ih =>
    obtain ⟨before, after, hl, hinsert, hbefore, hafter⟩ := ih
    have hpast : (∀ y, find k = some y → goesAfter x y = true) → insertJob find j x (k :: l) = k :: insertJob find j x l →
        ∃ before after, k :: l = before ++ after ∧ insertJob find j x (k :: l) = before ++ j :: after ∧
          (∀ i y, i ∈ before → find i = some y → goesAfter x y = true) ∧
          ∀ i y, after.head? = some i → find i = some y → goesAfter x y = false := by
      intro hk hstep
      refine ⟨k :: before, after, by rw [hl]; rfl, by rw [hstep, hinsert]; rfl, fun i y hi hy => ?_, hafter⟩
      obtain rfl | hi := List.mem_cons.1 hi
      · exact hk y hy
      · exact hbefore i y hi hy
    cases hk : find k with
    | none => exact hpast (fun y hy => by cases hk.symm.trans hy) (by simp [insertJob, hk])
    | some z =>
      cases hg : goesAfter x z with
      | true => exact hpast (fun y hy => by cases hk.symm.trans hy; exact hg) (by simp [insertJob, hk, hg])
      | false =>
        refine ⟨[], k :: l, rfl, by simp [insertJob, hk, hg], fun i y hi => absurd hi List.not_mem_nil, fun i y hi hy => ?_⟩
        cases hi
        cases hk.symm.trans hy
        exact hg

theorem goesAfter_iff {y : Job} : goesAfter x y = true ↔
    y.priority < x.priority ∨ (y.priority = x.priority ∧ y.arrival ≤ x.arrival) := by
  simp [goesAfter]

theorem goesAfter_false_iff {y : Job} : goesAfter x y = false ↔
    x.priority < y.priority ∨ (y.priority = x.priority ∧ x.arrival < y.arrival) := by
  rw [Bool.eq_false_iff, Ne, goesAfter_iff]
  simp only [not_or, not_and, not_lt, BitVec.not_le]
  constructor
  · rintro ⟨hle, harr⟩
    obtain hlt | heq := lt_or_eq_of_le hle
    · exact .inl hlt
    · exact .inr ⟨heq.symm, harr heq.symm⟩
  · rintro (hlt | ⟨heq, harr⟩)
    · exact ⟨le_of_lt hlt, fun e => absurd e (ne_of_gt hlt)⟩
    · exact ⟨le_of_eq heq.symm, fun _ => harr⟩

theorem requeue_some (hx : s.job j = some x) : s.requeue j = (s.enqueue j).runArbiter x.pool := by
  simp [State.requeue, hx]

end AccountChange

/-- Settles O38: the frame, the HELD jobs, the cases of no job concerned and of one, and what a requeue is. -/
theorem accountChangeReachesItsJobs : Obligations.AccountChangeReachesItsJobs := by
  intro s a
  refine ⟨(keepsDispatch_only s).accountChange a (.refl s),
    fun j x hx ha hp hb hother hq => job_accountChange_stillHeld hx ha hp hb hother hq,
    fun hok hnone => accountChange_none hok hnone,
    fun j x hx ha hp hh hq => liveWith_accountChange hx ha hp hh hq, fun j x hx ha hothers => ?_, fun j x hx => ?_⟩
  · have hone : OnlyInBudget a j s := by
      intro i y hi hy hb
      obtain ⟨hacc, hb⟩ := inBudget_iff.1 hb
      obtain ⟨hheld, hdrain⟩ := hothers i y hi hy hacc
      exact hb.elim hheld hdrain
    refine ⟨fun b hp hh hb => ?_, fun p b hp hd hpr has hb => ⟨fun pos n hn hg => ?_, fun h => ?_⟩⟩
    · rw [hb]
      exact accountChange_held hone hx ha hp hh
    · rw [hb]
      exact accountChange_passed hone hx ha hp hd hpr has hn hg
    · exact accountChange_failed hone hx ha hp hd h
  · obtain ⟨before, after, hsplit, hinsert, hbefore, hafter⟩ := insertJob_split s.job j x (s.pool x.pool).queue
    refine ⟨before, after, hsplit, fun i y hi hy => goesAfter_iff.1 (hbefore i y hi hy),
      fun i y hi hy => goesAfter_false_iff.1 (hafter i y hi hy), ?_⟩
    rw [requeue_some hx, enqueue_some hx, hinsert]
    rfl

end Sys2Proof.Machine

/-! ## The arbiter, assignments, releases and can feed (R47 to R49, R56 to R60, R134 to R137) -/

namespace Sys2Proof.Machine

section Arbitration

variable {s : State} {k : Fin 16} {p : Fin 32} {j : Fin 128} {x : Job}

/-! ### Availability and can feed (R47, R134) -/

theorem unattendedHold_false_iff : s.unattendedHold = false ↔ s.mgu.attended = true ∨ s.mgu.holdAction = false := by
  unfold State.unattendedHold
  cases s.mgu.attended <;> simp

theorem lineFeeds_iff {l : LineState} : lineFeeds l = true ↔ l ≠ .disabled ∧ l ≠ .faulted := by
  cases l <;> simp [lineFeeds]

theorem available_iff : s.available p = true ↔
    (s.printer p).config.configured = true ∧ (s.printer p).config.pool ≠ none ∧ (s.printer p).inService = true ∧
      (s.printer p).link = .answering ∧ (s.printer p).condition = some .ready ∧ (s.sense p).active = false ∧
      (s.disp p).assigned = none ∧ (s.printer p).needsDrop = false ∧
      (s.mgu.attended = true ∨ s.mgu.holdAction = false) := by
  simp [State.available, unattendedHold_false_iff, Option.isSome_iff_ne_none, and_assoc]

theorem canFeed_iff : s.canFeed p = true ↔
    (s.printer p).config.configured = true ∧ (s.printer p).condition = some .ready ∧ (s.printer p).link = .answering ∧
      (s.port (portOf p)).line ≠ .disabled ∧ (s.port (portOf p)).line ≠ .faulted ∧ (s.sense p).active = false := by
  simp [State.canFeed, lineFeeds_iff, and_assoc]

/-! ### The pick (R48) -/

/-- R47: the printer can serve the job of the slot. -/
def State.serves (s : State) (k : Fin 16) (p : Fin 32) (n : Fin 128) : Bool :=
  match s.job n with
  | some job => canServe k job.needs (s.printer p).config
  | none => false

theorem serves_iff {n : Fin 128} : s.serves k p n = true ↔ ∃ x, s.job n = some x ∧ CapableMember s k x.needs p := by
  unfold State.serves
  cases s.job n <;> simp [canServe_iff]

theorem firstServable_eq (s : State) (k : Fin 16) (p : Fin 32) :
    s.firstServable k p = (s.pool k).queue.find? (s.serves k p) := rfl

/-- R48, step 2: the first job of the queue that the printer can serve. -/
theorem firstServable_eq_some_iff : s.firstServable k p = some j ↔
    ∃ (i : Nat) (x : Job), (s.pool k).queue[i]? = some j ∧ s.job j = some x ∧ CapableMember s k x.needs p ∧
      ∀ (i' : Nat) j' x', i' < i → (s.pool k).queue[i']? = some j' → s.job j' = some x' →
        ¬CapableMember s k x'.needs p := by
  rw [firstServable_eq, List.find?_eq_some_iff_getElem]
  constructor
  · rintro ⟨hj, i, hi, hget, hbefore⟩
    obtain ⟨x, hx, hcap⟩ := serves_iff.1 hj
    refine ⟨i, x, List.getElem?_eq_some_iff.2 ⟨hi, hget⟩, hx, hcap, fun i' j' x' hlt hget' hx' hcap' => ?_⟩
    obtain ⟨_, rfl⟩ := List.getElem?_eq_some_iff.1 hget'
    have hnot := hbefore i' hlt
    rw [serves_iff.2 ⟨x', hx', hcap'⟩] at hnot
    cases hnot
  · rintro ⟨i, x, hget, hx, hcap, hbefore⟩
    obtain ⟨hi, hget⟩ := List.getElem?_eq_some_iff.1 hget
    refine ⟨serves_iff.2 ⟨x, hx, hcap⟩, i, hi, hget, fun i' hlt => ?_⟩
    rw [Bool.not_eq_true', Bool.eq_false_iff, Ne, serves_iff]
    rintro ⟨x', hx', hcap'⟩
    exact hbefore i' _ x' hlt (List.getElem?_eq_getElem _) hx' hcap'

/-- What the search of the arbiter gives a printer. -/
def State.offerTo (s : State) (k : Fin 16) (p : Fin 32) : Option (Fin 32 × Fin 128) :=
  if s.available p && ((s.printer p).config.pool == some k) then (s.firstServable k p).map fun j => (p, j) else none

theorem offerTo_eq_some_iff {q : Fin 32} : s.offerTo k q = some (p, j) ↔ q = p ∧ FirstServable s k p j := by
  unfold State.offerTo
  constructor
  · intro h
    split at h
    · next ha =>
      obtain ⟨n, hn, e⟩ := Option.map_eq_some_iff.1 h
      cases e
      exact ⟨rfl, (Bool.and_eq_true_iff.1 ha).1, firstServable_eq_some_iff.1 hn⟩
    · cases h
  · rintro ⟨rfl, hav, hfirst⟩
    have hpool : (s.printer q).config.pool = some k := by
      obtain ⟨_, _, _, _, hcap, _⟩ := hfirst
      exact hcap.pool
    rw [if_pos (by simp [hav, hpool]), firstServable_eq_some_iff.2 hfirst]
    rfl

theorem offerTo_eq_none_iff {q : Fin 32} : s.offerTo k q = none ↔ ∀ j, ¬FirstServable s k q j := by
  constructor
  · intro h j hfirst
    have := offerTo_eq_some_iff.2 ⟨rfl, hfirst⟩
    rw [h] at this
    cases this
  · intro h
    refine Option.eq_none_iff_forall_ne_some.2 fun ⟨p, j⟩ e => ?_
    obtain ⟨rfl, hfirst⟩ := offerTo_eq_some_iff.1 e
    exact h j hfirst

theorem pick_eq (s : State) (k : Fin 16) : s.pick k = (roundFrom (s.pool k).pointer).findSome? (s.offerTo k) := rfl

/-- R48, step 1: the search meets the printers in the order of their distance behind the pointer. -/
theorem map_roundDistance_roundFrom (pointer : Fin 32) :
    (roundFrom pointer).map (roundDistance pointer) = List.range 32 := by
  unfold roundFrom
  rw [List.map_map]
  refine List.map_congr_left (g := id) (fun i hi => ?_) |>.trans (List.map_id _)
  have := List.mem_range.1 hi
  have hp := pointer.isLt
  show ((pointer.val + 1 + i) % 32 + 31 - pointer.val) % 32 = i
  omega

theorem pairwise_roundFrom (pointer : Fin 32) :
    (roundFrom pointer).Pairwise fun p q => roundDistance pointer p < roundDistance pointer q := by
  rw [← List.pairwise_map, map_roundDistance_roundFrom]
  exact List.pairwise_lt_range

theorem mem_roundFrom (pointer p : Fin 32) : p ∈ roundFrom pointer := by
  have hp := p.isLt
  have hq := pointer.isLt
  refine List.mem_map.2 ⟨roundDistance pointer p, List.mem_range.2 (Nat.mod_lt _ (by omega)), Fin.ext ?_⟩
  show (pointer.val + 1 + (p.val + 31 - pointer.val) % 32) % 32 = p.val
  omega

/-- R48: of the printers that can be given a job, the pick is the one that stands first behind the pointer. -/
theorem pick_eq_some_iff : s.pick k = some (p, j) ↔ FirstServable s k p j ∧
    ∀ p' j', FirstServable s k p' j' → roundDistance (s.pool k).pointer p ≤ roundDistance (s.pool k).pointer p' := by
  have order := pairwise_roundFrom (s.pool k).pointer
  rw [pick_eq, List.findSome?_eq_some_iff]
  constructor
  · rintro ⟨before, q, after, hsplit, hq, hnone⟩
    obtain ⟨rfl, hfirst⟩ := offerTo_eq_some_iff.1 hq
    refine ⟨hfirst, fun p' j' hfirst' => ?_⟩
    have hmem := mem_roundFrom (s.pool k).pointer p'
    rw [hsplit] at hmem order
    obtain hbefore | hmem := List.mem_append.1 hmem
    · exact absurd hfirst' (offerTo_eq_none_iff.1 (hnone p' hbefore) j')
    · obtain rfl | hafter := List.mem_cons.1 hmem
      · exact Nat.le_refl _
      · exact Nat.le_of_lt ((List.pairwise_cons.1 (List.pairwise_append.1 order).2.1).1 p' hafter)
  · rintro ⟨hfirst, hleast⟩
    obtain ⟨before, after, hsplit⟩ := List.append_of_mem (mem_roundFrom (s.pool k).pointer p)
    rw [hsplit] at order
    refine ⟨before, p, after, hsplit, offerTo_eq_some_iff.2 ⟨rfl, hfirst⟩, fun q hq => ?_⟩
    refine offerTo_eq_none_iff.2 fun j' hfirst' => ?_
    have hlt := (List.pairwise_append.1 order).2.2 q hq p (List.mem_cons_self ..)
    exact absurd (hleast q j' hfirst') (Nat.not_le.2 hlt)

theorem pick_eq_none_iff : s.pick k = none ↔ ∀ p j, ¬FirstServable s k p j := by
  rw [pick_eq, List.findSome?_eq_none_iff]
  exact ⟨fun h p => offerTo_eq_none_iff.1 (h p (mem_roundFrom _ p)), fun h p _ => offerTo_eq_none_iff.2 (h p)⟩

/-! ### The arbiter's run (R44, R47, R48) -/

theorem runArbiter_idle (h : (s.pool k).enabled = false ∨ s.pick k = none) : s.runArbiter k = s := by
  unfold State.runArbiter
  obtain h | h := h
  · rw [h, if_neg Bool.false_ne_true]
  · refine kept_ite (P := fun t => t = s) ?_ rfl
    cases (s.pool k).queue.length with
    | zero => rfl
    | succ n => simp only [State.arbiterLoop, h]

theorem pool_assigned (s : State) (k : Fin 16) (p : Fin 32) (j : Fin 128) :
    (s.assigned k p j).pool k = { s.pool k with queue := (s.pool k).queue.filter fun i => i != j } := by
  unfold State.assigned State.leaveQueue
  rw [State.pool_setDisp, State.pool_modJob, State.pool_setQueue, if_pos rfl]

theorem pool_assign (s : State) (k : Fin 16) (p : Fin 32) (j : Fin 128) :
    (s.assign k p j).pool k = { s.pool k with queue := (s.pool k).queue.filter fun i => i != j } := by
  rw [assign_eq, (triedOnly_releaseLoop j _ _).pools, pool_assigned]

/-- R48: a run assigns what it picks and runs on, with one job fewer in the queue. -/
theorem runArbiter_pick (he : (s.pool k).enabled = true) (hq : (s.pool k).queue.Nodup) (h : s.pick k = some (p, j)) :
    s.runArbiter k = ((s.setPool k { s.pool k with pointer := p }).assign k p j).runArbiter k := by
  obtain ⟨_, _, _, hmem⟩ := pick_some h
  have hpool : ((s.setPool k { s.pool k with pointer := p }).assign k p j).pool k =
      { s.pool k with pointer := p, queue := (s.pool k).queue.filter fun i => i != j } := by
    rw [pool_assign, State.pool_setPool, if_pos rfl]
  have hlen : (s.pool k).queue.length = ((s.pool k).queue.filter fun i => i != j).length + 1 := by
    rw [← hq.erase_eq_filter, List.length_erase_of_mem hmem]
    have := List.length_pos_of_mem hmem
    omega
  unfold State.runArbiter
  rw [hpool, if_pos he, if_pos he, hlen]
  conv => lhs; unfold State.arbiterLoop
  simp only [h]

theorem offerPrinter_available (h : s.available p = true) (hk : (s.printer p).config.pool = some k) :
    s.offerPrinter p = s.runArbiter k := by
  simp [State.offerPrinter, h, hk]

theorem offerPrinter_unavailable (h : s.available p = false) : s.offerPrinter p = s := by
  simp [State.offerPrinter, h]

/-- R49: what an assignment sets before it tries releases. -/
theorem assign_some (hx : s.job j = some x) (k : Fin 16) (p : Fin 32) :
    s.assign k p j = State.releaseLoop ((s.printer p).config.limit + 1) j
      (((s.leaveQueue k j).setJob j (some (printingOn p x))).setDisp p
        { s.disp p with assigned := some j, window := [] }) := by
  have h : s.assigned k p j = ((s.leaveQueue k j).setJob j (some (printingOn p x))).setDisp p
      { s.disp p with assigned := some j, window := [] } :=
    congrArg (fun t => State.setDisp t p _) (State.modJob_some (s.leaveQueue k j) hx (printingOn p))
  rw [assign_eq, h]
  rfl

/-! ### The next position and its estimate (R56, R58) -/

theorem nextPosition_open (h : x.isOpen = true) :
    nextPosition x = if x.releasePos < x.sheets then some (1, x.releasePos + 1) else none := by
  unfold nextPosition
  rw [if_pos h]
  rfl

theorem nextPosition_closed (h : x.isOpen = false) (hlt : x.releasePos < x.copies * x.sheets) :
    ∃ c n, nextPosition x = some (c, n) ∧ 1 ≤ c ∧ c ≤ x.copies ∧ 1 ≤ n ∧ n ≤ x.sheets ∧
      (c - 1) * x.sheets + n = x.releasePos + 1 := by
  have hcopies : 1 ≤ x.copies := Nat.pos_of_ne_zero fun e => by rw [e, Nat.zero_mul] at hlt; omega
  have hnext : nextPosition x = some (x.releasePos / x.sheets + 1, x.releasePos % x.sheets + 1) := by
    unfold nextPosition
    rw [if_neg (by rw [h]; nofun), if_pos hlt]
  obtain ⟨hord, hcl, hch, hsl, hsh, _⟩ := nextPosition_some hnext hcopies
  exact ⟨_, _, hnext, hcl, hch, hsl, hsh, hord⟩

theorem nextPosition_released (h : x.isOpen = false) (hle : x.copies * x.sheets ≤ x.releasePos) :
    nextPosition x = none := by
  unfold nextPosition
  rw [if_neg (by rw [h]; nofun), if_neg (Nat.not_lt.2 hle)]

theorem nextEstimate_none (h : nextPosition x = none) : s.nextEstimate x = none := by
  simp [State.nextEstimate, h]

theorem nextEstimate_at {pos : Nat × Nat} {y : SheetDesc} (h : nextPosition x = some pos)
    (hy : s.sheetDesc x pos.2 = some y) :
    s.nextEstimate x = some (pos, estimate (s.jobClass x) y.sides y.sizeClass y.media) := by
  simp [State.nextEstimate, h, hy]

/-! ### Releases (R57, R58) -/

theorem mayRelease_iff : s.mayRelease x p = true ↔
    x.phase = .printing ∧ x.drain = none ∧ x.stalled = false ∧ (s.mgu.attended = true ∨ s.mgu.holdAction = false) ∧
      s.canFeed p = true ∧ (s.disp p).window.length < (s.printer p).config.limit := by
  simp [State.mayRelease, unattendedHold_false_iff, and_assoc]

/-- A job on the printer makes no release more: a condition fails, or there is no next position. -/
def Settles (j : Fin 128) (p : Fin 32) (t : State) : Prop :=
  ∀ y, t.job j = some y → y.printer = some p → t.mayRelease y p = true → t.nextEstimate y = none

theorem settles_gateFailed (hx : s.job j = some x) : Settles j p (s.gateFailed j p x.account) := by
  intro y hy hpr hm
  rw [job_gateFailed hx] at hy
  cases hy
  split at hpr
  · cases hpr
  · next hw =>
    rw [if_neg hw] at hm
    obtain ⟨_, hdrain, _⟩ := mayRelease_iff.1 hm
    cases hdrain

theorem config_release (hx : s.job j = some x) (a : Fin 512) (pos : Nat × Nat) (e : Nat) :
    ((s.release j p a pos e).printer p).config = (s.printer p).config := by
  obtain ⟨r, hr, hrel⟩ := release_some (p := p) hx a pos e
  rw [hrel]
  exact (congrArg Printer.config ((State.printer_setPrinter _ p r p).trans (if_pos rfl))).trans hr

/-- R57: the tries that fill the window, and the one that finds it full, release until a condition fails. -/
theorem settles_releaseLoop : ∀ (n : Nat) {t : State} {x : Job}, t.job j = some x → x.printer = some p →
    (t.printer p).config.limit < n + (t.disp p).window.length → Settles j p (State.releaseLoop n j t)
  | 0, t, x, _, _, hn => by
    intro y _ _ hm
    have := window_of_mayRelease hm
    exact absurd hn (by simp only [State.releaseLoop] at this; omega)
  | n + 1, t, x, hx, hpr, hn => by
    cases hm : t.mayRelease x p with
    | false =>
      rw [releaseLoop_stopped hx hpr (.inl hm)]
      intro y hy _ hmy
      cases hx.symm.trans hy
      rw [hm] at hmy
      cases hmy
    | true =>
      cases he : t.nextEstimate x with
      | none =>
        rw [releaseLoop_stopped hx hpr (.inr he)]
        intro y hy _ _
        cases hx.symm.trans hy
        exact he
      | some next =>
        rw [releaseLoop_step hx hpr hm he]
        refine kept_ite (settles_releaseLoop n (x := oneReleased x) (job_release hx _ _ _ _) hpr ?_) (settles_gateFailed hx)
        rw [config_release hx, window_release hx, List.length_append, List.length_singleton]
        omega

theorem tryReleases_some (hx : s.job j = some x) (hpr : x.printer = some p) : s.tryReleases j =
    if ((State.releaseLoop ((s.printer p).config.limit + 1) j s).disp p).assigned = some j then
      State.releaseLoop ((s.printer p).config.limit + 1) j s
    else (State.releaseLoop ((s.printer p).config.limit + 1) j s).offerPrinter p := by
  simp only [State.tryReleases, hx, hpr]
  rfl

/-- R94: no entry is SENDING where all are SENT. -/
theorem oldestSending_isNone (w : List WindowEntry) : (oldestSending w).isNone = w.all fun y => y.sent := by
  rw [Bool.eq_iff_iff]
  simp [oldestSending]

/-- R58, R94: a release, field by field. -/
theorem release_eq (hx : s.job j = some x) (p : Fin 32) (a : Fin 512) (pos : Nat × Nat) (e : Nat) :
    s.release j p a pos e = (((s.reserve a e).setDisp p
      { s.disp p with window := (s.disp p).window ++ [entryFor (s.printer p) j pos e] }).setPrinter p
        { s.printer p with
          nextFeed := (s.printer p).nextFeed + 1#8
          stage := if (s.disp p).window.all (fun y => y.sent) then some .start else (s.printer p).stage
          naks := if (s.disp p).window.all (fun y => y.sent) then 0 else (s.printer p).naks }).setJob j
            (some (oneReleased x)) := by
  rw [← oldestSending_isNone]
  exact State.modJob_some _ (show (((s.reserve a e).setDisp p _).setPrinter p _).job j = some x from hx) oneReleased

/-! ### The stall timer and the hand-over of can feed (R134, R136, R137) -/

/-- R134: the result handed on is stored. -/
def State.feedsNow (s : State) (p : Fin 32) (b : Bool) : State := s.setDisp p { s.disp p with feeds := b }

theorem refreshFeed_unchanged (h : s.canFeed p = (s.disp p).feeds) : s.refreshFeed p = s := by
  unfold State.refreshFeed
  exact if_pos h

theorem disp_feedsNow (s : State) (p : Fin 32) (b : Bool) : (s.feedsNow p b).disp p = { s.disp p with feeds := b } := by
  unfold State.feedsNow
  rw [State.disp_setDisp, if_pos rfl]

/-- R136: the stall timer as "cannot feed" leaves it; `reroute` is the timeout of the job's pool. -/
def startedStall (stall : Option Time) (now : Time) (reroute : Nat) : Option Time :=
  if stall = none ∧ 0 < reroute then some (now + BitVec.ofNat 32 (reroute * 1000)) else stall

theorem startStall_eq (s : State) (p : Fin 32) (k : Fin 16) : s.startStall p k =
    s.setDisp p { s.disp p with stall := startedStall (s.disp p).stall s.now (s.pool k).reroute } := by
  have hself : s.setDisp p (s.disp p) = s := by
    show { s with dsc := { s.dsc with printers := put s.dsc.printers p (s.dsc.printers.get p) } } = s
    rw [put_get_self]
  unfold State.startStall startedStall
  simp only [Bool.and_eq_true, Option.isNone_iff_eq_none, decide_eq_true_eq]
  split
  · rfl
  · exact hself.symm

theorem feedsNow_noStall (s : State) (p : Fin 32) :
    (s.feedsNow p true).setDisp p { (s.feedsNow p true).disp p with stall := none } =
      s.setDisp p { s.disp p with feeds := true, stall := none } := by
  rw [disp_feedsNow]
  exact State.setDisp_setDisp ..

/-- R136, R137: a PRINTING job's stalled flag set or cleared. -/
def withStalled (x : Job) (b : Bool) : Job := { x with stalled := b }

theorem takeCannotFeed_idle (ha : (s.disp p).assigned = none) : s.takeCannotFeed p = s := by
  simp [State.takeCannotFeed, ha]

theorem takeCannotFeed_printing (ha : (s.disp p).assigned = some j) (hx : s.job j = some x) (hp : x.phase = .printing) :
    s.takeCannotFeed p = (s.setJob j (some (withStalled x true))).startStall p x.pool := by
  simp only [State.takeCannotFeed, ha, hx]
  split
  · rfl
  · next h => cases hp.symm.trans h
  · next h _ => exact absurd hp h

theorem takeCannotFeed_cancelling (ha : (s.disp p).assigned = some j) (hx : s.job j = some x)
    (hp : x.phase = .cancelling) : s.takeCannotFeed p = s.startStall p x.pool := by
  simp [State.takeCannotFeed, ha, hx, hp]

/-- R137: "can feed", with the stall timer stopped already. -/
def State.feedAgain (s : State) (p : Fin 32) : State :=
  match (s.disp p).assigned with
  | none => s.offerPrinter p
  | some j =>
    match s.job j with
    | none => s
    | some x => if x.phase = .printing then (s.setJob j (some (withStalled x false))).tryReleases j else s

theorem takeCanFeed_eq (s : State) (p : Fin 32) :
    s.takeCanFeed p = (s.setDisp p { s.disp p with stall := none }).feedAgain p := rfl

theorem feedAgain_idle (ha : (s.disp p).assigned = none) : s.feedAgain p = s.offerPrinter p := by
  simp [State.feedAgain, ha]

theorem feedAgain_printing (ha : (s.disp p).assigned = some j) (hx : s.job j = some x) (hp : x.phase = .printing) :
    s.feedAgain p = (s.setJob j (some (withStalled x false))).tryReleases j := by
  simp only [State.feedAgain, ha, hx]
  exact if_pos hp

theorem feedAgain_other (ha : (s.disp p).assigned = some j) (hx : s.job j = some x) (hp : x.phase ≠ .printing) :
    s.feedAgain p = s := by
  simp only [State.feedAgain, ha, hx]
  exact if_neg hp

section Stops

variable (h : s.canFeed p = false) (hf : (s.disp p).feeds = true)
include h hf

theorem refreshFeed_stops : s.refreshFeed p = (s.feedsNow p false).takeCannotFeed p := by
  unfold State.refreshFeed
  simp only [h, hf]
  rfl

theorem refreshFeed_stops_idle (ha : (s.disp p).assigned = none) : s.refreshFeed p = s.feedsNow p false := by
  rw [refreshFeed_stops h hf, takeCannotFeed_idle (by rw [disp_feedsNow]; exact ha)]

variable (ha : (s.disp p).assigned = some j) (hx : s.job j = some x)
include ha hx

/-- R136: a PRINTING job is stalled, and the stall timer starts. -/
theorem refreshFeed_stops_printing (hp : x.phase = .printing) : s.refreshFeed p =
    (s.setDisp p { s.disp p with
      feeds := false
      stall := startedStall (s.disp p).stall s.now (s.pool x.pool).reroute }).setJob j (some (withStalled x true)) := by
  have hj : (s.feedsNow p false).job j = some x := hx
  rw [refreshFeed_stops h hf, takeCannotFeed_printing (by rw [disp_feedsNow]; exact ha) hj hp, startStall_eq,
    State.disp_setJob, disp_feedsNow, ← State.setDisp_setDisp s p { s.disp p with feeds := false }]
  rfl

/-- R136: for a CANCELLING job the stall timer starts too. -/
theorem refreshFeed_stops_cancelling (hp : x.phase = .cancelling) : s.refreshFeed p =
    s.setDisp p { s.disp p with
      feeds := false
      stall := startedStall (s.disp p).stall s.now (s.pool x.pool).reroute } := by
  have hj : (s.feedsNow p false).job j = some x := hx
  rw [refreshFeed_stops h hf, takeCannotFeed_cancelling (by rw [disp_feedsNow]; exact ha) hj hp, startStall_eq,
    disp_feedsNow, ← State.setDisp_setDisp s p { s.disp p with feeds := false }]
  rfl

end Stops

theorem refreshFeed_starts (h : s.canFeed p = true) (hf : (s.disp p).feeds = false) :
    s.refreshFeed p = (s.setDisp p { s.disp p with feeds := true, stall := none }).feedAgain p := by
  rw [← feedsNow_noStall, ← takeCanFeed_eq]
  unfold State.refreshFeed
  simp only [h, hf]
  rfl

end Arbitration

/-- Settles O37: the arbiter's pick and run, assignments, releases and the gate, and the changes of can feed. -/
theorem arbiterAssignsReleasesAndFeeds : Obligations.ArbiterAssignsReleasesAndFeeds := by
  intro s k p r d hr hd
  subst hr hd
  refine ⟨available_iff, canFeed_iff, fun j => pick_eq_some_iff, pick_eq_none_iff, runArbiter_idle,
    fun j he hq h => runArbiter_pick he hq h, offerPrinter_available, offerPrinter_unavailable,
    fun j x hx => assign_some hx k p,
    fun x => ⟨nextPosition_open, nextPosition_closed, nextPosition_released, nextEstimate_none,
      fun pos y h hy => nextEstimate_at h hy⟩,
    fun j x hx hpr => ⟨mayRelease_iff, fun t ht => ?_, fun n h => releaseLoop_stopped hx hpr h n,
      fun n pos e hm hn => releaseLoop_step hx hpr hm hn n, fun pos e => release_eq hx p x.account pos e,
      fun w v hw hv => ⟨fun hwin => ?_, fun hwin => ?_⟩, fun pos e hp hd hn => ?_⟩,
    fun a => ⟨?_, fun h => ?_⟩, refreshFeed_unchanged,
    fun h hf => ⟨refreshFeed_stops_idle h hf, fun j x w ha hx hw => ?_⟩, fun w h hf hw => ?_⟩
  · subst ht
    exact ⟨settles_releaseLoop _ hx hpr (by omega), tryReleases_some hx hpr⟩
  · rw [hv, hw]
    exact gateFailed_draining hx hwin
  · have hw' : w = s.gateShut j x := hw
    subst hw'
    rw [hv, gateFailed_empty hx hwin]
    exact ⟨rfl, rfl, (State.disp_setDisp _ _ _ _).trans (if_pos rfl), (State.printer_setPrinter _ _ _ _).trans (if_pos rfl),
      (jobSet_setJob _ j _).self⟩
  · cases hg : gatePasses (s.account x.account) e with
    | true => exact retryGate_passed hx hp hd hn hg
    | false =>
      refine retryGate_failed hx fun pos' e' hn' => ?_
      cases hn.symm.trans hn'
      exact hg
  · rintro ⟨j, x, hx, ha, hb⟩
    exact budgetTest_kept hx (inBudget_iff.2 ⟨ha, hb⟩)
  · refine budgetTest_cleared fun j x hx hb => ?_
    obtain ⟨ha, hb⟩ := inBudget_iff.1 hb
    obtain ⟨hheld, hdrain⟩ := h j x hx ha
    exact hb.elim hheld hdrain
  · rw [hw]
    exact ⟨refreshFeed_stops_printing h hf ha hx, refreshFeed_stops_cancelling h hf ha hx⟩
  · have hset : w = s.setDisp p { s.disp p with feeds := true, stall := none } := hw
    have hassigned : (w.disp p).assigned = (s.disp p).assigned := by rw [hset, State.disp_setDisp, if_pos rfl]
    have hjob : ∀ i, w.job i = s.job i := fun i => by rw [hset]; rfl
    have hstart : s.refreshFeed p = w.feedAgain p := by rw [refreshFeed_starts h hf, hset]
    rw [hstart]
    exact ⟨fun ha => feedAgain_idle (hassigned.trans ha), fun j x ha hx =>
      ⟨feedAgain_printing (hassigned.trans ha) ((hjob j).trans hx),
        feedAgain_other (hassigned.trans ha) ((hjob j).trans hx)⟩⟩

end Sys2Proof.Machine

/-! ## Power-on, the tick, and the frame of an event (section 0.7.4, R70, R75 to R79, R84, R88, R91, R107, R118, R133, R138, R160 to R163, R174, R176) -/

namespace Sys2Proof.Machine

/-! ### Power-on (R70, R88, R107, R118, R133, R156, R158, R163, R174) -/

theorem initial_withDram (dram : List Host.Cell) : { State.reset.spm with dram := dram } = Spm.initial dram := by
  simp only [State.reset, Spm.initial]

/-- Settles O7: each table of a machine right after power-on is a constant one. -/
theorem powerOnTables : Obligations.PowerOnTables := by
  intro s
  refine ⟨s.powerUp, rfl, fun q => ?_, fun p => ?_, fun b k => ?_, rfl, fun a => get_replicate _ a,
    fun p => get_replicate _ p, rfl, fun p => get_replicate _ p, fun q => get_replicate _ q, rfl, fun p => ?_, rfl, rfl, ?_⟩
  · exact congrArg Port.config (get_replicate _ q)
  · exact congrArg Printer.config (get_replicate _ p)
  · exact (congrArg (Vector.get · k) (get_replicate _ b)).trans (get_replicate _ k)
  · exact congrArg Sense.mode (get_replicate _ p)
  · rw [initial_withDram]
    rfl

/-! ### The tick (section 0.7.4) -/

theorem perm_insertAt {α : Type} (x : α) : ∀ (l : List α) (n : Nat), (insertAt x l n).Perm (x :: l)
  | [], _ => .refl _
  | _ :: _, 0 => .refl _
  | y :: l, n + 1 => ((perm_insertAt x l n).cons y).trans (.swap x y l)

/-- No order of the due events loses or adds one. -/
theorem perm_shuffle {α : Type} : ∀ (l : List α) (places : List Nat), (shuffle l places).Perm l
  | [], _ => .refl _
  | x :: l, [] => (perm_shuffle l []).cons x
  | x :: l, n :: rest => (perm_insertAt x _ n).trans ((perm_shuffle l rest).cons x)

section Due

variable {s : State} {c : Instr} {p : Fin 32} {q : Fin 8}

theorem idle_tick (h : s.jli.restart ≠ some 0) : s.idle = s.tick := if_neg h

theorem step_idle (h : s.pending = []) : step s = .next s.idle := by
  unfold step
  rw [h]

theorem changeDue_iff {high : Bool} : s.changeDue p high = true ↔
    (s.sense p).sampled ≠ s.now ∧ (s.sense p).high = high ∧ (s.sense p).run = 2 := by
  simp [State.changeDue, State.sampleDue, lastRun, and_assoc]

theorem mem_dueOnInput : c ∈ s.dueOnInput p ↔
    (s.changeDue p true = true ∧ s.senseLines.getLsbD p.val = false ∧ c = .fallingChange p) ∨
      (s.changeDue p false = true ∧ s.senseLines.getLsbD p.val = true ∧ c = .risingChange p) := by
  simp [State.dueOnInput, mem_dueIf, and_assoc]

theorem mem_dueOnPort : c ∈ s.dueOnPort q ↔
    ((s.port q).line = .awaiting ∧ expired s.now (s.port q).windowExpiry = true ∧ c = .responseWindowExpiry q) ∨
      ((s.port q).line = .recovering ∧ expired s.now (s.port q).recoverExpiry = true ∧ c = .recoveryLimitExpiry q) ∨
      ((s.port q).line = .faulted ∧ expired s.now (s.port q).restExpiry = true ∧ c = .faultRestExpiry q) := by
  simp [State.dueOnPort, mem_dueIf, and_assoc]

theorem pollFallsDue_iff : s.pollFallsDue p = true ↔ (s.printer p).config.configured = true ∧
    (s.port (portOf p)).config.enabled = true ∧ s.now = (s.printer p).pollDue := by
  simp [State.pollFallsDue, and_assoc]

theorem mem_dueForPrinter : c ∈ s.dueForPrinter p ↔
    (s.pollFallsDue p = true ∧ c = .pollDue p) ∨ (expired s.now (s.disp p).stall = true ∧ c = .stallTimerExpiry p) := by
  simp [State.dueForPrinter, mem_dueIf]

theorem overrideExpired_iff {b : Fin 8} : s.overrideExpired b = true ↔
    ∃ o, s.arl.overrides.get b = some o ∧ reached s.now o.expiry = true := by
  unfold State.overrideExpired
  cases s.arl.overrides.get b <;> simp [expired]

end Due

/-- Settles O2: a tick queues the due events in some order, and each source of due events gives its own commands. -/
theorem idleStepIsATick : Obligations.IdleStepIsATick := by
  refine ⟨fun s hp => ⟨fun hr => ⟨s.tick, ?_, rfl, perm_shuffle _ _⟩, fun hr => ?_⟩, fun s => ?_⟩
  · rw [step_idle hp, idle_tick hr]
  · rw [step_idle hp]
    exact congrArg Host.Outcome.next (if_pos hr)
  · simp only [mem_dueEvents, mem_dueOnInput, mem_dueOnPort, mem_dueForPrinter, changeDue_iff, pollFallsDue_iff,
      overrideExpired_iff, expired_eq_true]
    refine ⟨by simp, by simp [and_assoc], by simp [and_assoc], by simp, by simp [and_assoc], by simp, by simp, by simp,
      by simp, by simp, ?_⟩
    rintro c (rfl | ⟨-, rfl⟩ | ⟨p, ⟨-, -, rfl⟩ | ⟨-, -, rfl⟩⟩ | ⟨q, ⟨-, -, rfl⟩ | ⟨-, -, rfl⟩ | ⟨-, -, rfl⟩⟩ |
      ⟨p, ⟨-, rfl⟩ | ⟨-, rfl⟩⟩ | ⟨b, -, rfl⟩) <;> simp

/-! ### The frame of an event (R84, R93, R134, R162) -/

section Events

variable {P : State → Prop} (K : KeepsSense P) (lines : ∀ {s l}, P s → P (s.setSenseLines l)) {s : State}
include K lines

/-- What the operations of the lines, the printers and the sense inputs keep, an event keeps. -/
theorem KeepsSense.exec_event {c : Instr} (hc : isEvent c = true) (h : P s) : ∃ t, exec c s = .next t ∧ P t := by
  cases c <;> first | exact absurd hc Bool.false_ne_true | refine ⟨_, rfl, ?_⟩
  case pollDue => exact kept_ite (K.serviceLines h) h
  case echoMismatch => exact kept_ite (K.receiveAndServe _ _ h) h
  case echoTimeout => exact kept_ite (K.serviceLines (K.contend _ h)) h
  case blockTransmitted => exact kept_ite (K.receiveAndServe _ _ h) h
  case responseWindowExpiry => exact kept_ite (K.serviceLines (K.finishExchange _ _ h)) h
  case replyReceived => exact kept_ite (K.receiveAndServe _ _ h) h
  case framingFault => exact kept_ite (K.receiveAndServe _ _ h) h
  case breakReceived => exact kept_ite (K.receiveAndServe _ _ h) h
  case lineIdle => exact K.serviceLines (K.lineIdle _ h)
  case recoveryLimitExpiry => exact kept_ite (K.serviceLines (K.faultPort _ h)) h
  case faultRestExpiry => exact kept_ite (K.serviceLines (K.changePort _ (samePort_startLineReset _ _) h)) h
  case stallTimerExpiry => exact kept_ite (K.serviceLines (K.stallExpired _ h)) h
  case fallingChange => exact kept_ite (K.serviceLines (K.takeFall _ (lines h))) h
  case risingChange => exact kept_ite (K.serviceLines (K.takeRise _ (lines h))) h
  case startConfirmed => exact K.startConfirmed _ _ h
  case characterReceived => exact kept_ite (K.receiveAndServe _ _ h) h
  case senseSample => exact K.serviceLines (State.each_kept (fun _ p ht => K.takeSample _ p ht) _ (lines h))

end Events

/-- Settles O55: each operation of an event stays inside the frame. -/
theorem eventsChangeOnlyTheirOwn : Obligations.EventsChangeOnlyTheirOwn := fun _ s hc =>
  (keepsSense_only s).exec_event (fun h => h.trans (eventOnly_senseLines _ _)) hc (EventOnly.refl s)

end Sys2Proof.Machine

/-! ## The receiver's reports (R67 to R69, R77, R79, R82) -/

namespace Sys2Proof.Machine

/-! ### Ports -/

theorem port_modPort (s : State) (q r : Fin 8) (f : Port → Port) :
    (s.modPort q f).port r = if r = q then f (s.port q) else s.port r := State.port_setPort s q _ r

theorem port_modPort_self (s : State) (q : Fin 8) (f : Port → Port) : (s.modPort q f).port q = f (s.port q) := by
  rw [port_modPort, if_pos rfl]

theorem modPort_eq {s : State} {q : Fin 8} {f : Port → Port} {x : Port} (h : f (s.port q) = x) : s.modPort q f = s.setPort q x :=
  congrArg (s.setPort q) h

theorem modPort_setPort (s : State) (q : Fin 8) (x : Port) (f : Port → Port) :
    (s.setPort q x).modPort q f = s.setPort q (f x) := by
  unfold State.modPort
  rw [State.port_setPort, if_pos rfl, State.setPort_setPort]

theorem port_setPort_self (s : State) (q : Fin 8) (x : Port) : (s.setPort q x).port q = x := by
  rw [State.port_setPort, if_pos rfl]

theorem setPort_self (s : State) (q : Fin 8) : s.setPort q (s.port q) = s := by
  unfold State.setPort State.port
  rw [put_get_self]

/-! ### Waits in RECOVERING (R77) -/

theorem endWait_idle {x : Port} (hl : x.line = .recovering) (hi : x.rx.idleFlag = true) :
    x.endWait = { x with line := if x.exchange.isSome then .transmitting else .idle, recoverExpiry := none } :=
  if_pos ⟨hl, hi⟩

theorem endWait_busy {x : Port} (hi : x.rx.idleFlag = false) : x.endWait = x :=
  if_neg fun h => Bool.false_ne_true (hi.symm.trans h.2)

theorem enterRecovering_idle {x : Port} {now : Time} (hi : x.rx.idleFlag = true) :
    x.enterRecovering now =
      { x with line := if x.exchange.isSome then .transmitting else .idle, recoverExpiry := none } :=
  endWait_idle rfl hi

theorem enterRecovering_busy {x : Port} {now : Time} (hi : x.rx.idleFlag = false) :
    x.enterRecovering now = { x with line := .recovering, recoverExpiry := some (now + 50#32) } :=
  endWait_busy hi

/-! ### What the receiver makes of a character (R67, R68) -/

theorem startIsConfirmed_iff {c : StartSamples} : startIsConfirmed c = true ↔ 3 ≤ c.ones ∧
    ((c.s3 = false ∧ c.s5 = false) ∨ (c.s3 = false ∧ c.s7 = false) ∨ (c.s5 = false ∧ c.s7 = false)) := by
  simp [startIsConfirmed, or_assoc]

theorem charReport_stop {c : CharSamples} (h : (majorityBits c).getLsbD 9 = true) :
    charReport c = .character ((majorityBits c).truncate 8) ((majorityBits c).getLsbD 8) := if_pos h

theorem charReport_noStop {c : CharSamples} (h : (majorityBits c).getLsbD 9 = false) :
    charReport c = if majorityBits c = 0#10 then .brk else .framing := by
  unfold charReport
  rw [h]
  simp

/-- The receiver's own part at the end of a character, by the report. -/
theorem endCharacter_eq (x : Port) (c : CharSamples) : x.endCharacter c = { x with
    noise := if x.rx.startNoisy || (c.s8 != c.s9) || (c.s9 != c.s10) then min 65535 (x.noise + 1) else x.noise
    framing := if charReport c = .framing then min 65535 (x.framing + 1) else x.framing
    rx := { x.rx with
      mode := match charReport c with
        | .character _ _ => .searching
        | _ => .resync
      ones := 0
      startNoisy := false } } := by
  unfold Port.endCharacter samplesDisagree
  rw [← Bool.or_assoc]
  rfl

theorem inCharacter_iff {x : Port} : x.inCharacter = true ↔ x.line ≠ .disabled ∧ x.rx.mode = .inCharacter := by
  simp [Port.inCharacter]

/-- R67: a receiver in a character ends it, and the line's state acts on the report. -/
theorem receiveAndServe_inCharacter {s : State} {q : Fin 8} {c : CharSamples} (hl : (s.port q).line ≠ .disabled)
    (hm : (s.port q).rx.mode = .inCharacter) : s.receiveAndServe q c =
      ((s.setPort q ((s.port q).endCharacter c)).takeReport q (charReport c)).serviceLines :=
  congrArg State.serviceLines (if_pos (inCharacter_iff.2 ⟨hl, hm⟩))

/-! ### Lines that take no reply -/

/-- The line takes no echo and no reply: a character on it changes the receiver's fields alone. -/
def TakesNoReply (l : LineState) : Prop := l = .idle ∨ l = .recovering ∨ l = .faulted

theorem TakesNoReply.running {l : LineState} (h : TakesNoReply l) : l ≠ .disabled := by
  rcases h with rfl | rfl | rfl <;> decide

theorem takeReport_character {s : State} {q : Fin 8} {d : Byte} {mark : Bool} (h : TakesNoReply (s.port q).line) :
    s.takeReport q (.character d mark) = s := by
  unfold State.takeReport
  rcases h with e | e | e <;> rw [e]

theorem takeReport_framing {s : State} {q : Fin 8} (h : TakesNoReply (s.port q).line) : s.takeReport q .framing = s := by
  unfold State.takeReport
  rcases h with e | e | e <;> rw [e]

/-- R77, R82: a break on a FAULTED line, or the part's own break, asks for nothing. -/
theorem takeReport_break_ignored {s : State} {q : Fin 8}
    (h : (s.port q).line = .faulted ∨ ((s.port q).line = .recovering ∧ (s.port q).discarding = true)) :
    s.takeReport q .brk = s := by
  unfold State.takeReport
  rcases h with e | ⟨e, hd⟩
  · rw [e]
  · rw [e]
    exact if_pos hd

/-- R82: any other break is an attention request. -/
theorem takeReport_break {s : State} {q : Fin 8}
    (h : (s.port q).line = .idle ∨ ((s.port q).line = .recovering ∧ (s.port q).discarding = false)) :
    s.takeReport q .brk = s.modPort q fun x => { x with attention := x.attention ||| s.configuredDrops q } := by
  unfold State.takeReport State.requestAttention
  rcases h with e | ⟨e, hd⟩
  · rw [e]
    rfl
  · rw [e, hd]
    rfl

theorem configuredDrops_setPort (s : State) (q r : Fin 8) (x : Port) :
    (s.setPort r x).configuredDrops q = s.configuredDrops q := rfl

theorem getLsbD_oneDrop (d e : Fin 4) : (1#4 <<< e.val).getLsbD d.val = decide (d = e) := by
  revert d e
  decide

theorem getLsbD_foldl_drops (f : Fin 4 → Bool) (d : Fin 4) : ∀ (l : List (Fin 4)) (m : BitVec 4),
    (l.foldl (fun m e => if f e then m ||| (1#4 <<< e.val) else m) m).getLsbD d.val =
      (m.getLsbD d.val || (decide (d ∈ l) && f d))
  | [], m => by simp
  | e :: l, m => by
    have he : (if f e then m ||| (1#4 <<< e.val) else m).getLsbD d.val =
        (m.getLsbD d.val || (decide (d = e) && f e)) := by
      cases f e
      · rw [Bool.and_false, Bool.or_false]
        rfl
      · rw [Bool.and_true, ← getLsbD_oneDrop, ← BitVec.getLsbD_or]
        rfl
    rw [List.foldl_cons, getLsbD_foldl_drops f d l, he]
    by_cases hd : d = e
    · subst hd
      cases f d <;> simp
    · simp [hd]

theorem getLsbD_configuredDrops (s : State) (q : Fin 8) (d : Fin 4) :
    (s.configuredDrops q).getLsbD d.val = (s.printer (printerAt q d)).config.configured := by
  unfold State.configuredDrops
  rw [getLsbD_foldl_drops fun d => (s.printer (printerAt q d)).config.configured]
  simp

/-- R77, R82: a break on a line that takes no reply changes the attention set alone. -/
theorem takeReport_brk {s : State} {q : Fin 8} (h : TakesNoReply (s.port q).line) :
    ∃ a, s.takeReport q .brk = s.setPort q { s.port q with attention := a } ∧
      (((s.port q).line = .faulted ∨ ((s.port q).line = .recovering ∧ (s.port q).discarding = true)) →
        a = (s.port q).attention) ∧
      (((s.port q).line = .idle ∨ ((s.port q).line = .recovering ∧ (s.port q).discarding = false)) → ∀ d : Fin 4,
        a.getLsbD d.val = ((s.port q).attention.getLsbD d.val || (s.printer (printerAt q d)).config.configured)) := by
  by_cases ignored : (s.port q).line = .faulted ∨ ((s.port q).line = .recovering ∧ (s.port q).discarding = true)
  · refine ⟨(s.port q).attention, ?_, fun _ => rfl, fun asks => ?_⟩
    · rw [takeReport_break_ignored ignored]
      exact (setPort_self s q).symm
    · rcases ignored with e | ⟨e, hd⟩ <;> simp_all
  · have asks : (s.port q).line = .idle ∨ ((s.port q).line = .recovering ∧ (s.port q).discarding = false) := by
      rcases h with e | e | e <;> simp_all
    refine ⟨(s.port q).attention ||| s.configuredDrops q, takeReport_break asks, fun h => absurd h ignored, fun _ d => ?_⟩
    rw [BitVec.getLsbD_or, getLsbD_configuredDrops]

/-! ### Reports of idle (R69) -/

theorem lineIdle_silent {s : State} {q : Fin 8}
    (h : (s.port q).line = .disabled ∨ (s.port q).rx.mode = .inCharacter ∨ (s.port q).rx.idleFlag = true) :
    s.lineIdle q = s := by
  refine if_neg ?_
  simp only [Port.mayReportIdle]
  rcases h with e | e | e <;> simp [e]

section Reports

variable {s : State} {q : Fin 8} (hm : (s.port q).rx.mode ≠ .inCharacter) (hi : (s.port q).rx.idleFlag = false)
include hm hi

theorem lineIdle_reports (hl : (s.port q).line ≠ .disabled) : s.lineIdle q = match (s.port q).line with
    | .receiving => (s.modPort q Port.reportIdle).finishExchange q .badReply
    | .recovering => (s.modPort q Port.reportIdle).modPort q Port.endWait
    | _ => s.modPort q Port.reportIdle := by
  have may : (s.port q).mayReportIdle = true := by simp [Port.mayReportIdle, hl, hm, hi]
  unfold State.lineIdle
  rw [if_pos may]
  simp only [port_modPort_self]
  rfl

theorem lineIdle_receiving (hl : (s.port q).line = .receiving) :
    s.lineIdle q = (s.modPort q Port.reportIdle).finishExchange q .badReply := by
  rw [lineIdle_reports hm hi (by rw [hl]; decide), hl]

theorem lineIdle_recovering (hl : (s.port q).line = .recovering) :
    s.lineIdle q = s.modPort q fun x => x.reportIdle.endWait := by
  rw [lineIdle_reports hm hi (by rw [hl]; decide), hl, modPort_modPort]

theorem lineIdle_other
    (hl : (s.port q).line = .idle ∨ (s.port q).line = .transmitting ∨ (s.port q).line = .awaiting ∨
      (s.port q).line = .faulted) : s.lineIdle q = s.modPort q Port.reportIdle := by
  rcases hl with e | e | e | e <;> rw [lineIdle_reports hm hi (by rw [e]; decide), e]

end Reports

theorem startConfirmed_eq {s : State} {q : Fin 8} {c : StartSamples} (hl : (s.port q).line ≠ .disabled)
    (hm : (s.port q).rx.mode = .searching) (hc : startIsConfirmed c = true) :
    s.startConfirmed q c = s.setPort q { s.port q with
      rx := { mode := .inCharacter, idleFlag := false, ones := 0, startNoisy := startDisagrees c }
      line := if (s.port q).line = .awaiting then .receiving else (s.port q).line
      windowExpiry := if (s.port q).line = .awaiting then none else (s.port q).windowExpiry } :=
  if_pos (by simp [hl, hm, hc])

/-- The state after a character on a line that takes no reply is the one R67 and R68 give, and then the line arbiters run. -/
theorem receiveAndServe_noReply {s : State} {q : Fin 8} {c : CharSamples} {y : Port} (hl : TakesNoReply (s.port q).line)
    (hm : (s.port q).rx.mode = .inCharacter) (hy : (s.port q).endCharacter c = y) :
    s.receiveAndServe q c = ((s.setPort q y).takeReport q (charReport c)).serviceLines := by
  rw [receiveAndServe_inCharacter hl.running hm, hy]

/-- Settles O44: by the receiver's report, and by the line's state at it. -/
theorem receiverReports : Obligations.ReceiverReports := by
  rintro s q _ rfl
  refine ⟨fun c hl hm h1 h2 => ?_, fun c y hm hl hy => ⟨fun h9 => ?_, fun h9 h0 => ?_, fun h0 => ?_⟩, fun h => ?_,
    fun y hm hi hy => ⟨fun hl => ?_, fun hl => ?_⟩⟩
  · exact congrArg Host.Outcome.next (startConfirmed_eq hl hm (startIsConfirmed_iff.2 ⟨h1, h2⟩))
  · have report := charReport_stop h9
    have served := receiveAndServe_noReply (c := c) hl hm (y := { y with rx := { y.rx with mode := .searching } })
      (by rw [endCharacter_eq, report, hy]; rfl)
    rw [report, takeReport_character (by rw [port_setPort_self, hy]; exact hl)] at served
    exact ⟨_, congrArg Host.Outcome.next ((if_pos (by rw [report]; rfl)).trans served), linesOnly_serviceLines _⟩
  · have report : charReport c = .framing := (charReport_noStop h9).trans (if_neg h0)
    have served := receiveAndServe_noReply (c := c) hl hm (y := { y with framing := min 65535 (y.framing + 1) })
      (by rw [endCharacter_eq, report, hy]; rfl)
    rw [report, takeReport_framing (by rw [port_setPort_self, hy]; exact hl)] at served
    exact ⟨_, congrArg Host.Outcome.next ((if_pos report).trans served), hy ▸ linesOnly_serviceLines _⟩
  · have report : charReport c = .brk := (charReport_noStop (by rw [h0]; rfl)).trans (if_pos h0)
    have served := receiveAndServe_noReply (c := c) hl hm (y := y) (by rw [endCharacter_eq, report, hy]; rfl)
    obtain ⟨a, taken, ignored, asks⟩ := takeReport_brk (s := s.setPort q y) (q := q) (by rw [port_setPort_self, hy]; exact hl)
    rw [report, taken, port_setPort_self, State.setPort_setPort] at served
    rw [port_setPort_self] at ignored asks
    subst hy
    exact ⟨a, _, congrArg Host.Outcome.next ((if_pos report).trans served), linesOnly_serviceLines _, ignored, asks⟩
  · exact ⟨_, congrArg (fun t : State => Host.Outcome.next t.serviceLines) (lineIdle_silent h), linesOnly_serviceLines s⟩
  · have reported : s.lineIdle q = s.setPort q y := (lineIdle_other hm hi hl).trans (modPort_eq hy.symm)
    exact ⟨_, congrArg (fun t : State => Host.Outcome.next t.serviceLines) reported, linesOnly_serviceLines _⟩
  · have reported : s.lineIdle q = s.setPort q { y with
        line := if (s.port q).exchange.isSome then .transmitting else .idle
        recoverExpiry := none } := by
      rw [lineIdle_recovering hm hi hl, hy]
      exact modPort_eq (endWait_idle hl rfl)
    exact ⟨_, congrArg (fun t : State => Host.Outcome.next t.serviceLines) reported, linesOnly_serviceLines _⟩

end Sys2Proof.Machine

/-! ## PORT_RESTART, and the write of a PORT record (R70, R71, R73, R81, R93) -/

namespace Sys2Proof.Machine

/-! ### The start of a line reset (R80) -/

/-- The port with the LINE-RESET as its exchange in flight. -/
def Port.withReset (x : Port) : Port := { x with
  exchange := some lineResetExchange
  reply := []
  restartPending := false
  windowExpiry := none
  restExpiry := none }

theorem startLineReset_eq (x : Port) (now : Time) :
    x.startLineReset now = if x.line = .recovering then x.withReset.endWait else x.withReset.enterRecovering now := rfl

section StartLineReset

variable {x : Port} {now : Time}

/-- R80: with the line idle flag set the LINE-RESET is transmitted at once. -/
theorem startLineReset_idle (hi : x.rx.idleFlag = true) :
    x.startLineReset now = { x.withReset with line := .transmitting, recoverExpiry := none } := by
  rw [startLineReset_eq]
  split
  · next hl => exact endWait_idle (x := x.withReset) hl hi
  · exact enterRecovering_idle (x := x.withReset) hi

theorem startLineReset_busy (hi : x.rx.idleFlag = false) (hl : x.line ≠ .recovering) :
    x.startLineReset now = { x.withReset with line := .recovering, recoverExpiry := some (now + 50#32) } := by
  rw [startLineReset_eq, if_neg hl]
  exact enterRecovering_busy (x := x.withReset) hi

theorem startLineReset_waiting (hi : x.rx.idleFlag = false) (hl : x.line = .recovering) :
    x.startLineReset now = x.withReset := by
  rw [startLineReset_eq, if_pos hl]
  exact endWait_busy (x := x.withReset) hi

end StartLineReset

/-! ### PORT_RESTART (R81) -/

section RestartPort

variable {s : State} {q : Fin 8}

/-- A PORT-RESTART changes the port alone. -/
theorem restartPort_eq : s.restartPort q = s.setPort q ((s.restartPort q).port q) := by
  have changed (x : Port) : s.setPort q x = s.setPort q ((s.setPort q x).port q) := by rw [port_setPort_self]
  have kept : s = s.setPort q (s.port q) := (setPort_self s q).symm
  unfold State.restartPort
  dsimp only
  split
  · exact changed _
  · exact changed _
  · exact changed _
  · split
    · exact kept
    · exact changed _
  · exact kept

theorem restartPort_rest (h : (s.port q).line = .faulted ∨ (s.port q).line = .idle) :
    (s.restartPort q).port q = (s.port q).startLineReset s.now := by
  unfold State.restartPort
  rcases h with e | e <;> simp only [e, port_setPort_self]

theorem restartPort_recovering (hl : (s.port q).line = .recovering) (he : (s.port q).exchange = none) :
    (s.restartPort q).port q = (s.port q).startLineReset s.now := by
  unfold State.restartPort
  simp only [hl, he, port_setPort_self]

theorem restartPort_exchange {e : Exchange} (he : (s.port q).exchange = some e) (hf : (s.port q).line ≠ .faulted)
    (hi : (s.port q).line ≠ .idle) : (s.restartPort q).port q =
      if e.kind = .lineReset then s.port q else { s.port q with restartPending := true } := by
  have waits : s.restartPort q =
      if e.kind = .lineReset then s else s.setPort q { s.port q with restartPending := true } := by
    unfold State.restartPort
    dsimp only
    split
    · next h => exact absurd h hf
    · next h => exact absurd h hi
    · next h => cases he.symm.trans h
    · next h _ _ => cases he.symm.trans h; rfl
    · next h _ _ _ => cases he.symm.trans h
  rw [waits]
  split
  · rfl
  · exact port_setPort_self _ _ _

end RestartPort

section Restart

variable {s : State} {token n : Byte} {q : Fin 8}

theorem commandPortRestart_badIndex (h : 8 ≤ n.toNat) :
    s.commandPortRestart token n = s.hand (.commandReply token 9#8 .badIndex []) :=
  dif_neg (Nat.not_lt.2 h)

theorem commandPortRestart_eq (hq : q.val = n.toNat) : s.commandPortRestart token n =
    if (s.port q).config.enabled then (s.restartPort q).hand (.commandReply token 9#8 .ok [])
    else s.hand (.commandReply token 9#8 .badState []) := by
  have h : n.toNat < 8 := hq ▸ q.isLt
  obtain rfl : q = ⟨n.toNat, h⟩ := Fin.ext hq
  exact dif_pos h

end Restart

/-- Settles O41: the port that a PORT-RESTART leaves, by the line's state. -/
theorem portRestartByLineState : Obligations.PortRestartByLineState := by
  intro s u token n hs hu
  have run (w : State) (hw : u.commandPortRestart token n = w) : ∃ t, exec (.portRestart token n) s = .next t ∧ LinesOnly w t :=
    ⟨_, congrArg Host.Outcome.next ((onFrame_running hs _).trans (by rw [← hu, hw])), linesOnly_serviceLines w⟩
  refine ⟨fun h => run _ (commandPortRestart_badIndex h), ?_⟩
  rintro q _ y hq rfl rfl
  have answer := commandPortRestart_eq (s := u) (token := token) hq
  refine ⟨fun he => run _ (answer.trans (if_neg (by rw [he]; decide))), fun he => ?_⟩
  obtain ⟨t, ran, lines⟩ := run _ (answer.trans (if_pos he))
  rw [restartPort_eq] at lines
  refine ⟨(u.restartPort q).port q, t, ran, lines, fun hl => ?_, fun hl hn => ?_,
    fun e hx hf hi => restartPort_exchange hx hf hi⟩
  · have hr : (u.port q).line ≠ .recovering := by rcases hl with e | e <;> rw [e] <;> decide
    rw [restartPort_rest hl]
    split
    · next hi => exact startLineReset_idle hi
    · next hi => exact startLineReset_busy (Bool.eq_false_iff.2 hi) hr
  · rw [restartPort_recovering hl hn]
    split
    · next hi => exact startLineReset_idle hi
    · next hi => exact startLineReset_waiting (Bool.eq_false_iff.2 hi) hl

end Sys2Proof.Machine

/-! ## The entries of a key, and a printer that cannot feed (R134, R136, R152 to R157) -/

namespace Sys2Proof.Machine

/-! ### Whether the entries of a key are active -/

/-- The entries that the alert queue holds for a key are all active, or all not. -/
def State.entriesActive (s : State) (k : AlertKey) (b : Bool) : Prop := ∀ e ∈ s.arl.queue, e.key = k → e.active = b

theorem entriesActive_of_entriesOf {s t : State} {k : AlertKey} {b : Bool} (h : t.entriesOf k = s.entriesOf k)
    (hs : s.entriesActive k b) : t.entriesActive k b := by
  intro e he hk
  have mem : e ∈ s.entriesOf k := h ▸ List.mem_filter.2 ⟨he, beq_iff_eq.2 hk⟩
  exact hs e (List.mem_filter.1 mem).1 hk

theorem entriesActive_of_arl {s t : State} {k : AlertKey} {b : Bool} (h : t.arl = s.arl) (hs : s.entriesActive k b) :
    t.entriesActive k b := by
  intro e he
  rw [h] at he
  exact hs e he

theorem entriesActive_of_none {s : State} {k : AlertKey} {b : Bool} (h : s.alertFor k = none) : s.entriesActive k b :=
  fun e he hk => absurd hk (alertFor_none_iff.1 h e he)

/-- The one entry of a key, replaced, is the only one of that key still. -/
theorem active_replaceFirst {k : AlertKey} {b : Bool} {g : AlertEntry → AlertEntry} : ∀ {l : List AlertEntry},
    (l.map AlertEntry.key).Nodup → (∀ e ∈ l, e.key = k → (g e).active = b) →
      ∀ e ∈ replaceFirst (hasKey k) g l, e.key = k → e.active = b
  | [], _, _ => nofun
  | y :: l, hl, hg => by
    rw [List.map_cons, List.nodup_cons] at hl
    unfold replaceFirst
    split
    · next hy =>
      intro e he hk
      rcases List.mem_cons.1 he with rfl | he
      · exact hg y (List.mem_cons_self ..) (key_of_hasKey hy)
      · exact absurd (List.mem_map.2 ⟨e, he, hk.trans (key_of_hasKey hy).symm⟩) hl.1
    · next hy =>
      intro e he hk
      rcases List.mem_cons.1 he with rfl | he
      · exact absurd (beq_iff_eq.2 hk) hy
      · exact active_replaceFirst hl.2 (fun e he => hg e (List.mem_cons_of_mem _ he)) e he hk

section Clears

variable {s : State} {k : AlertKey}

theorem mem_of_alertFor {e : AlertEntry} (h : s.alertFor k = some e) : e ∈ s.arl.queue ∧ e.key = k :=
  ⟨List.mem_of_find?_eq_some h, key_of_hasKey (by simpa using List.find?_some h)⟩

/-- R154: after a clear no entry of the key is active. -/
theorem entriesActive_clear (h : AlertsOk s.arl) : (s.clear k).entriesActive k false := by
  cases hk : s.alertFor k with
  | none => rw [clear_none hk]; exact entriesActive_of_none hk
  | some e =>
    obtain ⟨hm, he⟩ := mem_of_alertFor hk
    cases ha : e.active with
    | false =>
      rw [clear_inactive hk ha]
      exact fun y hy hyk => key_inj h.keys hy hm (hyk.trans he.symm) ▸ ha
    | true =>
      intro y hy hyk
      rw [queue_clear hk ha] at hy
      split at hy
      · exact absurd hyk (not_hasKey_eraseP h.keys y hy)
      · refine active_replaceFirst h.keys ?_ y hy hyk
        exact fun _ _ _ => rfl

/-- R154: a clear, of whatever key, leaves the entries that are not active so. -/
theorem entriesActive_clear_kept {k' : AlertKey} (h : AlertsOk s.arl) (hs : s.entriesActive k false) :
    (s.clear k').entriesActive k false := by
  by_cases e : k' = k
  · exact e ▸ entriesActive_clear h
  · exact entriesActive_of_entriesOf (entriesOf_clear e) hs

/-- R152, R153: a raise of a condition leaves every entry of its key active. -/
theorem entriesActive_raise (h : AlertsOk s.arl) : (s.raise k).entriesActive k true := by
  have created (t : State) (ht : t.alertFor k = none) (now : Time) :
      (t.createAlert (newAlert k true now)).entriesActive k true := by
    intro e he hk
    unfold State.createAlert at he
    rw [announce_queue] at he
    rcases List.mem_append.1 he with he | he
    · exact absurd hk (alertFor_none_iff.1 ht e he)
    · rw [List.mem_singleton.1 he]
      rfl
  unfold State.raise State.raiseAt
  cases hk : s.alertFor k with
  | none =>
    unfold State.addAlert
    dsimp only
    split
    · exact created s hk _
    split
    · refine created _ (alertFor_none_iff.2 fun e he => ?_) _
      exact alertFor_none hk e ((evict_sublist _).subset he)
    · exact entriesActive_of_none hk
  | some e =>
    dsimp only
    split
    · intro y hy
      rw [announce_queue] at hy
      exact active_replaceFirst h.keys (fun _ _ _ => Bool.or_true _) y hy
    · exact active_replaceFirst h.keys fun _ _ _ => Bool.or_true _

end Clears

/-! ### A printer that cannot feed (R134, R136) -/

/-- The only change is that one printer's can feed is taken clear: the stalled flags of jobs, and the stall timers. -/
structure StopOnly (s t : State) : Prop where
  rest : t = { s with
    spm := { s.spm with jobs := t.spm.jobs }
    dsc := { s.dsc with printers := t.dsc.printers } }
  jobs : ∀ j, t.job j = s.job j ∨ ∃ x, s.job j = some x ∧ t.job j = some (withStalled x true)
  disps : ∀ p, t.disp p = { s.disp p with feeds := (t.disp p).feeds, stall := (t.disp p).stall }

theorem StopOnly.refl (s : State) : StopOnly s s := ⟨rfl, fun _ => .inl rfl, fun _ => rfl⟩

theorem stopOnly_setDisp (s : State) (p : Fin 32) (b : Bool) (o : Option Time) :
    StopOnly s (s.setDisp p { s.disp p with feeds := b, stall := o }) where
  rest := rfl
  jobs _ := .inl rfl
  disps r := by
    rw [State.disp_setDisp]
    split
    · next e => subst e; rfl
    · rfl

/-- R134, R136: can feed taken clear, or left clear. -/
theorem stopOnly_refreshFeed {s : State} {p : Fin 32} (h : s.canFeed p = false) : StopOnly s (s.refreshFeed p) := by
  cases hf : (s.disp p).feeds with
  | false => rw [refreshFeed_unchanged (h.trans hf.symm)]; exact .refl s
  | true =>
    have idle (hi : (s.feedsNow p false).takeCannotFeed p = s.feedsNow p false) : StopOnly s (s.refreshFeed p) := by
      rw [refreshFeed_stops h hf, hi]
      exact stopOnly_setDisp s p false (s.disp p).stall
    cases ha : (s.disp p).assigned with
    | none => exact idle (takeCannotFeed_idle (by rw [disp_feedsNow]; exact ha))
    | some j =>
      have ha' : ((s.feedsNow p false).disp p).assigned = some j := by rw [disp_feedsNow]; exact ha
      cases hx : s.job j with
      | none =>
        have hx' : (s.feedsNow p false).job j = none := hx
        exact idle (by simp [State.takeCannotFeed, ha', hx'])
      | some x =>
        have hx' : (s.feedsNow p false).job j = some x := hx
        by_cases hp : x.phase = .printing
        · rw [refreshFeed_stops_printing h hf ha hx hp]
          have stopped := stopOnly_setDisp s p false (startedStall (s.disp p).stall s.now (s.pool x.pool).reroute)
          refine ⟨rfl, fun i => ?_, stopped.disps⟩
          rw [State.job_setJob]
          split
          · next e => exact .inr ⟨x, e ▸ hx, rfl⟩
          · exact .inl rfl
        by_cases hc : x.phase = .cancelling
        · rw [refreshFeed_stops_cancelling h hf ha hx hc]
          exact stopOnly_setDisp ..
        · refine idle ?_
          unfold State.takeCannotFeed
          simp only [ha', hx']

section StopOnly

variable {s t : State} (h : StopOnly s t)
include h

theorem StopOnly.printer (p : Fin 32) : t.printer p = s.printer p := by rw [h.rest]; rfl

theorem StopOnly.port (q : Fin 8) : t.port q = s.port q := by rw [h.rest]; rfl

theorem StopOnly.sense (p : Fin 32) : t.sense p = s.sense p := by rw [h.rest]; rfl

theorem StopOnly.arl : t.arl = s.arl := by rw [h.rest]

theorem StopOnly.now : t.now = s.now := by rw [h.rest]

theorem StopOnly.window (p : Fin 32) : (t.disp p).window = (s.disp p).window := by rw [h.disps]

theorem StopOnly.assigned (p : Fin 32) : (t.disp p).assigned = (s.disp p).assigned := by rw [h.disps]

theorem StopOnly.pool (k : Fin 16) : t.pool k = s.pool k := by rw [h.rest]; rfl

theorem StopOnly.account (a : Fin 512) : t.account a = s.account a := by rw [h.rest]; rfl

end StopOnly

/-- R134: the printers that the link, the condition or the configuration of the printer keeps from feeding. -/
theorem canFeed_of_link {s : State} {p : Fin 32} (h : (s.printer p).link ≠ .answering) : s.canFeed p = false :=
  Bool.eq_false_iff.2 fun hc => h (canFeed_iff.1 hc).2.2.1

end Sys2Proof.Machine

/-! ## The write of a PORT record (R70, R71, R73, R93) -/

namespace Sys2Proof.Machine

/-! ### A port taken down (R73, R93) -/

/-- The classes of a printer's alerts that a port taken down clears. -/
def downClasses : List AlertClass := [.jam, .doorOpen, .trayEmpty, .tonerOut, .printerLost]

/-- R93: a printer's record after its port was taken down. -/
def Printer.portDown (r : Printer) : Printer := { r with link := .unknown, missed := 0, condition := none, room := 0 }

section PortDown

variable {s : State} {p : Fin 32}

theorem alertOnly_clearPrinterAlerts (s : State) (p : Fin 32) : AlertOnly s (s.clearPrinterAlerts p) :=
  State.each_kept (P := AlertOnly s) (fun t _ ht => ht.trans (alertOnly_clear t _)) _ (AlertOnly.refl s)

theorem alertsOk_clearPrinterAlerts (h : AlertsOk s.arl) : AlertsOk (s.clearPrinterAlerts p).arl :=
  State.each_kept (P := fun t => AlertsOk t.arl) (fun _ _ ht => alertsOk_clear _ ht) _ h

theorem entriesActive_clearPrinterAlerts_kept {k : AlertKey} (h : AlertsOk s.arl) (hk : s.entriesActive k false) :
    (s.clearPrinterAlerts p).entriesActive k false :=
  (State.each_kept (P := fun t => AlertsOk t.arl ∧ t.entriesActive k false)
    (fun _ _ ht => ⟨alertsOk_clear _ ht.1, entriesActive_clear_kept ht.1 ht.2⟩) _ ⟨h, hk⟩).2

/-- R93: none of the five alerts of the printer is left active. -/
theorem entriesActive_clearPrinterAlerts (h : AlertsOk s.arl) {c : AlertClass} (hc : c ∈ downClasses) :
    (s.clearPrinterAlerts p).entriesActive (printerKey p c) false :=
  (each_at (P := fun t => AlertsOk t.arl) (Q := fun t => AlertsOk t.arl ∧ t.entriesActive (printerKey p c) false)
    (fun _ _ _ ht => alertsOk_clear _ ht) (fun _ ht => ⟨alertsOk_clear _ ht, entriesActive_clear ht⟩)
    (fun _ _ _ ht => ⟨alertsOk_clear _ ht.1, entriesActive_clear_kept ht.1 ht.2⟩) hc (by decide) h).2

theorem canFeed_of_disabled (h : (s.port (portOf p)).line = .disabled) : s.canFeed p = false :=
  Bool.eq_false_iff.2 fun hc => (canFeed_iff.1 hc).2.2.2.1 h

/-- R93: what a port taken down makes of one of its printers: the record, the alerts, and no more feeding. -/
theorem stopOnly_printerPortDown (h : (s.port (portOf p)).line = .disabled) :
    StopOnly ((s.setPrinter p (s.printer p).portDown).clearPrinterAlerts p) (s.printerPortDown p) := by
  refine stopOnly_refreshFeed (canFeed_of_disabled ?_)
  rw [alertOnly_clearPrinterAlerts]
  exact h

theorem port_printerPortDown (h : (s.port (portOf p)).line = .disabled) (q : Fin 8) :
    (s.printerPortDown p).port q = s.port q := by
  rw [(stopOnly_printerPortDown h).port, alertOnly_clearPrinterAlerts]
  rfl

theorem printer_printerPortDown (h : (s.port (portOf p)).line = .disabled) (r : Fin 32) :
    (s.printerPortDown p).printer r = if r = p then (s.printer p).portDown else s.printer r := by
  rw [(stopOnly_printerPortDown h).printer, alertOnly_clearPrinterAlerts]
  exact State.printer_setPrinter s p _ r

theorem alertsOk_printerPortDown (h : (s.port (portOf p)).line = .disabled) (ha : AlertsOk s.arl) :
    AlertsOk (s.printerPortDown p).arl := by
  rw [(stopOnly_printerPortDown h).arl]
  exact alertsOk_clearPrinterAlerts (s := s.setPrinter p (s.printer p).portDown) ha

theorem entriesActive_printerPortDown_kept {k : AlertKey} (h : (s.port (portOf p)).line = .disabled)
    (ha : AlertsOk s.arl) (hk : s.entriesActive k false) : (s.printerPortDown p).entriesActive k false :=
  entriesActive_of_arl (stopOnly_printerPortDown h).arl
    (entriesActive_clearPrinterAlerts_kept (s := s.setPrinter p (s.printer p).portDown) ha hk)

theorem entriesActive_printerPortDown {c : AlertClass} (h : (s.port (portOf p)).line = .disabled) (ha : AlertsOk s.arl)
    (hc : c ∈ downClasses) : (s.printerPortDown p).entriesActive (printerKey p c) false :=
  entriesActive_of_arl (stopOnly_printerPortDown h).arl
    (entriesActive_clearPrinterAlerts (s := s.setPrinter p (s.printer p).portDown) ha hc)

end PortDown

theorem portOf_printerAt (q : Fin 8) (d : Fin 4) : portOf (printerAt q d) = q := by
  apply Fin.ext
  simp only [portOf, printerAt]
  omega

theorem dropOf_printerAt (q : Fin 8) (d : Fin 4) : dropOf (printerAt q d) = d := by
  apply Fin.ext
  simp only [dropOf, printerAt]
  omega

theorem printerAt_inj {q : Fin 8} {d e : Fin 4} : printerAt q d = printerAt q e ↔ d = e :=
  ⟨fun h => by rw [← dropOf_printerAt q d, h, dropOf_printerAt], fun h => h ▸ rfl⟩

/-- What the pass over a port's configured printers makes of one of them: `f` makes `Q` of `P` at it, and keeps both at the
others. -/
theorem eachConfigured_at {P Q : State → Prop} {f : State → Fin 32 → State} {q : Fin 8} {d : Fin 4} {s : State}
    (hc : ∀ t, P t → (t.printer (printerAt q d)).config.configured = true)
    (hP : ∀ t e, e ≠ d → P t → P (f t (printerAt q e))) (hd : ∀ t, P t → Q (f t (printerAt q d)))
    (hQ : ∀ t e, e ≠ d → Q t → Q (f t (printerAt q e))) (h : P s) : Q (s.eachConfigured q f) := by
  unfold State.eachConfigured
  refine each_at (j := d) (fun t e he ht => ?_) (fun t ht => ?_) (fun t e he ht => ?_) (List.mem_finRange d)
    (List.nodup_finRange 4) h
  · exact kept_ite (hP t e he ht) ht
  · rw [if_pos (hc t ht)]
    exact hd t ht
  · exact kept_ite (hQ t e he ht) ht

/-- What every pass over a port's printers keeps. -/
theorem eachConfigured_kept {P : State → Prop} {f : State → Fin 32 → State} {q : Fin 8} {s : State}
    (hf : ∀ t e, P t → P (f t (printerAt q e))) (h : P s) : P (s.eachConfigured q f) :=
  State.each_kept (fun t e ht => kept_ite (hf t e ht) ht) _ h

/-- The port is down and the alert queue keeps its form: what the pass over the port's printers goes on from. -/
structure IsDown (q : Fin 8) (t : State) : Prop where
  line : (t.port q).line = .disabled
  alerts : AlertsOk t.arl

section PortDownPass

variable {s t : State} {q : Fin 8}

theorem IsDown.lineAt (h : IsDown q t) (e : Fin 4) : (t.port (portOf (printerAt q e))).line = .disabled := by
  rw [portOf_printerAt]
  exact h.line

theorem IsDown.printerPortDown (h : IsDown q t) (e : Fin 4) : IsDown q (t.printerPortDown (printerAt q e)) :=
  ⟨by rw [port_printerPortDown (h.lineAt e)]; exact h.line, alertsOk_printerPortDown (h.lineAt e) h.alerts⟩

/-- The state from which the pass over the port's printers starts. -/
theorem isDown_start (ha : AlertsOk s.arl) : IsDown q ((s.modPort q Port.down).clear (portFaultKey q)) where
  line := by
    have down : ((s.modPort q Port.down).port q).line = .disabled := by rw [port_modPort_self]; rfl
    rw [alertOnly_clear]
    exact down
  alerts := alertsOk_clear _ ha

theorem printer_portDown (ha : AlertsOk s.arl) {d : Fin 4} (hc : (s.printer (printerAt q d)).config.configured = true) :
    (s.portDown q).printer (printerAt q d) = (s.printer (printerAt q d)).portDown := by
  have other {t : State} (h : IsDown q t) {e : Fin 4} (he : e ≠ d) :
      (t.printerPortDown (printerAt q e)).printer (printerAt q d) = t.printer (printerAt q d) := by
    rw [printer_printerPortDown (h.lineAt e), if_neg fun eq => he (printerAt_inj.1 eq).symm]
  refine (eachConfigured_at (d := d)
    (P := fun t => IsDown q t ∧ t.printer (printerAt q d) = s.printer (printerAt q d))
    (Q := fun t => IsDown q t ∧ t.printer (printerAt q d) = (s.printer (printerAt q d)).portDown)
    (fun t ht => ht.2 ▸ hc) (fun t e he ht => ⟨ht.1.printerPortDown e, (other ht.1 he).trans ht.2⟩) (fun t ht => ?_)
    (fun t e he ht => ⟨ht.1.printerPortDown e, (other ht.1 he).trans ht.2⟩) ⟨isDown_start ha, ?_⟩).2
  · refine ⟨ht.1.printerPortDown d, ?_⟩
    rw [printer_printerPortDown (ht.1.lineAt d), if_pos rfl, ht.2]
  · rw [alertOnly_clear]
    rfl

theorem entriesActive_portDown_port (ha : AlertsOk s.arl) : (s.portDown q).entriesActive (portFaultKey q) false :=
  (eachConfigured_kept (P := fun t => IsDown q t ∧ t.entriesActive (portFaultKey q) false)
    (fun _ e ht => ⟨ht.1.printerPortDown e, entriesActive_printerPortDown_kept (ht.1.lineAt e) ht.1.alerts ht.2⟩)
    ⟨isDown_start ha, entriesActive_clear (s := s.modPort q Port.down) ha⟩).2

theorem entriesActive_portDown_printer (ha : AlertsOk s.arl) {d : Fin 4}
    (hd : (s.printer (printerAt q d)).config.configured = true) {c : AlertClass} (hc : c ∈ downClasses) :
    (s.portDown q).entriesActive (printerKey (printerAt q d) c) false := by
  have config {t : State} (h : IsDown q t) (e : Fin 4) :
      ((t.printerPortDown (printerAt q e)).printer (printerAt q d)).config = (t.printer (printerAt q d)).config := by
    rw [printer_printerPortDown (h.lineAt e)]
    split
    · next eq => rw [eq]; rfl
    · rfl
  refine (eachConfigured_at (d := d)
    (P := fun t => IsDown q t ∧ (t.printer (printerAt q d)).config.configured = true)
    (Q := fun t => IsDown q t ∧ t.entriesActive (printerKey (printerAt q d) c) false)
    (fun t ht => ht.2) (fun t e _ ht => ⟨ht.1.printerPortDown e, by rw [config ht.1]; exact ht.2⟩)
    (fun t ht => ⟨ht.1.printerPortDown d, entriesActive_printerPortDown (ht.1.lineAt d) ht.1.alerts hc⟩)
    (fun t e _ ht => ⟨ht.1.printerPortDown e,
      entriesActive_printerPortDown_kept (ht.1.lineAt e) ht.1.alerts ht.2⟩) ⟨isDown_start ha, ?_⟩).2
  rw [alertOnly_clear]
  exact hd

theorem printingOnly_portDown (s : State) (q : Fin 8) : PrintingOnly (s.modPort q Port.down) (s.portDown q) :=
  let K := keepsDispatch_printingOnly (s.modPort q Port.down)
  KeepsDispatch.eachConfigured q (fun _ p => K.printerPortDown p) (K.clear (PrintingOnly.refl _))

end PortDownPass

/-! ### A record that comes into use (R71) -/

section ApplyConfig

variable {s : State} {q : Fin 8}

theorem applyConfig_eq (s : State) (q : Fin 8) : s.applyConfig q =
    if (s.port q).config.enabled then
      if (s.port q).line = .disabled then
        s.setPort q (Port.startLineReset { (s.port q).takeRates with rx := Receiver.initial } s.now)
      else s.setPort q (s.port q).takeRates
    else if (s.port q).line = .disabled then s.setPort q (s.port q).takeRates
    else (s.setPort q (s.port q).takeRates).portDown q := by
  unfold State.applyConfig
  simp only [port_modPort_self]
  unfold State.modPort
  rw [State.setPort_setPort]
  rfl

/-- R71: the rates come into use and no more, where the line runs on, or stays DISABLED. -/
theorem applyConfig_same (h : ((s.port q).config.enabled = true ∧ (s.port q).line ≠ .disabled) ∨
    ((s.port q).config.enabled = false ∧ (s.port q).line = .disabled)) :
    s.applyConfig q = s.setPort q (s.port q).takeRates := by
  rw [applyConfig_eq]
  rcases h with ⟨he, hl⟩ | ⟨he, hl⟩
  · rw [if_pos he, if_neg hl]
  · rw [if_neg (by rw [he]; decide), if_pos hl]

theorem applyConfig_starts (he : (s.port q).config.enabled = true) (hl : (s.port q).line = .disabled) :
    s.applyConfig q =
      s.setPort q (Port.startLineReset { (s.port q).takeRates with rx := Receiver.initial } s.now) := by
  rw [applyConfig_eq, if_pos he, if_pos hl]

theorem applyConfig_down (he : (s.port q).config.enabled = false) (hl : (s.port q).line ≠ .disabled) :
    s.applyConfig q = (s.setPort q (s.port q).takeRates).portDown q := by
  rw [applyConfig_eq, if_neg (by rw [he]; decide), if_neg hl]

end ApplyConfig

/-! ### The write (R70, R71) -/

section WritePort

variable {s : State} {q : Fin 8} {e : PortEntry}

theorem portAssigned_iff : s.portAssigned q = true ↔ ∃ d, (s.disp (printerAt q d)).assigned ≠ none := by
  simp [State.portAssigned, Option.isSome_iff_ne_none]

theorem changesLine_iff {old new : PortConfig} : changesLine old new = true ↔
    new.enabled = false ∨ new.rate ≠ old.rate ∨ new.window ≠ old.window := by
  simp [changesLine, or_assoc]

/-- R71: the port with the entry as its stored record. -/
def State.storesPort (s : State) (q : Fin 8) (e : PortEntry) : State := s.setPort q { s.port q with config := storedPort e }

theorem port_storesPort : (s.storesPort q e).port q = { s.port q with config := storedPort e } := port_setPort_self _ _ _

theorem writePort_eq (s : State) (q : Fin 8) (e : PortEntry) : s.writePort q.val e =
    if (s.port q).config.enabled && s.portAssigned q && changesLine (s.port q).config (storedPort e) then none
    else some (if (s.port q).appliesNow then (s.storesPort q e).applyConfig q else s.storesPort q e) :=
  dif_pos q.isLt

theorem appliesNow_rest {x : Port} (h : x.line = .idle ∨ x.line = .faulted ∨ (x.line = .recovering ∧ x.exchange = none)) :
    x.appliesNow = true ∧ x.line ≠ .disabled := by
  unfold Port.appliesNow
  rcases h with h | h | ⟨h, hx⟩
  · rw [h]; exact ⟨rfl, nofun⟩
  · rw [h]; exact ⟨rfl, nofun⟩
  · rw [h, hx]; exact ⟨rfl, nofun⟩

theorem appliesNow_disabled {x : Port} (h : x.line = .disabled) : x.appliesNow = true := by
  unfold Port.appliesNow
  rw [h]

theorem appliesNow_exchange {x : Port} (h : x.line = .transmitting ∨ x.line = .awaiting ∨ x.line = .receiving ∨
    (x.line = .recovering ∧ x.exchange ≠ none)) : x.appliesNow = false := by
  unfold Port.appliesNow
  rcases h with h | h | h | ⟨h, hx⟩
  · rw [h]
  · rw [h]
  · rw [h]
  · rw [h]
    exact Option.isNone_eq_false_iff.2 (Option.isSome_iff_ne_none.2 hx)

end WritePort

theorem exec_portWrite {s : State} (h : s.jli.restart = none) (token : Byte) (first : Half) (l : List PortEntry) :
    exec (.portWrite token first l) s =
      .next (s.silenceRule.writeEntries State.writePort 8 32 token first l).serviceLines :=
  congrArg Host.Outcome.next (onFrame_running h _)

/-- Settles O31: the interlock, and the record stored, at once in use or not. -/
theorem portWrites : Obligations.PortWrites := by
  rintro s u token q e c x hs rfl rfl hc
  obtain rfl : storedPort e = c := hc.symm
  generalize hu : s.silenceRule = u
  have h16 : q.val < 65536 := by omega
  have run := exec_portWrite hs token (indexOf q.val) [e]
  rw [hu] at run
  refine ⟨fun he ha hch => ?_, fun h => ?_⟩
  · have refused : u.writePort q.val e = none := by
      rw [writePort_eq, he, portAssigned_iff.2 ha, changesLine_iff.2 hch]
      rfl
    rw [writeEntries_one_refused q.isLt h16 (by omega) token refused] at run
    exact ⟨_, run, linesOnly_serviceLines _⟩
  · have open_ : ((u.port q).config.enabled && u.portAssigned q && changesLine (u.port q).config (storedPort e)) = false := by
      rw [Bool.and_assoc, Bool.and_eq_false_iff, Bool.and_eq_false_iff]
      rcases h with h | h | h
      · exact .inl h
      · exact .inr (.inl (Bool.eq_false_iff.2 fun ha => (portAssigned_iff.1 ha).elim fun d hd => hd (h d)))
      · refine .inr (.inr (Bool.eq_false_iff.2 fun hch => ?_))
        rcases changesLine_iff.1 hch with hn | hn | hn
        · exact Bool.false_ne_true (hn.symm.trans h.1)
        · exact hn h.2.1
        · exact hn h.2.2
    have taken := writePort_eq u q e
    rw [open_, if_neg Bool.false_ne_true] at taken
    rw [writeEntries_one_taken q.isLt h16 (by omega) token taken] at run
    have stored := port_storesPort (s := u) (q := q) (e := e)
    refine ⟨_, _, run, linesOnly_serviceLines _, fun hl => ?_, fun hl => ?_, fun he hl => ?_, fun he ha hl => ?_⟩
    · rw [appliesNow_exchange hl]
      rfl
    · have now : (u.port q).appliesNow = true := by
        rcases hl with ⟨-, hl⟩ | ⟨-, hl⟩
        · exact (appliesNow_rest hl).1
        · exact appliesNow_disabled hl
      have same := applyConfig_same (s := u.storesPort q e) (q := q) (by
        rw [stored]
        exact hl.imp (fun ⟨he, hl⟩ => ⟨he, (appliesNow_rest hl).2⟩) id)
      rw [now, if_pos rfl, same, stored]
      exact State.setPort_setPort ..
    · have starts := applyConfig_starts (s := u.storesPort q e) (q := q) (by rw [stored]; exact he) (by rw [stored]; exact hl)
      rw [appliesNow_disabled hl, if_pos rfl, starts, stored, startLineReset_busy rfl (by rw [Port.takeRates, hl]; decide)]
      exact State.setPort_setPort ..
    · have downs := applyConfig_down (s := u.storesPort q e) (q := q) (by rw [stored]; exact he)
        (by rw [stored]; exact (appliesNow_rest hl).2)
      rw [(appliesNow_rest hl).1, if_pos rfl, downs, stored]
      have inUse : (u.storesPort q e).setPort q (Port.takeRates { u.port q with config := storedPort e }) =
          u.setPort q (Port.takeRates { u.port q with config := storedPort e }) := State.setPort_setPort ..
      rw [inUse]
      refine ⟨?_, fun d hd => printer_portDown (s := u.setPort q _) ha hd, fun a hm hk => ?_⟩
      · have only := printingOnly_portDown (u.setPort q (Port.takeRates { u.port q with config := storedPort e })) q
        rw [modPort_setPort] at only
        exact only
      · rcases hk with hk | ⟨d, cls, hd, hk, hc⟩
        · exact entriesActive_portDown_port (s := u.setPort q _) ha a hm hk
        · exact entriesActive_portDown_printer (s := u.setPort q _) ha hd hc a hm hk

end Sys2Proof.Machine

/-! ## The line arbiter's classes (R83, R91, R94, R179) -/

namespace Sys2Proof.Machine

/-! ### The first of a list (R83) -/

theorem find?_finRange {n : Nat} {f : Fin n → Bool} {d : Fin n} (hd : f d = true) (hb : ∀ e < d, f e = false) :
    (List.finRange n).find? f = some d := by
  refine List.find?_eq_some_iff_getElem.2 ⟨hd, d.val, by simp, by simp, fun j hj => ?_⟩
  rw [List.getElem_finRange, hb _ hj]
  rfl

theorem find?_dropsAfter {f : Fin 4 → Bool} {last d : Fin 4} {n : Nat} (hn : n < 4)
    (he : d.val = (last.val + 1 + n) % 4) (hd : f d = true)
    (hb : ∀ (m : Nat) (e : Fin 4), m < n → e.val = (last.val + 1 + m) % 4 → f e = false) :
    (dropsAfter last).find? f = some d := by
  refine List.find?_eq_some_iff_getElem.2 ⟨hd, n, by simpa [dropsAfter] using hn, ?_, fun m hm => ?_⟩
  · refine Fin.ext ?_
    rw [he]
    simp [dropsAfter]
  · have short : m < (dropsAfter last).length := by simpa [dropsAfter] using hm.trans hn
    have first := hb m (dropsAfter last)[m] hm (by simp [dropsAfter])
    rw [first]
    rfl

section Candidates

variable {s : State} {q : Fin 8} {d : Fin 4}

theorem controlWaits_iff {x : Port} : x.controlWaits d = true ↔ ∃ b ∈ x.control, b.drop = d := by
  simp [Port.controlWaits]

/-! ### The candidates of the classes (R83) -/

theorem attentionCandidate_some (hd : (s.port q).attention.getLsbD d.val = true) (hw : (s.port q).controlWaits d = false)
    (hb : ∀ e < d, (s.port q).attention.getLsbD e.val = true → (s.port q).controlWaits e = true) :
    s.attentionCandidate q = some d := by
  refine find?_finRange (by rw [hd, hw]; rfl) fun e he => ?_
  cases ha : (s.port q).attention.getLsbD e.val with
  | false => rfl
  | true => rw [hb e he ha]; rfl

theorem attentionCandidate_none
    (h : ∀ d : Fin 4, (s.port q).attention.getLsbD d.val = true → (s.port q).controlWaits d = true) :
    s.attentionCandidate q = none := by
  refine List.find?_eq_none.2 fun d _ => ?_
  simpa using h d

theorem controlCandidate_some {i : Nat} {b : ControlBlock} (hi : (s.port q).control[i]? = some b)
    (hb : b.waitDue = false ∨ reached s.now (s.printer (printerAt q b.drop)).pollDue = true)
    (hf : ∀ (j : Nat) (c : ControlBlock), j < i → (s.port q).control[j]? = some c → c.waitDue = true ∧
      reached s.now (s.printer (printerAt q c.drop)).pollDue = false) : s.controlCandidate q = some b := by
  obtain ⟨hlt, rfl⟩ := List.getElem?_eq_some_iff.1 hi
  refine List.find?_eq_some_iff_getElem.2 ⟨?_, i, hlt, rfl, fun j hj => ?_⟩
  · rcases hb with e | e <;> simp [e]
  · obtain ⟨hw, hr⟩ := hf j _ hj (List.getElem?_eq_getElem (by omega))
    simp [hw, hr]

theorem controlCandidate_none (h : ∀ b ∈ (s.port q).control, b.waitDue = true ∧
    reached s.now (s.printer (printerAt q b.drop)).pollDue = false) : s.controlCandidate q = none := by
  refine List.find?_eq_none.2 fun b hb => ?_
  simp [h b hb]

/-- R83, R91: the drop's poll is offered and no control block waits for it. -/
def State.pollReady (s : State) (q : Fin 8) (d : Fin 4) : Bool :=
  s.pollOffered (printerAt q d) && !(s.port q).controlWaits d

theorem pollReady_iff :
    s.pollReady q d = true ↔ s.pollOffered (printerAt q d) = true ∧ (s.port q).controlWaits d = false := by
  simp [State.pollReady]

theorem pollCandidate_eq (s : State) (q : Fin 8) : s.pollCandidate q = (List.finRange 4).find? fun d =>
    s.pollReady q d && ((List.finRange 4).filter (s.pollReady q)).all fun e => decide (s.overdue q e ≤ s.overdue q d) := by
  refine List.find?_filter.trans (congrArg (fun f => (List.finRange 4).find? f) (funext fun d => ?_))
  rw [Bool.decide_and, Bool.decide_eq_true, Bool.decide_eq_true]
  rfl

theorem pollCandidate_some (hd : s.pollReady q d = true)
    (hb : ∀ e, s.pollReady q e = true → s.overdue q e ≤ s.overdue q d ∧ (e < d → s.overdue q e < s.overdue q d)) :
    s.pollCandidate q = some d := by
  rw [pollCandidate_eq]
  refine find?_finRange ?_ fun e he => ?_
  · simp only [hd, Bool.true_and, List.all_eq_true, List.mem_filter, decide_eq_true_eq]
    exact fun e h => (hb e h.2).1
  · cases hr : s.pollReady q e with
    | false => rfl
    | true =>
      rw [Bool.true_and, List.all_eq_false]
      refine ⟨d, List.mem_filter.2 ⟨List.mem_finRange d, hd⟩, ?_⟩
      simpa using (hb e hr).2 he

theorem pollCandidate_none (h : ∀ d, s.pollReady q d = false) : s.pollCandidate q = none := by
  rw [pollCandidate_eq]
  refine List.find?_eq_none.2 fun d _ => ?_
  simp [h d]

/-- R83: where some drop's poll is offered, the one due longest is found. -/
theorem pollCandidate_isSome (hd : s.pollReady q d = true) : (s.pollCandidate q).isSome = true := by
  have nonempty : (Finset.univ.filter fun e => s.pollReady q e = true).Nonempty := ⟨d, by simp [hd]⟩
  obtain ⟨m, hm, longest⟩ := Finset.exists_max_image _ (s.overdue q) nonempty
  rw [Finset.mem_filter] at hm
  rw [pollCandidate_eq, List.find?_isSome]
  refine ⟨m, List.mem_finRange m, ?_⟩
  simp only [hm.2, Bool.true_and, List.all_eq_true, List.mem_filter, decide_eq_true_eq]
  exact fun e he => longest e (by simp [he.2])

theorem dataCandidate_some {n : Nat} {k : BlockKind × Byte × List Byte} (hn : n < 4)
    (he : d.val = ((s.port q).lastDrop.val + 1 + n) % 4) (ho : s.dataOffered (printerAt q d) = true)
    (hk : s.dataBlock (printerAt q d) = some k) (hw : (s.port q).controlWaits d = false)
    (hb : ∀ (m : Nat) (e : Fin 4), m < n → e.val = ((s.port q).lastDrop.val + 1 + m) % 4 →
      s.dataOffered (printerAt q e) = true → s.dataBlock (printerAt q e) = none ∨ (s.port q).controlWaits e = true) :
    s.dataCandidate q = some d := by
  refine find?_dropsAfter hn he (by rw [ho, hk, hw]; rfl) fun m e hm hv => ?_
  cases h : s.dataOffered (printerAt q e) with
  | false => rfl
  | true => rcases hb m e hm hv h with hn | hn <;> simp [hn]

theorem dataCandidate_none (h : ∀ d : Fin 4, s.dataOffered (printerAt q d) = true →
    s.dataBlock (printerAt q d) = none ∨ (s.port q).controlWaits d = true) : s.dataCandidate q = none := by
  refine List.find?_eq_none.2 fun d _ => ?_
  cases ho : s.dataOffered (printerAt q d) with
  | false => simp
  | true => rcases h d ho with hn | hn <;> simp [hn]

end Candidates

/-! ### Grants (R83, R94) -/

section Grants

variable {s : State} {q : Fin 8} {d : Fin 4} {p : Fin 32}

theorem serviceLine_busy (h : (s.port q).line ≠ .idle) : s.serviceLine q = s := if_neg h

theorem serviceLine_granted {g : Grant} (hl : (s.port q).line = .idle) (h : s.lineCandidate q = some g) :
    s.serviceLine q = s.grant q g := by
  unfold State.serviceLine
  rw [if_pos hl, h]

theorem serviceLine_none (h : s.lineCandidate q = none) : s.serviceLine q = s := by
  unfold State.serviceLine
  rw [h]
  exact ite_self s

/-- R94: a DATA block has its own kind code, and it alone spends room. -/
theorem spendRoom_eq {kind : BlockKind} {code : Byte} {payload : List Byte} (h : s.dataBlock p = some (kind, code, payload)) :
    s.spendRoom p kind =
      { s with pra := if code = 0x03#8 then put s.pra p { s.printer p with room := (s.printer p).room - 1 } else s.pra } := by
  unfold State.dataBlock at h
  repeat' split at h
  all_goals cases h
  all_goals rfl

theorem grantData_eq {kind : BlockKind} {code : Byte} {payload : List Byte}
    (h : s.dataBlock (printerAt q d) = some (kind, code, payload)) : s.grantData q d = { s with
      pra := if code = 0x03#8 then put s.pra (printerAt q d)
        { s.printer (printerAt q d) with room := (s.printer (printerAt q d)).room - 1 } else s.pra
      dlc := put s.dlc q { s.port q with
        lastDrop := d
        line := .transmitting
        reply := []
        exchange := some
          { kind := kind
            drop := d
            chars := blockCharacters (BitVec.ofNat 8 d.val) code payload
            echoed := 0
            contentions := 0 } } } := by
  unfold State.grantData State.beginExchange
  rw [h]
  dsimp only
  rw [modPort_modPort, spendRoom_eq h]
  rfl

theorem grantControl_eq (s : State) (q : Fin 8) (d : Fin 4) : s.grantControl q d = { s with
    choices := if (s.printer (printerAt q d)).dropFrom.isNone then s.choices + 1 else s.choices
    dlc := put s.dlc q { s.port q with
      control := (s.port q).control.filter fun (y : ControlBlock) => y.drop != d
      line := .transmitting
      reply := []
      exchange := some
        { kind := .dropSheets
          drop := d
          chars := blockCharacters (BitVec.ofNat 8 d.val) 0x04#8 [s.dropFromByte (printerAt q d)]
          echoed := 0
          contentions := 0 } } } := by
  unfold State.grantControl State.beginExchange
  dsimp only
  rw [modPort_modPort]
  split <;> rfl

theorem dropFromByte_some {g : Byte} (h : (s.printer p).dropFrom = some g) : s.dropFromByte p = g := by
  unfold State.dropFromByte
  rw [h]

/-- R83: an IDLE line with a candidate transmits. -/
theorem serviceLine_transmits (hl : (s.port q).line = .idle) (h : (s.lineCandidate q).isSome = true) :
    ((s.serviceLine q).port q).line = .transmitting := by
  obtain ⟨g, hg⟩ := Option.isSome_iff_exists.1 h
  rw [serviceLine_granted hl hg]
  have begun (t : State) (d : Fin 4) (k : BlockKind) (c : Byte) (l : List Byte) :
      ((t.beginExchange q d k c l).port q).line = .transmitting := by
    unfold State.beginExchange
    rw [port_modPort_self]
  cases g with
  | attention d => exact begun _ _ _ _ _
  | control d => exact begun _ _ _ _ _
  | poll d => exact begun _ _ _ _ _
  | data d =>
    have found : s.dataCandidate q = some d := by
      unfold State.lineCandidate at hg
      split at hg
      · cases hg
      split at hg
      · cases hg
      split at hg
      · cases hg
      · simpa using hg
    have block : (s.dataBlock (printerAt q d)).isSome = true := by
      have := List.find?_some found
      simp only [Bool.and_eq_true] at this
      exact this.1.2
    obtain ⟨⟨kind, code, payload⟩, hk⟩ := Option.isSome_iff_exists.1 block
    show ((s.grantData q d).port q).line = .transmitting
    unfold State.grantData
    rw [hk]
    exact begun _ _ _ _ _

/-! ### POLL_DUE (R91) -/

theorem printerAt_portOf (p : Fin 32) : printerAt (portOf p) (dropOf p) = p := by
  apply Fin.ext
  simp only [printerAt, portOf, dropOf]
  omega

theorem pollOffered_iff : s.pollOffered p = true ↔ (s.printer p).config.configured = true ∧
    (s.port (portOf p)).config.enabled = true ∧ reached s.now (s.printer p).pollDue = true := by
  simp [State.pollOffered, and_assoc]

/-- R83, R91: an offered poll is a candidate, or the control block that waits for its drop is one. -/
theorem lineCandidate_of_pollOffered (h : s.pollOffered p = true) : (s.lineCandidate (portOf p)).isSome = true := by
  unfold State.lineCandidate
  split
  · rfl
  split
  · rfl
  next hc =>
  have ready : s.pollReady (portOf p) (dropOf p) = true := by
    refine pollReady_iff.2 ⟨by rw [printerAt_portOf]; exact h, Bool.eq_false_iff.2 fun hw => ?_⟩
    obtain ⟨b, hb, hd⟩ := controlWaits_iff.1 hw
    have due : reached s.now (s.printer (printerAt (portOf p) b.drop)).pollDue = true := by
      rw [hd, printerAt_portOf]
      exact (pollOffered_iff.1 h).2.2
    exact List.find?_eq_none.1 hc b hb (by rw [due, Bool.or_true])
  obtain ⟨d, hd⟩ := Option.isSome_iff_exists.1 (pollCandidate_isSome ready)
  rw [hd]
  rfl

theorem LinesOnly.pollOffered {t : State} (h : LinesOnly s t) (p : Fin 32) : t.pollOffered p = s.pollOffered p := by
  have now : t.now = s.now := by rw [h.rest]
  unfold State.pollOffered
  rw [now, h.printers p, h.ports]

/-- R91: an offered poll leaves its IDLE line TRANSMITTING. -/
theorem serviceLines_transmits (h : s.pollOffered p = true) (hl : (s.port (portOf p)).line = .idle) :
    (s.serviceLines.port (portOf p)).line = .transmitting := by
  refine each_at (P := LinesOnly s) (Q := fun t => (t.port (portOf p)).line = .transmitting) (j := portOf p)
    (fun t r _ ht => ht.trans (linesOnly_serviceLine t r)) (fun t ht => ?_) (fun t r _ ht => ?_) (List.mem_finRange _)
    (List.nodup_finRange 8) (LinesOnly.refl s)
  · by_cases idle : (t.port (portOf p)).line = .idle
    · exact serviceLine_transmits idle (lineCandidate_of_pollOffered (by rw [ht.pollOffered]; exact h))
    · rw [serviceLine_busy idle]
      rcases ht.lines _ hl with e | e
      · exact absurd (e ▸ hl) idle
      · exact e
  · rw [(linesOnly_serviceLine t r).busy _ (by rw [ht]; decide)]
    exact ht

/-! ### Data exchanges (R86, R94, R179) -/

theorem mem_window_of_oldestSending {w : List WindowEntry} :
    (oldestSending w).isSome = true ↔ ∃ e ∈ w, e.sent = false := by
  simp [oldestSending]

theorem oldestSending_append {before after : List WindowEntry} {e : WindowEntry} (hb : ∀ b ∈ before, b.sent = true)
    (he : e.sent = false) : oldestSending (before ++ e :: after) = some e := by
  unfold oldestSending
  rw [List.find?_append, List.find?_eq_none.2 (by simpa using hb), List.find?_cons_of_pos (by rw [he]; rfl)]
  rfl

theorem roomForStage_iff {stage : Option SendStage} {room : Nat} : roomForStage stage room = true ↔
    stage = some .start ∨ ∃ n, stage = some (.data n) ∧ 1 ≤ room := by
  unfold roomForStage
  rcases stage with _ | _ | n <;> simp

theorem dataOffered_iff : s.dataOffered p = true ↔ (s.printer p).config.configured = true ∧
    (∃ e ∈ (s.disp p).window, e.sent = false) ∧ (s.printer p).link = .answering ∧ s.canFeed p = true ∧
    (s.printer p).needsDrop = false ∧
    ((s.printer p).stage = some .start ∨ ∃ n, (s.printer p).stage = some (.data n) ∧ 1 ≤ (s.printer p).room) := by
  rw [← mem_window_of_oldestSending, ← roomForStage_iff]
  simp [State.dataOffered, and_assoc]

theorem length_startPayload (e : WindowEntry) (tag : Half) (d : SheetDesc) : (startPayload e tag d).length = 14 := by
  simp [startPayload]

/-- R86: a byte of an image, read from its block. -/
theorem getElem?_readImage {m : List Host.Cell} {blocks : List (Fin 32768)} {pos n i : Nat} {b : Fin 32768} (hi : i < n)
    (hb : blocks[(pos + i) / 4096]? = some b) :
    (readImage m blocks pos n)[i]? = some (Memory.read m (4096 * b.val + (pos + i) % 4096)) := by
  have address : imageAddress blocks (pos + i) = some (4096 * b.val + (pos + i) % 4096) := by
    unfold imageAddress
    rw [show Config.blockBytes = 4096 from rfl, hb, Nat.mul_comm 4096]
  unfold readImage
  rw [List.getElem?_map, List.getElem?_range hi, Option.map_some]
  unfold readImageByte
  rw [address]

section Block

variable {e : WindowEntry} {y : Job} {d : SheetDesc} (he : oldestSending (s.disp p).window = some e)
  (hy : s.job e.job = some y) (hd : s.sheetDesc y e.sheet = some d)
include he hy hd

theorem dataBlock_start (hs : (s.printer p).stage = some .start) : s.dataBlock p =
    some (.start e.feed (d.byteLen == 0), 0x02#8, startPayload e y.tag d) := by
  unfold State.dataBlock
  simp only [he, hs, hy, hd]

theorem dataBlock_data {n : Nat} (hs : (s.printer p).stage = some (.data n)) : s.dataBlock p =
    some (.data e.feed n (isLastSegment d.byteLen n), 0x03#8, dataPayload e n (isLastSegment d.byteLen n)
      (readImage s.spm.dram d.blocks (240 * n) (segmentLength d.byteLen n))) := by
  unfold State.dataBlock
  simp only [he, hs, hy, hd]
  rfl

end Block

end Grants

/-- R94, R179: the block of the oldest SENDING entry, by its stage. -/
theorem dataBlock_stages {s : State} {p : Fin 32} {before after : List WindowEntry} {e : WindowEntry} {y : Job} {d : SheetDesc}
    (hw : (s.disp p).window = before ++ e :: after) (hb : ∀ b ∈ before, b.sent = true) (he : e.sent = false)
    (hy : s.job e.job = some y) (hd : s.sheetDesc y e.sheet = some d) :
    ((s.printer p).stage = some .start → ∃ payload, payload.length = 14 ∧
      payload = [e.feed] ++ beBytes 2 y.tag.toNat ++ [BitVec.ofNat 8 e.copy] ++ beBytes 2 e.sheet ++
        [BitVec.ofNat 8 d.sides, BitVec.ofNat 8 d.sizeClass.val, BitVec.ofNat 8 d.media.val,
          (if d.ink1 = .colour then 1#8 else 0#8) ||| (if d.ink2 = some .colour then 2#8 else 0#8)] ++
        beBytes 4 d.byteLen ∧
      s.dataBlock p = some (.start e.feed (d.byteLen == 0), 0x02#8, payload)) ∧
    ∀ n last, (s.printer p).stage = some (.data n) → (last = true ↔ d.byteLen ≤ 240 * (n + 1)) →
      ∃ image : List Byte, image.length = min 240 (d.byteLen - 240 * n) ∧
        (∀ (i : Nat) (block : Fin 32768), i < image.length → d.blocks[(240 * n + i) / 4096]? = some block →
          image[i]? = some (Memory.read s.spm.dram (4096 * block.val + (240 * n + i) % 4096))) ∧
        s.dataBlock p = some (.data e.feed n last, 0x03#8,
          [e.feed] ++ beBytes 2 (n % 65536) ++ [if last then 1#8 else 0#8] ++ image) := by
  have oldest : oldestSending (s.disp p).window = some e := hw ▸ oldestSending_append hb he
  refine ⟨fun hs => ⟨startPayload e y.tag d, length_startPayload e y.tag d, ?_, dataBlock_start oldest hy hd hs⟩,
    fun n last hs hl => ?_⟩
  · rw [startPayload, flagByte_two]
    simp [isColour]
  · have isLast : isLastSegment d.byteLen n = last := by
      rw [Bool.eq_iff_iff, hl]
      exact decide_eq_true_iff
    have len : (readImage s.spm.dram d.blocks (240 * n) (segmentLength d.byteLen n)).length =
        min 240 (d.byteLen - 240 * n) := by
      unfold readImage
      rw [List.length_map, List.length_range]
      rfl
    refine ⟨_, len, fun i block hi hblock => ?_, ?_⟩
    · rw [len] at hi
      exact getElem?_readImage hi hblock
    · rw [dataBlock_data oldest hy hd hs, isLast, dataPayload, flagByte_one]
      simp

/-- Settles O47: the candidates of the four classes and what each grant makes, and the polls and blocks that are offered. -/
theorem lineArbiterClasses : Obligations.LineArbiterClasses := by
  rintro s q _ rfl
  have noPoll (h : ∀ d, s.pollOffered (printerAt q d) = true → (s.port q).controlWaits d = true) :
      s.pollCandidate q = none := pollCandidate_none fun d => Bool.eq_false_iff.2 fun hr =>
    Bool.false_ne_true ((pollReady_iff.1 hr).2.symm.trans (h d (pollReady_iff.1 hr).1))
  refine ⟨serviceLine_busy, fun hl => ⟨fun d hd hw hb => ?_, fun ha => ⟨fun i b hi hb hf => ?_, fun hc =>
    ⟨fun d ho hw hb => ?_, fun hp => ⟨fun n d kind code payload hn he ho hk hw hb => ?_, fun h => ?_⟩⟩⟩⟩, fun p hq => ?_⟩
  · rw [serviceLine_granted hl (g := .attention d) (by rw [State.lineCandidate, attentionCandidate_some hd hw hb])]
    show State.beginExchange _ q d _ _ _ = _
    unfold State.beginExchange
    rw [modPort_modPort]
    rfl
  · rw [serviceLine_granted hl (g := .control b.drop)
      (by rw [State.lineCandidate, attentionCandidate_none ha, controlCandidate_some hi hb hf])]
    exact ⟨_, fun g hg => dropFromByte_some hg, grantControl_eq s q b.drop⟩
  · have found : s.pollCandidate q = some d := pollCandidate_some (pollReady_iff.2 ⟨ho, hw⟩) fun e he =>
      hb e (pollReady_iff.1 he).1 (pollReady_iff.1 he).2
    rw [serviceLine_granted hl (g := .poll d)
      (by rw [State.lineCandidate, attentionCandidate_none ha, controlCandidate_none hc, found])]
    rfl
  · rw [serviceLine_granted hl (g := .data d) (by
      rw [State.lineCandidate, attentionCandidate_none ha, controlCandidate_none hc, noPoll hp,
        dataCandidate_some hn he ho hk hw hb]
      rfl)]
    exact grantData_eq hk
  · exact serviceLine_none (by
      rw [State.lineCandidate, attentionCandidate_none ha, controlCandidate_none hc, noPoll hp, dataCandidate_none h]
      rfl)
  · subst hq
    refine ⟨fun h => ⟨_, congrArg Host.Outcome.next (if_pos h), linesOnly_serviceLines s, serviceLines_transmits h⟩,
      fun h => congrArg Host.Outcome.next (if_neg (by rw [h]; decide)), ?_, dataOffered_iff,
      fun before after e y d hw hb he hy hd => dataBlock_stages hw hb he hy hd, fun _ _ _ => rfl⟩
    rw [pollOffered_iff]
    simp [reached]

end Sys2Proof.Machine

/-! ## A fault that frees another printer for a CANCELLING job (R93, R148) -/

namespace Sys2Proof.Machine

open Sys2Proof.Tests

/-! ### The counterexample (R22, R48, R93, R148)

Port 3 faults with a CANCELLING job on each of its drops 0 and 1. The statement asks of the job on drop 1 that it and its
printer name each other alone; it asks nothing of the job on drop 0, and not that a CANCELLING job stands in no queue.
Here the job on drop 0 names printer 16 as its own, so its end offers printer 16 to pool 3; the CANCELLING job of drop 1
stands in that pool's queue, and the arbiter makes it PRINTING before the fault reaches its own printer. -/

/-- The job in slot 0: CANCELLING on printer 13, the drop 1 of port 3. -/
def queuedCancelling : Job :=
  { job880 with phase := .cancelling, ending := some (.cancelled, .operator), printer := some 13 }

/-- The job in slot 1: CANCELLING on printer 12, the drop 0 of port 3, with printer 16 in its record. -/
def strayCancelling : Job := { queuedCancelling with tag := 881#16, printer := some 16 }

def queuedWindow : Dispatch := { Dispatch.initial with assigned := some 0, window := [entryOf 0#8 1 0], feeds := true }

def strayWindow : Dispatch :=
  { Dispatch.initial with assigned := some 1, window := [{ entryOf 0#8 1 0 with job := 1 }], feeds := true }

def limitReached : Port := { port3 with line := .recovering, recoverExpiry := some 0#32 }

def faultingShop : State :=
  ((((((oneJob queuedCancelling).setJob 1 (some strayCancelling)).setDisp 12 strayWindow).setDisp 13 queuedWindow).setPrinter
    12 printer13).setPrinter 16 printer13).setQueue 3 [0] |>.setPort 3 limitReached

theorem faultingShop_assigned : ∀ p, (faultingShop.disp p).assigned = some 0 → p = 13 := by
  decide +kernel

theorem faultingShop_printer : ∀ k y, faultingShop.job k = some y → y.printer = some 13 → k = 0 := by
  have named : ∀ k, (faultingShop.job k).bind Job.printer = some 13 → k = 0 := by decide +kernel
  exact fun k y hy hp => named k (by rw [hy]; exact hp)

/-- The fault leaves the CANCELLING job of drop 1 live: it prints on printer 16. -/
theorem faultingShop_keepsJob :
    ((after1 (.recoveryLimitExpiry 3) faultingShop).job 0).map (fun x => (x.phase, x.printer)) = some (.printing, some 16) := by
  decide +kernel

theorem LinesOnly.job {v t : State} (h : LinesOnly v t) (j : Fin 128) : t.job j = v.job j := by
  rw [h.rest]
  rfl

/-- Refutes O46: in `faultingShop`, where RECOVERY_LIMIT_EXPIRY is due on port 3, the CANCELLING job of printer 13 does not end. -/
theorem not_contentionsAndFaults : ¬ Obligations.ContentionsAndFaults := by
  intro h
  obtain ⟨-, limit, -⟩ := h faultingShop 3 _ rfl
  obtain ⟨v, t, ran, lines, -, -, -, -, -, -, -, -, settled⟩ :=
    limit 0#32 (by decide +kernel) (by decide +kernel) (by decide +kernel) (by decide +kernel)
  have ended : v.job 0 = none :=
    (settled 1 0 queuedCancelling (entryOf 0#8 1 0) [] (by decide +kernel) (by decide +kernel) (by decide +kernel)
      (by decide +kernel) rfl nofun (by decide +kernel) rfl faultingShop_assigned faultingShop_printer).1
  have after : after1 (.recoveryLimitExpiry 3) faultingShop = t := by rw [after1, ran]
  have live := faultingShop_keepsJob
  rw [after, lines.job, ended] at live
  cases live

end Sys2Proof.Machine

/-! ## What dispatch leaves of a printer out of its reach, of the printer records and of the books (R47 to R60, R103, R124) -/

namespace Sys2Proof.Machine

/-! ### A printer that no arbiter can serve (R47) -/

/-- R47: a printer that is to drop sheets, or is OUT, is not available, whatever else holds of it. -/
def Printer.shut (r : Printer) : Prop := r.needsDrop = true ∨ r.inService = false

/-- The two records of printer p are the given ones. -/
structure Stands (p : Fin 32) (d : Dispatch) (r : Printer) (t : State) : Prop where
  disp : t.disp p = d
  printer : t.printer p = r

section Shut

variable {s t : State} {i : Fin 128} {x : Job} {p q : Fin 32} {d : Dispatch} {r : Printer}

theorem available_shut (h : (s.printer p).shut) : s.available p = false := by
  refine Bool.eq_false_iff.2 fun ha => ?_
  obtain ⟨-, -, hin, -, -, -, -, hnd, -⟩ := available_iff.1 ha
  rcases h with h | h
  · exact Bool.false_ne_true (hnd.symm.trans h)
  · exact Bool.false_ne_true (h.symm.trans hin)

theorem Stands.of_eq (h : Stands p d r s) (hd : t.disp p = s.disp p) (hp : t.printer p = s.printer p) : Stands p d r t :=
  ⟨hd.trans h.disp, hp.trans h.printer⟩

theorem Stands.release (h : Stands p d r s) (hx : s.job i = some x) (hq : p ≠ q) (pos : Nat × Nat) (e : Nat) :
    Stands p d r (s.release i q x.account pos e) := by
  rw [release_eq hx]
  exact h.of_eq ((State.disp_setDisp ..).trans (if_neg hq)) ((State.printer_setPrinter ..).trans (if_neg hq))

theorem Stands.gateFailed (h : Stands p d r s) (hx : s.job i = some x) (hq : p ≠ q) :
    Stands p d r (s.gateFailed i q x.account) := by
  by_cases hw : (s.disp q).window = []
  · rw [gateFailed_empty hx hw]
    exact h.of_eq (((State.disp_setDisp ..).trans (if_neg hq)).trans (disp_gateShut ..))
      (((State.printer_setPrinter ..).trans (if_neg hq)).trans (printer_gateShut ..))
  · rw [gateFailed_draining hx hw]
    exact h.of_eq (disp_gateShut ..) (printer_gateShut ..)

/-- R57: the releases of a job reach the records of its own printer. -/
theorem Stands.releaseLoop : ∀ (n : Nat) {t : State}, Stands p d r t → (∀ x, t.job i = some x → x.printer ≠ some p) →
    Stands p d r (State.releaseLoop n i t)
  | 0, _, h, _ => h
  | n + 1, t, h, he => by
    unfold State.releaseLoop
    split
    · exact h
    next x hx =>
    split
    · exact h
    next q hq =>
    have hne : p ≠ q := fun e => he x hx (e ▸ hq)
    split
    · split
      · exact h
      next pos e _ =>
      split
      · refine Stands.releaseLoop n (h.release hx hne pos e) fun y hy => ?_
        cases (job_release hx q x.account pos e).symm.trans hy
        exact he x hx
      · exact h.gateFailed hx hne
    · exact h

/-- R49: an assignment of another printer. -/
theorem Stands.assign (h : Stands p d r s) (hq : p ≠ q) (k : Fin 16) (i : Fin 128) : Stands p d r (s.assign k q i) := by
  rw [assign_eq]
  have given : Stands p d r (s.assigned k q i) :=
    h.of_eq (((State.disp_setDisp ..).trans (if_neg hq)).trans (State.disp_modJob ..)) (State.printer_modJob ..)
  refine Stands.releaseLoop _ given fun y hy => ?_
  unfold State.assigned at hy
  rw [State.job_setDisp, State.job_modJob, if_pos rfl] at hy
  obtain ⟨x, -, rfl⟩ := Option.map_eq_some_iff.1 hy
  exact fun e => hq (Option.some.inj e).symm

variable (hr : r.shut)
include hr

theorem Stands.arbiterLoop (k : Fin 16) : ∀ (n : Nat) {t : State}, Stands p d r t → Stands p d r (State.arbiterLoop n k t)
  | 0, _, h => h
  | n + 1, t, h => by
    unfold State.arbiterLoop
    split
    · exact h
    next q i hpick =>
    have available := (pick_eq_some_iff.1 hpick).1.available
    have hne : p ≠ q := by
      rintro rfl
      exact Bool.false_ne_true ((available_shut (h.printer ▸ hr)).symm.trans available)
    exact Stands.arbiterLoop k n ((h.of_eq rfl rfl : Stands p d r (t.setPool k _)).assign hne k i)

theorem Stands.runArbiter (h : Stands p d r s) (k : Fin 16) : Stands p d r (s.runArbiter k) :=
  kept_ite (h.arbiterLoop hr k _) h

theorem Stands.offerPrinter (h : Stands p d r s) (q : Fin 32) : Stands p d r (s.offerPrinter q) := by
  unfold State.offerPrinter
  split
  · split
    · exact h.runArbiter hr _
    · exact h
  · exact h

theorem Stands.requeue (h : Stands p d r s) (i : Fin 128) : Stands p d r (s.requeue i) := by
  unfold State.requeue
  split
  · next x hx =>
    refine Stands.runArbiter hr ?_ _
    rw [enqueue_some hx]
    exact h.of_eq rfl rfl
  · exact h

end Shut

section Unassignment

variable {s : State} {j : Fin 128} {x : Job} {p : Fin 32}

/-- R54: the end of a drain on a printer that cannot be given another job. -/
theorem stands_endDrain (hx : s.job j = some x) (hr : (afterUnassign (s.printer p) (s.disp p)).shut) :
    Stands p (unassigned (s.disp p)) (afterUnassign (s.printer p) (s.disp p)) (s.endDrain j p) := by
  have hy : (s.modJob j holdDrained).job j = some (holdDrained x) := by
    rw [State.job_modJob, if_pos rfl, hx]
    rfl
  have off : Stands p (unassigned (s.disp p)) (afterUnassign (s.printer p) (s.disp p))
      ((s.modJob j holdDrained).detach j p) := by
    rw [detach_eq hy, State.disp_modJob, State.printer_modJob]
    exact ⟨(State.disp_setDisp ..).trans (if_pos rfl), (State.printer_setPrinter ..).trans (if_pos rfl)⟩
  have offered := off.offerPrinter hr p
  unfold State.endDrain
  dsimp only
  split
  · exact kept_ite (offered.requeue hr j) (offered.of_eq rfl rfl)
  · exact offered

/-- R22: the end of a job leaves the window of a printer that is to drop sheets as it is, whichever printer the job is on. -/
theorem window_endJob (hx : s.job j = some x) (hn : (s.printer p).needsDrop = true) (o : JobOutcome) (c : Cause) :
    ((s.endJob j o c).disp p).window = (s.disp p).window := by
  have released : ((s.released x o c).leaveQueue x.pool j).disp p = s.disp p := released_disp s x o c p
  have hn' : (((s.released x o c).leaveQueue x.pool j).printer p).needsDrop = true :=
    (congrArg Printer.needsDrop (released_printer s x o c p)).trans hn
  have off : (((s.released x o c).unqueued j x).disp p).window = (s.disp p).window := by
    unfold State.unqueued State.unassignEnded
    split
    · next q _ =>
      have shut : (State.printer (State.detach ((s.released x o c).leaveQueue x.pool j) j q) p).shut :=
        .inl (by rw [printer_detach]; exact hn')
      rw [((Stands.mk rfl rfl).offerPrinter shut q).disp, disp_detach]
      split
      · next e => rw [← released, e]
      · rw [released]
    · rw [released]
  rw [endJob_steps hx, slotFreed_only]
  exact off

end Unassignment

/-! ### The printer records (R90, R94, R103) -/

/-- What dispatch may change of a printer's record (R55, R58, R94): its service field, next feed number and send stage. -/
def PrinterDispatched (old x : Printer) : Prop :=
  x = { old with inService := x.inService, nextFeed := x.nextFeed, stage := x.stage, naks := x.naks }

theorem PrinterDispatched.refl (r : Printer) : PrinterDispatched r r := rfl

theorem PrinterDispatched.trans {r x y : Printer} (h : PrinterDispatched r x) (k : PrinterDispatched x y) :
    PrinterDispatched r y := by
  unfold PrinterDispatched at *
  rw [k, h]

theorem keepsArbiter_printer (p : Fin 32) (r : Printer) : KeepsArbiter fun t => PrinterDispatched r (t.printer p) where
  raiseBudget {s a} h := by
    unfold State.raise
    rw [alertOnly_raiseAt]
    exact h
  job _ _ _ h := h
  disp h := h
  leave h := h
  pointer h := h
  printer {s q x} hx h := by
    rw [State.printer_setPrinter]
    split
    · next e => subst e; exact h.trans hx
    · exact h
  reserved h := h

section PrinterRecords

variable {s : State} {j : Fin 128} {p : Fin 32} {r : Printer} (h : PrinterDispatched r (s.printer p))
include h

theorem printerDispatched_requeue (j : Fin 128) : PrinterDispatched r ((s.requeue j).printer p) := by
  unfold State.requeue
  split
  · next x hx =>
    refine (keepsArbiter_printer p r).runArbiter _ ?_
    rw [enqueue_some hx]
    exact h
  · exact h

theorem printerDispatched_endDrain (j : Fin 128) (q : Fin 32) : PrinterDispatched r ((s.endDrain j q).printer p) := by
  have offered : PrinterDispatched r ((((s.modJob j holdDrained).detach j q).offerPrinter q).printer p) :=
    let K := keepsArbiter_printer p r
    K.offerPrinter q (K.detach j q (by rw [State.printer_modJob]; exact h))
  unfold State.endDrain
  dsimp only
  split
  · exact kept_ite (P := fun t => PrinterDispatched r (t.printer p)) (printerDispatched_requeue offered j) offered
  · exact offered

theorem printerDispatched_endJob (j : Fin 128) (o : JobOutcome) (c : Cause) :
    PrinterDispatched r ((s.endJob j o c).printer p) := by
  cases hx : s.job j with
  | none => rw [State.endJob, hx]; exact h
  | some x =>
    rw [endJob_steps hx, slotFreed_only]
    exact (keepsArbiter_printer p r).unqueued j x (by rw [released_printer]; exact h)

end PrinterRecords

end Sys2Proof.Machine

/-! ## What follows a change of a window (R60, R62, R63) -/

namespace Sys2Proof.Machine

section WindowChanges

variable {s : State} {j : Fin 128} {x : Job} {p : Fin 32}

/-- R60: what the gate's retry can do. -/
theorem retryGate_cases (s : State) (j : Fin 128) : s.retryGate j = s ∨ ∃ x, s.job j = some x ∧ x.drain = some .budget ∧
    s.retryGate j = (s.setJob j (some (undrained x))).budgetTest x.account := by
  cases hx : s.job j with
  | none => exact .inl (by rw [State.retryGate, hx])
  | some x =>
    by_cases hd : x.phase = .printing ∧ x.drain = some .budget
    · cases hn : s.nextEstimate x with
      | none => exact .inl (retryGate_failed hx fun _ _ h => nomatch hn.symm.trans h)
      | some n =>
        cases hg : gatePasses (s.account x.account) n.2 with
        | false => exact .inl (retryGate_failed hx fun _ _ h => by cases hn.symm.trans h; exact hg)
        | true => exact .inr ⟨x, rfl, hd.2, retryGate_passed hx hd.1 hd.2 hn hg⟩
    · refine .inl ?_
      unfold State.retryGate
      simp only [hx]
      exact if_neg hd

/-- R60: a job that does not drain for BUDGET has no gate to retry. -/
theorem retryGate_undrained (hx : s.job j = some x) (hd : x.drain ≠ some .budget) : s.retryGate j = s := by
  rcases retryGate_cases s j with h | ⟨y, hy, hb, -⟩
  · exact h
  · cases hx.symm.trans hy
    exact absurd hb hd

/-- R60: the gate's retry leaves a live job, and takes no more from it than its drain for BUDGET. -/
theorem job_retryGate (hx : s.job j = some x) : ∃ y, (s.retryGate j).job j = some y ∧ (y = x ∨ y = undrained x) := by
  rcases retryGate_cases s j with h | ⟨y, hy, -, h⟩
  · exact ⟨x, by rw [h]; exact hx, .inl rfl⟩
  · cases hx.symm.trans hy
    exact ⟨undrained x, by rw [h, job_budgetTest]; exact (jobSet_setJob s j _).self, .inr rfl⟩

theorem printer_retryGate (s : State) (j : Fin 128) (p : Fin 32) : (s.retryGate j).printer p = s.printer p := by
  rcases retryGate_cases s j with h | ⟨x, -, -, h⟩
  · rw [h]
  · rw [h, budgetTest_alertOnly]
    rfl

/-- R62, R63: a PRINTING job whose drain finds the window empty leaves its printer; for any other releases are tried. -/
theorem afterWindowChange_printing (hx : s.job j = some x) (hp : x.phase = .printing) (p : Fin 32) :
    ∃ y, (s.retryGate j).job j = some y ∧ (y = x ∨ y = undrained x) ∧
      s.afterWindowChange j p =
        if (s.disp p).window = [] ∧ y.drain ≠ none then (s.retryGate j).endDrain j p else (s.retryGate j).tryReleases j := by
  obtain ⟨y, hy, hyx⟩ := job_retryGate hx
  refine ⟨y, hy, hyx, ?_⟩
  unfold State.afterWindowChange
  simp only [hx, hp, hy, disp_retryGate, Bool.and_eq_true, List.isEmpty_iff, Option.isSome_iff_ne_none]

/-- R62, R63: a CANCELLING job ends with its window. -/
theorem afterWindowChange_cancelling (hx : s.job j = some x) (hp : x.phase = .cancelling) (p : Fin 32) :
    s.afterWindowChange j p = if (s.disp p).window = [] then s.endCancelled j else s := by
  unfold State.afterWindowChange
  simp only [hx, hp, List.isEmpty_iff]

/-- R23: a CANCELLING job ends with what its ending field holds. -/
theorem endCancelled_some {o : JobOutcome} {c : Cause} (hx : s.job j = some x) (he : x.ending = some (o, c)) :
    s.endCancelled j = s.endJob j o c := by
  unfold State.endCancelled
  simp only [hx, he]

/-- R62, R63: all that can follow a change of a window. -/
theorem afterWindowChange_cases (s : State) (j : Fin 128) (p : Fin 32) : s.afterWindowChange j p = s ∨
    s.afterWindowChange j p = (s.retryGate j).endDrain j p ∨ s.afterWindowChange j p = (s.retryGate j).tryReleases j ∨
    ∃ o c, s.afterWindowChange j p = s.endJob j o c := by
  cases hx : s.job j with
  | none => exact .inl (by rw [State.afterWindowChange, hx])
  | some x =>
    cases hp : x.phase with
    | printing =>
      obtain ⟨y, -, -, h⟩ := afterWindowChange_printing hx hp p
      rw [h]
      split
      · exact .inr (.inl rfl)
      · exact .inr (.inr (.inl rfl))
    | cancelling =>
      rw [afterWindowChange_cancelling hx hp]
      split
      · cases he : x.ending with
        | none => exact .inl (by unfold State.endCancelled; simp only [hx, he])
        | some ending => exact .inr (.inr (.inr ⟨_, _, endCancelled_some hx he⟩))
      · exact .inl rfl
    | spooling | queued | held => exact .inl (by unfold State.afterWindowChange; simp only [hx, hp])

theorem printerDispatched_afterWindowChange {r : Printer} (h : PrinterDispatched r (s.printer p)) (j : Fin 128)
    (q : Fin 32) : PrinterDispatched r ((s.afterWindowChange j q).printer p) := by
  have retried : PrinterDispatched r ((s.retryGate j).printer p) := by rw [printer_retryGate]; exact h
  rcases afterWindowChange_cases s j q with e | e | e | ⟨o, c, e⟩ <;> rw [e]
  · exact h
  · exact printerDispatched_endDrain retried j q
  · exact (keepsArbiter_printer p r).tryReleases j retried
  · exact printerDispatched_endJob h j o c

/-- A property of job records that the end of a drain keeps, besides what the tries keep (R45, R54). -/
structure KeptByDrains (Q : Job → Prop) : Prop extends KeptByTries Q where
  offPrinter : ∀ {x}, Q x → Q (detached (holdDrained x))
  queued : ∀ {x}, Q x → Q { x with phase := .queued }
  held : ∀ {x}, Q x → Q { x with phase := .held }

theorem KeptByDrains.endDrain {Q : Job → Prop} (K : KeptByDrains Q) (hx : s.job j = some x) (hq : Q x) (p : Fin 32) :
    LiveWith j Q (s.endDrain j p) := by
  have hy : (s.modJob j holdDrained).job j = some (holdDrained x) := by
    rw [State.job_modJob, if_pos rfl, hx]
    rfl
  have off : LiveWith j Q ((s.modJob j holdDrained).detach j p) := by
    rw [detach_eq hy]
    exact ⟨_, (jobSet_setJob _ j _).self, K.offPrinter hq⟩
  have offered := K.offerPrinter p off
  unfold State.endDrain
  dsimp only
  obtain ⟨y, hlive, hqy⟩ := offered
  simp only [hlive]
  refine kept_ite (K.requeue j (fun z hz _ => ?_) ⟨y, hlive, hqy⟩) ⟨_, (jobSet_setJob _ j _).self, K.held hqy⟩
  cases hlive.symm.trans hz
  exact K.queued hqy

/-- R62, R63: a PRINTING job lives on after a change of its window, whatever dispatch makes of it. -/
theorem KeptByDrains.afterWindowChange {Q : Job → Prop} (K : KeptByDrains Q) (hx : s.job j = some x)
    (hp : x.phase = .printing) (hq : Q x) (hu : Q (undrained x)) (p : Fin 32) :
    LiveWith j Q (s.afterWindowChange j p) := by
  obtain ⟨y, hy, hyx, h⟩ := afterWindowChange_printing hx hp p
  have hqy : Q y := by rcases hyx with rfl | rfl <;> assumption
  rw [h]
  exact kept_ite (K.endDrain hy hqy p) (K.tryReleases j ⟨y, hy, hqy⟩)

end WindowChanges

/-! ### The books and the ports (R101, R124, R132) -/

/-- The meters and the ports are as they were, and of each account but the reserved amount and the bound count. -/
structure BooksKept (s t : State) : Prop where
  meters : t.acm.meters = s.acm.meters
  ports : t.dlc = s.dlc
  accounts : ∀ a, t.account a = { s.account a with reserved := (t.account a).reserved, bound := (t.account a).bound }

theorem BooksKept.refl (s : State) : BooksKept s s := ⟨rfl, rfl, fun _ => rfl⟩

theorem BooksKept.trans {s t u : State} (h : BooksKept s t) (k : BooksKept t u) : BooksKept s u :=
  ⟨k.meters.trans h.meters, k.ports.trans h.ports, fun a => by rw [k.accounts, h.accounts]⟩

theorem BooksKept.of_eq {s t : State} (ha : t.acm = s.acm) (hd : t.dlc = s.dlc) : BooksKept s t :=
  ⟨by rw [ha], hd, fun a => by unfold State.account; rw [ha]⟩

theorem BooksKept.port {s t : State} (h : BooksKept s t) (q : Fin 8) : t.port q = s.port q :=
  congrArg (fun v => Vector.get v q) h.ports

theorem booksKept_account {s : State} {a : Fin 512} {x : Account}
    (h : x = { s.account a with reserved := x.reserved, bound := x.bound }) : BooksKept s (s.setAccount a x) where
  meters := rfl
  ports := rfl
  accounts b := by
    rw [State.account_setAccount]
    split
    · next e => subst e; exact h
    · rfl

theorem keepsDispatch_booksKept (s : State) : KeepsDispatch (BooksKept s) where
  raiseAt h := h.trans (.of_eq (by rw [alertOnly_raiseAt]) (by rw [alertOnly_raiseAt]))
  clear h := h.trans (.of_eq (by rw [alertOnly_clear]) (by rw [alertOnly_clear]))
  job _ _ h := h.trans (.of_eq rfl rfl)
  disp h := h.trans (.of_eq rfl rfl)
  pool _ _ h := h.trans (.of_eq rfl rfl)
  printer _ _ h := h.trans (.of_eq rfl rfl)
  reserved h := h.trans (booksKept_account rfl)

theorem booksKept_freeSheetBlocks (s : State) (n : Nat) : BooksKept s (s.freeSheetBlocks n) := by
  unfold State.freeSheetBlocks
  split <;> exact .of_eq rfl rfl

/-- R22: the end of a job keeps the books. -/
theorem booksKept_endJob {s t : State} (h : BooksKept s t) (j : Fin 128) (o : JobOutcome) (c : Cause) :
    BooksKept s (t.endJob j o c) :=
  (keepsDispatch_booksKept s).endJob_of (fun h => h.trans (.of_eq (by rw [hand_only]) (by rw [hand_only])))
    (fun h => h.trans (.of_eq rfl rfl))
    (fun h => (State.each_kept (P := BooksKept s) (fun t n ht => ht.trans (booksKept_freeSheetBlocks t n)) _ h).trans
      (.of_eq rfl rfl))
    (fun h => (h.trans (booksKept_account rfl)).trans (.of_eq rfl rfl)) (fun h => h.trans (.of_eq rfl rfl)) h

theorem booksKept_afterWindowChange (s : State) (j : Fin 128) (p : Fin 32) : BooksKept s (s.afterWindowChange j p) := by
  have K := keepsDispatch_booksKept s
  rcases afterWindowChange_cases s j p with e | e | e | ⟨o, c, e⟩ <;> rw [e]
  · exact .refl s
  · exact K.endDrain j p (K.retryGate j (.refl s))
  · exact K.tryReleases j (K.retryGate j (.refl s))
  · exact booksKept_endJob (.refl s) j o c

/-- R8, R20: freeing a delivered sheet's blocks keeps the books. -/
theorem booksKept_freeDelivered (s : State) (x : Job) (e : WindowEntry) : BooksKept s (s.freeDelivered x e) := by
  unfold State.freeDelivered
  split
  · split
    · exact (booksKept_freeSheetBlocks s _).trans (.of_eq (by rw [applyWatermarks_only]) (by rw [applyWatermarks_only]))
    · exact .refl s
  · exact .refl s

end Sys2Proof.Machine

/-! ## Delivery records (R62, R63, R98 to R101, R124, R132) -/

namespace Sys2Proof.Machine

section Records

variable {s : State} {p : Fin 32} {r : DeliveryRecord} {a : Nat} (ha : a = (s.referenceFeed p - r.feed).toNat)
include ha

/-- R98, R100: a record of a sheet released before the reference feed number. -/
theorem takeRecord_unmatched (h1 : 1 ≤ a) (h2 : a ≤ 128) : State.takeRecord p s r =
    s.setPrinter p { s.printer p with unmatched := satAdd Config.max16 (s.printer p).unmatched 1 } := by
  unfold State.takeRecord
  dsimp only
  rw [← ha, if_neg fun h => absurd h.1 (by omega), if_pos ⟨h1, h2⟩]

/-- R98, R99: a record of the oldest entry of the window. -/
theorem takeRecord_delivers (h : a = 0) (hw : (s.disp p).window ≠ []) :
    State.takeRecord p s r = s.deliver p r.printed := by
  unfold State.takeRecord
  dsimp only
  rw [← ha, if_pos ⟨h, hw⟩]

/-- R98, R101: any other record. -/
theorem takeRecord_error (h : (a = 0 ∧ (s.disp p).window = []) ∨ 128 < a) :
    State.takeRecord p s r = (s.countProtocolError p).loseAllAndDrop p := by
  unfold State.takeRecord
  dsimp only
  rw [← ha, if_neg fun hd => ?_, if_neg fun hu => ?_]
  · omega
  · rcases h with ⟨-, hw⟩ | h
    · exact hd.2 hw
    · omega

end Records

/-! ### A delivery (R62, R99, R124) -/

section Delivery

variable {s : State} {p : Fin 32} {x : Job} {e : WindowEntry} {rest : List WindowEntry} {d : SheetDesc}

/-- R62, R124: the Dispatch Scheduler's and the Account Meter's part of a delivery, field by field. -/
theorem delivered_some (hx : s.job e.job = some x) (p : Fin 32) (rest : List WindowEntry) (z m : Fin 4)
    (printed : List Ink) : s.delivered p x e rest z m printed =
      (((s.setWindow p rest).setAccount x.account
        (chargeAccount (s.account x.account) e.estimate (s.chargeFor x z m printed) printed)).setJob e.job
          (some (oneDelivered x (s.chargeFor x z m printed)))).setMeters p
            (raiseMeters (s.acm.meters.get p) printed) := by
  have confirmed : ((s.setWindow p rest).setJob e.job (some (oneConfirmed x))).job e.job = some (oneConfirmed x) :=
    (jobSet_setJob _ _ _).self
  unfold State.delivered
  rw [State.modJob_some (s.setWindow p rest) hx, takeCharge_some confirmed]
  exact congrArg (fun t : State => t.setMeters p _) (State.setJob_setJob ((s.setWindow p rest).setAccount x.account _) ..)

/-- R8, R62, R124: a delivery before the Dispatch Scheduler acts on the job: the window, the job, the account, the meters
and the blocks of the sheet. -/
def State.sheetTaken (s : State) (p : Fin 32) (x : Job) (e : WindowEntry) (rest : List WindowEntry) (d : SheetDesc)
    (printed : List Ink) : State :=
  (s.delivered p x e rest d.sizeClass d.media (clampSides d printed)).freeDelivered x e

/-- R124: what a delivery is charged. -/
def State.sheetCharge (s : State) (x : Job) (d : SheetDesc) (printed : List Ink) : Nat :=
  s.chargeFor x d.sizeClass d.media (clampSides d printed)

/-- What a delivery has made of the entry's job, its printer, its account and the meters. -/
structure SheetTaken (s u : State) (p : Fin 32) (x : Job) (e : WindowEntry) (rest : List WindowEntry) (c : Nat)
    (sides : List Ink) : Prop where
  job : u.job e.job = some (oneDelivered x c)
  window : (u.disp p).window = rest
  account : u.account x.account = chargeAccount (s.account x.account) e.estimate c sides
  meters : u.acm.meters.get p = raiseMeters (s.acm.meters.get p) sides

theorem sheetTaken_some (hx : s.job e.job = some x) (p : Fin 32) (rest : List WindowEntry) (d : SheetDesc)
    (printed : List Ink) : SheetTaken s (s.sheetTaken p x e rest d printed) p x e rest (s.sheetCharge x d printed)
      (clampSides d printed) := by
  have parts := agreeingParts_freeDelivered (s.delivered p x e rest d.sizeClass d.media (clampSides d printed)) x e
  have books := booksKept_freeDelivered (s.delivered p x e rest d.sizeClass d.media (clampSides d printed)) x e
  have fields := delivered_some hx p rest d.sizeClass d.media (clampSides d printed)
  refine ⟨?_, ?_, ?_, ?_⟩
  · refine (congrArg (fun t => Vector.get t.1 e.job) parts).trans ?_
    rw [fields]
    exact (jobSet_setJob _ _ _).self
  · unfold State.sheetTaken
    rw [disp_of_agreeing parts, fields]
    exact congrArg Dispatch.window ((disp_setWindow s p p rest).trans (if_pos rfl))
  · refine (congrArg (fun t => Vector.get t.2.2.2.2 x.account) parts).trans ?_
    rw [fields]
    exact put_get_same ..
  · unfold State.sheetTaken
    rw [books.meters, fields]
    exact put_get_same ..

/-- R20, R62: the oldest entry is delivered, and then its job ends, or the Dispatch Scheduler acts on the change. -/
theorem deliver_some (hw : (s.disp p).window = e :: rest) (hx : s.job e.job = some x)
    (hd : s.sheetDesc x e.sheet = some d) (printed : List Ink) : s.deliver p printed =
      if completes (oneDelivered x (s.sheetCharge x d printed)) then
        (s.sheetTaken p x e rest d printed).endJob e.job .completed .none
      else (s.sheetTaken p x e rest d printed).afterWindowChange e.job p := by
  unfold State.deliver
  simp only [hw, hx, hd]
  show (match (s.sheetTaken p x e rest d printed).job e.job with
    | none => _
    | some job1 => if completes job1 then _ else _) = _
  rw [(sheetTaken_some hx p rest d printed).job]
  rfl

theorem completes_oneDelivered {c : Nat} : completes (oneDelivered x c) = true ↔
    x.phase = .printing ∧ x.isOpen = false ∧ x.confirmPos + 1 = x.copies * x.sheets := by
  simp [completes, oneDelivered, and_assoc]

variable (hw : (s.disp p).window = e :: rest) (hx : s.job e.job = some x) (hd : s.sheetDesc x e.sheet = some d)
  (printed : List Ink)
include hw hx hd

/-- R124, R132: what follows a delivery keeps its charge and its meters. -/
theorem booksKept_deliver : BooksKept (s.sheetTaken p x e rest d printed) (s.deliver p printed) := by
  rw [deliver_some hw hx hd]
  exact kept_ite (booksKept_endJob (.refl _) _ _ _) (booksKept_afterWindowChange _ _ _)

/-- R20: the delivery of a job's last position ends it. -/
theorem deliver_last (hp : x.phase = .printing) (ho : x.isOpen = false) (hc : x.confirmPos + 1 = x.copies * x.sheets) :
    (s.deliver p printed).job e.job = none := by
  rw [deliver_some hw hx hd, if_pos (completes_oneDelivered.2 ⟨hp, ho, hc⟩)]
  exact endJob_job (sheetTaken_some hx p rest d printed).job _ _

theorem deliver_running (h : ¬(x.phase = .printing ∧ x.isOpen = false ∧ x.confirmPos + 1 = x.copies * x.sheets)) :
    s.deliver p printed = (s.sheetTaken p x e rest d printed).afterWindowChange e.job p := by
  rw [deliver_some hw hx hd, if_neg fun hc => h (completes_oneDelivered.1 hc)]

/-- R124: any other PRINTING job lives on with the position confirmed and the charge added. -/
theorem deliver_printing (hp : x.phase = .printing) (hn : ¬(x.isOpen = false ∧ x.confirmPos + 1 = x.copies * x.sheets)) :
    ∃ y, (s.deliver p printed).job e.job = some y ∧ y.confirmPos = x.confirmPos + 1 ∧
      y.chargeTotal = satAdd Config.max32 x.chargeTotal (s.sheetCharge x d printed) := by
  have taken := (sheetTaken_some hx p rest d printed).job
  rw [deliver_running hw hx hd printed fun h => hn h.2]
  have confirmed : KeptByDrains fun y => y.confirmPos = x.confirmPos + 1 ∧
      y.chargeTotal = satAdd Config.max32 x.chargeTotal (s.sheetCharge x d printed) :=
    { released := id, draining := id, heldForBudget := id, printing := fun _ => id, offPrinter := id, queued := id, held := id }
  exact confirmed.afterWindowChange taken hp ⟨rfl, rfl⟩ ⟨rfl, rfl⟩ p

/-- R23: a CANCELLING job ends with its window, and is left as the delivery has made it before that. -/
theorem deliver_cancelling (hp : x.phase = .cancelling) : s.deliver p printed =
    if rest = [] then (s.sheetTaken p x e rest d printed).endCancelled e.job else s.sheetTaken p x e rest d printed := by
  have taken := sheetTaken_some hx p rest d printed
  rw [deliver_running hw hx hd printed fun h => (nomatch hp.symm.trans h.1),
    afterWindowChange_cancelling taken.job hp, taken.window]

end Delivery

/-! ### A protocol error (R101, R103) -/

section ProtocolError

variable {s : State} {p : Fin 32} {x : Job} {e : WindowEntry} {rest : List WindowEntry}

theorem ToldToDrop.of_start {s t u : State} {p : Fin 32} {f : Byte} (h : ToldToDrop t u p f)
    (hf : (t.printer p).dropFrom = (s.printer p).dropFrom) (hn : (t.printer p).nextFeed = (s.printer p).nextFeed)
    (hl : (t.port (portOf p)).line = (s.port (portOf p)).line) : ToldToDrop s u p f := by
  unfold ToldToDrop at *
  rwa [hf, hn, hl] at h

/-- R103: dispatch takes back nothing that a printer has been told to drop. -/
theorem ToldToDrop.dispatched {s u v : State} {p : Fin 32} {f : Byte} (h : ToldToDrop s u p f)
    (hp : PrinterDispatched (u.printer p) (v.printer p)) (hq : v.port (portOf p) = u.port (portOf p)) :
    ToldToDrop s v p f := by
  unfold ToldToDrop at *
  rw [hp, hq]
  exact h

/-- R101: a protocol error that finds entries in the window, before the Dispatch Scheduler acts on their loss. -/
def State.faultyRecord (s : State) (p : Fin 32) (f : Byte) : State :=
  ((s.countProtocolError p).loseFrom p 0).setNeedsDrop p f

theorem loseAllAndDrop_empty (hw : (s.disp p).window = []) : s.loseAllAndDrop p = s := by
  rw [State.loseAllAndDrop, hw]

theorem loseAllAndDrop_some (hw : (s.disp p).window = e :: rest) :
    s.loseAllAndDrop p = ((s.loseFrom p 0).setNeedsDrop p e.feed).afterWindowChange e.job p := by
  rw [State.loseAllAndDrop, hw]

/-- What a protocol error has made of the oldest entry's job, the printer and the port. -/
structure FaultyRecord (s u : State) (p : Fin 32) (e : WindowEntry) (x : Job) (n : Nat) : Prop where
  job : u.job e.job = some (rewound x e n)
  window : (u.disp p).window = []
  told : ToldToDrop s u p e.feed
  errors : (u.port (portOf p)).protocolErrors = satAdd Config.max16 (s.port (portOf p)).protocolErrors 1
  jli : u.jli = s.jli

theorem protocolErrors_queueDropSheets (s : State) (p : Fin 32) (b : Bool) (q : Fin 8) :
    ((s.queueDropSheets p b).port q).protocolErrors = (s.port q).protocolErrors := by
  unfold State.queueDropSheets
  dsimp only
  split
  · rfl
  · rw [State.port_setPort]
    split
    · next h => rw [h]
    · rfl

theorem faultyRecord_some (hw : (s.disp p).window = e :: rest) (hx : s.job e.job = some x) :
    FaultyRecord s (s.faultyRecord p e.feed) p e x (rest.length + 1) := by
  have hw0 : ((s.countProtocolError p).disp p).window = e :: rest := hw
  have lost := entriesLost_loseFrom (s := s.countProtocolError p) (p := p) (k := 0) (by rw [hw0]; rfl) hx
  have counted : (s.countProtocolError p).port (portOf p) = { s.port (portOf p) with
      protocolErrors := satAdd Config.max16 (s.port (portOf p)).protocolErrors 1 } := port_setPort_self ..
  refine ⟨?_, ?_, ?_, ?_, ?_⟩
  · have := lost.job e.job
    rw [if_pos rfl, hw0] at this
    exact (job_setNeedsDrop ..).trans this
  · unfold State.faultyRecord
    rw [disp_setNeedsDrop, window_loseFrom_zero]
  · refine (toldToDrop_setNeedsDrop ((s.countProtocolError p).loseFrom p 0) p e.feed).of_start ?_ ?_ ?_
    · rw [lost.printer]; rfl
    · rw [lost.printer]; rfl
    · rw [lost.port, counted]
  · unfold State.faultyRecord
    rw [setNeedsDrop_eq, protocolErrors_queueDropSheets]
    show (((s.countProtocolError p).loseFrom p 0).port (portOf p)).protocolErrors = _
    rw [lost.port, counted]
  · unfold State.faultyRecord
    rw [setNeedsDrop_only]
    exact lost.jli

variable {v : State} (hv : v = (s.faultyRecord p e.feed).afterWindowChange e.job p)
  (hw : (s.disp p).window = e :: rest) (hx : s.job e.job = some x)
include hv hw hx

/-- R101, R103: what the Dispatch Scheduler does about the loss leaves the count and the needs-drop flag. -/
theorem protocolError_told : ToldToDrop s v p e.feed ∧
    (v.port (portOf p)).protocolErrors = satAdd Config.max16 (s.port (portOf p)).protocolErrors 1 := by
  subst hv
  have faulty := faultyRecord_some hw hx
  have ports := (booksKept_afterWindowChange (s.faultyRecord p e.feed) e.job p).port (portOf p)
  exact ⟨faulty.told.dispatched (printerDispatched_afterWindowChange (.refl _) _ _) ports, by rw [ports, faulty.errors]⟩

/-- R63, R101: a PRINTING job lives on, with the loss counted. -/
theorem protocolError_printing (hp : x.phase = .printing) :
    ∃ y, v.job e.job = some y ∧ y.sheetsLost = satAdd Config.max16 x.sheetsLost (rest.length + 1) := by
  subst hv
  have lost : KeptByDrains fun y => y.sheetsLost = satAdd Config.max16 x.sheetsLost (rest.length + 1) :=
    { released := id, draining := id, heldForBudget := id, printing := fun _ => id, offPrinter := id, queued := id, held := id }
  exact lost.afterWindowChange (faultyRecord_some hw hx).job hp rfl rfl p

/-- R54, R63, R101: a drain for HOLD or SERVICE ends on the empty window, and the printer, which is to drop its sheets, is
given no other job. -/
theorem protocolError_drained (hp : x.phase = .printing) (hd : x.drain = some .hold ∨ x.drain = some .service) :
    (v.disp p).window = [] := by
  subst hv
  have faulty := faultyRecord_some hw hx
  have hb : x.drain ≠ some .budget := by rcases hd with h | h <;> rw [h] <;> nofun
  have hn : x.drain ≠ none := by rcases hd with h | h <;> rw [h] <;> nofun
  have same := retryGate_undrained faulty.job hb
  obtain ⟨y, hy, -, change⟩ := afterWindowChange_printing faulty.job hp p
  rw [same] at hy change
  cases faulty.job.symm.trans hy
  rw [change, if_pos ⟨faulty.window, hn⟩, (stands_endDrain faulty.job (.inl faulty.told.1)).disp]
  exact faulty.window

/-- R23, R101: a CANCELLING job ends with its window lost. -/
theorem protocolError_cancelling {o : JobOutcome} {c : Cause} (hp : x.phase = .cancelling) (he : x.ending = some (o, c)) :
    v.job e.job = none ∧ (v.disp p).window = [] ∧ HandedFirst s (.jobReport { reportOf x o c with
      sheetsLost := satAdd Config.max16 x.sheetsLost (rest.length + 1) }) v := by
  have faulty := faultyRecord_some hw hx
  have ended : v = (s.faultyRecord p e.feed).endJob e.job o c := by
    rw [hv, afterWindowChange_cancelling faulty.job hp, if_pos faulty.window, endCancelled_some faulty.job he]
  rw [ended]
  exact ⟨endJob_job faulty.job o c, (window_endJob faulty.job faulty.told.1 o c).trans faulty.window,
    (endJob_handedFirst faulty.job o c).of_jli faulty.jli⟩

end ProtocolError

end Sys2Proof.Machine

/-! ## STATUS, polls and delivery records (R91, R98 to R104, R124, R150) -/

namespace Sys2Proof.Machine

/-! ### A STATUS in its order (R91, R98) -/

/-- The timestamp and the stored PORT records, from which a poll due time is set, are as they were. -/
structure PollTimeKept (s t : State) : Prop where
  now : t.now = s.now
  config : ∀ q, (t.port q).config = (s.port q).config

theorem PollTimeKept.trans {s t u : State} (h : PollTimeKept s t) (k : PollTimeKept t u) : PollTimeKept s u :=
  ⟨k.now.trans h.now, fun q => (k.config q).trans (h.config q)⟩

theorem PrintingOnly.pollTime {s t : State} (h : PrintingOnly s t) : PollTimeKept s t :=
  ⟨by rw [h.rest], fun q => by rw [h.ports]⟩

section PollTime

variable {s t : State} {p : Fin 32}

theorem pollTimeKept_deliver (s : State) (p : Fin 32) (printed : List Ink) : PollTimeKept s (s.deliver p printed) := by
  have same : PollTimeKept s s := ⟨rfl, fun _ => rfl⟩
  cases hw : (s.disp p).window with
  | nil => rw [State.deliver, hw]; exact same
  | cons e rest =>
    cases hx : s.job e.job with
    | none => simpa only [State.deliver, hw, hx] using same
    | some x =>
      cases hd : s.sheetDesc x e.sheet with
      | none => simpa only [State.deliver, hw, hx, hd] using same
      | some d =>
        have moved : PollTimeKept s (s.delivered p x e rest d.sizeClass d.media (clampSides d printed)) := by
          rw [delivered_some hx]
          exact ⟨rfl, fun _ => rfl⟩
        have taken : PollTimeKept s (s.sheetTaken p x e rest d printed) :=
          moved.trans ((keepsPrinting_only _).freeDelivered x e (.refl _)).pollTime
        rw [deliver_some hw hx hd]
        exact kept_ite (taken.trans ((keepsPrinting_only _).endJob (.refl _)).pollTime)
          (taken.trans ((keepsPrinting_only _).afterWindowChange e.job p (.refl _)).pollTime)

theorem pollTimeKept_takeRecord (s : State) (p : Fin 32) (r : DeliveryRecord) :
    PollTimeKept s (State.takeRecord p s r) := by
  have K := keepsPrinting_only s
  unfold State.takeRecord
  exact kept_ite (pollTimeKept_deliver s p r.printed)
    (kept_ite ⟨rfl, fun _ => rfl⟩ (K.loseAllAndDrop p (K.protocolError (.refl s))).pollTime)

/-- R91: the poll due time counts from the timestamp of the exchange's end, by the port's stored poll interval. -/
theorem setPollDue_eq (h : PollTimeKept s t) (p : Fin 32) : t.setPollDue p = { t with
    pra := put t.pra p
      { t.printer p with pollDue := s.now + BitVec.ofNat 32 (s.port (portOf p)).config.poll } } := by
  rw [← h.now, ← h.config]
  rfl

/-- R98: a STATUS, up to the poll due time. -/
theorem takeStatus_eq (s : State) (p : Fin 32) (st : Status) (drop : Bool) {a b c d : State}
    (ha : a = s.answered p 0)
    (hb : b = st.records.foldl (State.takeRecord p) (a.setPrinter p { a.printer p with room := st.room }))
    (hc : c = if drop then b.takeCommitted p st.committed else b) (hd : d = c.takeCondition p st.condition) :
    s.takeStatus p st drop = d.setPollDue p ∧ PollTimeKept s d := by
  subst ha hb hc hd
  refine ⟨rfl, ?_⟩
  have answered := ((keepsPrinting_only s).answered p 0 (fun _ => Nat.zero_le 3) (.refl s)).pollTime
  have records := State.each_kept (P := PollTimeKept s) (fun t r ht => ht.trans (pollTimeKept_takeRecord t p r)) st.records
    (answered.trans ⟨rfl, fun _ => rfl⟩ :
      PollTimeKept s ((s.answered p 0).setPrinter p { (s.answered p 0).printer p with room := st.room }))
  have committed := kept_ite (b := (drop = true))
    (records.trans ((keepsPrinting_only _).takeCommitted p st.committed (.refl _)).pollTime) records
  exact committed.trans ((keepsPrinting_only _).takeCondition p st.condition (.refl _)).pollTime

theorem takeOutcome_poll (hc : (s.printer p).config.configured = true) (o : ExchangeOutcome) :
    s.takeOutcome p .poll o = s.takePollOutcome p o := if_pos hc

/-- R91, R98: a poll hands over its STATUS. -/
theorem takeOutcome_poll_status (hc : (s.printer p).config.configured = true) {payload : List Byte} {st : Status}
    (h : readStatus payload = some st) :
    s.takeOutcome p .poll (.replyOk 0x81#8 payload) = s.takeStatus p st false := by
  have found : statusOf (.replyOk 0x81#8 payload) = some st := h
  rw [takeOutcome_poll hc, State.takePollOutcome, found]

/-- R91, R92: a poll without a STATUS is a failed exchange. -/
theorem takeOutcome_poll_failed (hc : (s.printer p).config.configured = true) {o : ExchangeOutcome}
    (h : statusOf o = none) : s.takeOutcome p .poll o = (s.exchangeFailed p).setPollDue p := by
  rw [takeOutcome_poll hc, State.takePollOutcome, h]

end PollTime

/-! ### The records -/

section DeliveredRecord

variable {s v : State} {p : Fin 32} {x : Job} {e : WindowEntry} {rest : List WindowEntry} {d : SheetDesc}
  {printed : List Ink} (hv : v = s.deliver p printed) (hw : (s.disp p).window = e :: rest)
  (hx : s.job e.job = some x) (hd : s.sheetDesc x e.sheet = some d)
include hv hw hx hd

/-- R124, R132: the account and the meters after a delivery. -/
theorem deliver_books : v.acm.meters.get p = raiseMeters (s.acm.meters.get p) (clampSides d printed) ∧
    v.account x.account = { chargeAccount (s.account x.account) e.estimate (s.sheetCharge x d printed) (clampSides d printed) with
      reserved := (v.account x.account).reserved, bound := (v.account x.account).bound } := by
  have taken := sheetTaken_some hx p rest d printed
  have books := booksKept_deliver hw hx hd printed
  rw [← hv] at books
  refine ⟨by rw [books.meters, taken.meters], ?_⟩
  have kept := books.accounts x.account
  rwa [taken.account] at kept

/-- R23, R124: a CANCELLING job whose window holds more entries. -/
theorem deliver_committed (hp : x.phase = .cancelling) (hr : rest ≠ []) :
    v.job e.job = some (oneDelivered x (s.sheetCharge x d printed)) ∧
      (v.account x.account).reserved = (s.account x.account).reserved - e.estimate := by
  have taken := sheetTaken_some hx p rest d printed
  rw [hv, deliver_cancelling hw hx hd printed hp, if_neg hr]
  exact ⟨taken.job, by rw [taken.account]; rfl⟩

/-- R23: a CANCELLING job whose last entry this was. -/
theorem deliver_cancelled (hp : x.phase = .cancelling) (hr : rest = []) (he : x.ending ≠ none) : v.job e.job = none := by
  have taken := sheetTaken_some hx p rest d printed
  obtain ⟨ending, he⟩ := Option.ne_none_iff_exists'.1 he
  rw [hv, deliver_cancelling hw hx hd printed hp, if_pos hr, endCancelled_some taken.job he]
  exact endJob_job taken.job _ _

end DeliveredRecord

/-- Settles O50: the delivery, the unmatched record and the protocol error by the place of the record, and a STATUS in its
order. -/
theorem deliveryRecordsAreTaken : Obligations.DeliveryRecordsAreTaken := by
  refine ⟨fun s v p r a hlen hmatch hv => ?_, fun s p => ⟨fun st drop a b c d v ha hb hc hd hv => ?_, fun hc => ⟨?_, ?_⟩⟩⟩
  · have ha : a = (s.referenceFeed p - r.feed).toNat := hmatch
    clear hmatch
    refine ⟨hv ▸ (keepsPrinting_only s).takeRecord p r hlen (.refl s), fun h1 h2 => ?_, ?_, ?_, fun h => ⟨?_, ?_⟩⟩
    · rw [hv, takeRecord_unmatched ha h1 h2]
      rfl
    · rintro e rest x d c n h0 hw hx hd rfl rfl
      have delivered : v = s.deliver p r.printed := by rw [hv, takeRecord_delivers ha h0 (by rw [hw]; nofun)]
      obtain ⟨meters, account⟩ := deliver_books delivered hw hx hd
      refine ⟨by rw [account]; rfl, by rw [account]; rfl, by rw [account]; rfl, by rw [account]; rfl, by rw [account]; rfl,
        meters, fun ⟨hp, ho, hl⟩ => ?_, fun ⟨hp, hl⟩ => ?_, fun hp hr => deliver_committed delivered hw hx hd hp hr,
        fun hp hr he => deliver_cancelled delivered hw hx hd hp hr he⟩
      · rw [delivered]
        exact deliver_last hw hx hd r.printed hp ho hl
      · rw [delivered]
        exact deliver_printing hw hx hd r.printed hp hl
    · rintro j x out cause e rest h hw rfl hx hp he
      have lost : v = (s.faultyRecord p e.feed).afterWindowChange e.job p := by
        rw [hv, takeRecord_error ha (.inr h)]
        exact loseAllAndDrop_some hw
      obtain ⟨hj, hempty, hreport⟩ := protocolError_cancelling lost hw hx hp he
      exact ⟨hj, hempty, (protocolError_told lost hw hx).1, hreport⟩
    · rintro y hw rfl
      rw [hv, takeRecord_error ha (h.imp_left fun h0 => ⟨h0, hw⟩)]
      exact loseAllAndDrop_empty hw
    · intro h e rest x hw hx
      have lost : v = (s.faultyRecord p e.feed).afterWindowChange e.job p := by
        rw [hv, takeRecord_error ha (.inr h)]
        exact loseAllAndDrop_some hw
      obtain ⟨told, errors⟩ := protocolError_told lost hw hx
      exact ⟨errors, told.1, fun hp => ⟨protocolError_printing lost hw hx hp, protocolError_drained lost hw hx hp⟩⟩
  · obtain ⟨steps, time⟩ := takeStatus_eq s p st drop ha hb hc hd
    rw [steps, hv]
    exact setPollDue_eq time p
  · exact fun payload st h => takeOutcome_poll_status hc h
  · rintro o v h rfl
    rw [takeOutcome_poll_failed hc h]
    exact setPollDue_eq ((keepsPrinting_only s).exchangeFailed p (.refl s)).pollTime p

end Sys2Proof.Machine

/-! ## PRINTER writes (R47, R88, R89, R169) -/

namespace Sys2Proof.Machine

/-! ### The interlock and the three effects of a record -/

section PrinterWrites

variable {s : State} {p : Fin 32} {c : PrinterConfig} {e : PrinterEntry}

theorem namesDisabledPool_iff : s.namesDisabledPool c = true ↔
    ∃ k, c.configured = true ∧ c.pool = some k ∧ (s.pool k).enabled = false := by
  unfold State.namesDisabledPool
  cases c.pool <;> simp

theorem writePrinter_refused (h : (s.disp p).assigned ≠ none ∨ s.namesDisabledPool (storedPrinter e) = true) :
    s.writePrinter p.val e = none := by
  refine (dif_pos p.isLt).trans (if_pos ?_)
  rw [Bool.or_eq_true]
  exact h.imp_left Option.isSome_iff_ne_none.2

theorem writePrinter_taken (ha : (s.disp p).assigned = none) (hn : s.namesDisabledPool (storedPrinter e) = false) :
    s.writePrinter p.val e = some (((s.storePrinter p (storedPrinter e)).refreshFeed p).offerPrinter p) := by
  refine (dif_pos p.isLt).trans (if_neg ?_)
  rw [ha, hn]
  exact Bool.false_ne_true

theorem storePrinter_same (h : c.configured = (s.printer p).config.configured) :
    s.storePrinter p c = s.setPrinter p { s.printer p with config := c } := by
  unfold State.storePrinter
  rw [h]
  cases (s.printer p).config.configured <;> rfl

theorem storePrinter_configures (hc : c.configured = true) (hx : (s.printer p).config.configured = false) :
    s.storePrinter p c = s.configure p c := by
  unfold State.storePrinter
  rw [hc, hx]
  rfl

theorem storePrinter_unconfigures (hc : c.configured = false) (hx : (s.printer p).config.configured = true) :
    s.storePrinter p c = s.unconfigure p c := by
  unfold State.storePrinter
  rw [hc, hx]
  rfl

/-- R89: an unconfigured printer, before its alerts are cleared. -/
def State.unconfigured (s : State) (p : Fin 32) (c : PrinterConfig) : State :=
  (s.setPrinter p
    { s.printer p with
      config := c
      link := .unknown
      missed := 0
      condition := none
      room := 0
      needsDrop := false
      dropFrom := none }).modPort (portOf p) fun x =>
    { x with
      control := x.control.filter fun b => b.drop != dropOf p
      attention := x.attention &&& ~~~(1#4 <<< (dropOf p).val) }

theorem unconfigure_eq (s : State) (p : Fin 32) (c : PrinterConfig) :
    s.unconfigure p c = (s.unconfigured p c).clearPrinterAlerts p := rfl

end PrinterWrites

/-! ### Can feed and the offer after it (R47, R134) -/

section Refreshed

variable {s : State} {p : Fin 32}

theorem dispatchOnly_refreshed (s : State) (p : Fin 32) : DispatchOnly s ((s.refreshFeed p).offerPrinter p) :=
  let K := keepsDispatch_only s
  K.offerPrinter p (K.refreshFeed p (.refl s))

/-- R134: without a job on the printer, a changed can feed leads to its offer at most. -/
theorem printerDispatched_refreshFeed (ha : (s.disp p).assigned = none) :
    PrinterDispatched (s.printer p) ((s.refreshFeed p).printer p) := by
  cases hc : s.canFeed p with
  | false => rw [(stopOnly_refreshFeed hc).printer]; exact .refl _
  | true =>
    cases hf : (s.disp p).feeds with
    | true => rw [refreshFeed_unchanged (hc.trans hf.symm)]; exact .refl _
    | false =>
      have idle : ((s.setDisp p { s.disp p with feeds := true, stall := none }).disp p).assigned = none := by
        rw [State.disp_setDisp, if_pos rfl]
        exact ha
      rw [refreshFeed_starts hc hf, feedAgain_idle idle]
      exact (keepsArbiter_printer p _).offerPrinter p (PrinterDispatched.refl _)

theorem printerDispatched_refreshed (ha : (s.disp p).assigned = none) :
    PrinterDispatched (s.printer p) (((s.refreshFeed p).offerPrinter p).printer p) :=
  (keepsArbiter_printer p _).offerPrinter p (printerDispatched_refreshFeed ha)

theorem available_of_link (h : (s.printer p).link ≠ .answering) : s.available p = false := by
  refine Bool.eq_false_iff.2 fun ha => ?_
  obtain ⟨-, -, -, answering, -⟩ := available_iff.1 ha
  exact h answering

/-- R47, R134: a printer that does not answer stops feeding and is offered to no pool. -/
theorem stopOnly_refreshed (h : (s.printer p).link ≠ .answering) : StopOnly s ((s.refreshFeed p).offerPrinter p) := by
  have stopped := stopOnly_refreshFeed (canFeed_of_link h)
  rw [offerPrinter_unavailable (available_of_link (by rw [stopped.printer]; exact h))]
  exact stopped

end Refreshed

theorem exec_printerWrite {s : State} (h : s.jli.restart = none) (token : Byte) (first : Half) (l : List PrinterEntry) :
    exec (.printerWrite token first l) s =
      .next (s.silenceRule.writeEntries State.writePrinter 32 32 token first l).serviceLines :=
  congrArg Host.Outcome.next (onFrame_running h _)

section Taken

variable {u : State} {p : Fin 32} {c : PrinterConfig}

/-- R89: what a taken record makes of its printer and its port. -/
def State.writtenPrinter (u : State) (p : Fin 32) (c : PrinterConfig) : State :=
  ((u.storePrinter p c).refreshFeed p).offerPrinter p

/-- R89: a record that leaves the printer configured, or not configured, as it was. -/
theorem writtenPrinter_same (h : c.configured = (u.printer p).config.configured) : u.writtenPrinter p c =
    ((u.setPrinter p { u.printer p with config := c }).refreshFeed p).offerPrinter p := by
  rw [State.writtenPrinter, storePrinter_same h]

theorem printer_writtenPrinter_same (h : c.configured = (u.printer p).config.configured)
    (ha : (u.disp p).assigned = none) :
    PrinterDispatched { u.printer p with config := c } ((u.writtenPrinter p c).printer p) := by
  have stored := (State.printer_setPrinter u p { u.printer p with config := c } p).trans (if_pos rfl)
  have kept := printerDispatched_refreshed (s := u.setPrinter p { u.printer p with config := c }) ha
  rw [stored] at kept
  rwa [writtenPrinter_same h]

/-- R89: a printer newly configured does not answer yet. -/
theorem stopOnly_writtenPrinter_configured (hc : c.configured = true) (hx : (u.printer p).config.configured = false) :
    StopOnly (u.configure p c) (u.writtenPrinter p c) := by
  have link : ((u.configure p c).printer p).link = .unknown :=
    congrArg Printer.link ((State.printer_setPrinter ..).trans (if_pos rfl))
  rw [State.writtenPrinter, storePrinter_configures hc hx]
  exact stopOnly_refreshed (by rw [link]; nofun)

/-- R89: nor does one unconfigured, and its alerts are cleared. -/
theorem stopOnly_writtenPrinter_unconfigured (hc : c.configured = false)
    (hx : (u.printer p).config.configured = true) :
    StopOnly ((u.unconfigured p c).clearPrinterAlerts p) (u.writtenPrinter p c) := by
  have link : (((u.unconfigured p c).clearPrinterAlerts p).printer p).link = .unknown := by
    rw [alertOnly_clearPrinterAlerts]
    exact congrArg Printer.link ((State.printer_setPrinter ..).trans (if_pos rfl))
  rw [State.writtenPrinter, storePrinter_unconfigures hc hx, unconfigure_eq]
  exact stopOnly_refreshed (by rw [link]; nofun)

end Taken

end Sys2Proof.Machine

/-! ## ADJUST and CLOSE_PERIOD (R128 to R131) -/

namespace Sys2Proof.Machine

section Accounts

variable {s : State} {a : Fin 512} {n : Half}

theorem validAccount_none (h : ∀ a : Fin 512, a.val = n.toNat → (s.account a).valid = false) :
    s.validAccount n = none := by
  unfold State.validAccount
  split
  · next hn => rw [h ⟨n.toNat, hn⟩ rfl, if_neg Bool.false_ne_true]
  · rfl

theorem validAccount_some (h : (s.account a).valid = true) : s.validAccount (indexOf a.val) = some a := by
  have hn : (indexOf a.val).toNat = a.val := toNat_indexOf (by omega)
  unfold State.validAccount
  simp only [hn]
  rw [dif_pos a.isLt, if_pos h]

theorem commandAdjust_none (token : Byte) (amount : BitVec 32) (h : s.validAccount n = none) :
    s.commandAdjust token n amount = s.hand (.commandReply token 4#8 .badIndex []) := by
  rw [State.commandAdjust, h]
  rfl

theorem commandClosePeriod_none (token : Byte) (h : s.validAccount n = none) :
    s.commandClosePeriod token n = s.hand (.commandReply token 5#8 .badIndex []) := by
  rw [State.commandClosePeriod, h]
  rfl

theorem commandAdjust_some (token : Byte) (amount : BitVec 32) (h : s.validAccount n = some a) :
    s.commandAdjust token n amount = ((s.setAccount a { s.account a with
      balance := clampBalance ((s.account a).balance + amount.toInt) }).accountChange a).hand
        (.commandReply token 4#8 .ok (signedBytes (clampBalance ((s.account a).balance + amount.toInt)))) := by
  rw [State.commandAdjust, h]
  rfl

theorem commandClosePeriod_some (token : Byte) (h : s.validAccount n = some a) :
    s.commandClosePeriod token n = ((s.setAccount a (closePeriod (s.account a))).accountChange a).hand
      (.commandReply token 5#8 .ok (periodBytes (s.account a))) := by
  rw [State.commandClosePeriod, h]
  rfl

/-- R130: the period counters of the accounts of a list are closed. -/
def State.closeEach (s : State) (l : List (Fin 512)) : State :=
  s.each l fun t a => t.setAccount a (closePeriod (t.account a))

theorem closeEach_only (s : State) (l : List (Fin 512)) :
    s.closeEach l = { s with acm := { s.acm with accounts := (s.closeEach l).acm.accounts } } :=
  State.each_kept (P := fun t => t = { s with acm := { s.acm with accounts := t.acm.accounts } })
    (fun t a ht => by rw [ht]; rfl) l rfl

theorem account_closeEach (a : Fin 512) : ∀ (l : List (Fin 512)) (s : State),
    (s.closeEach l).account a = if a ∈ l then closePeriod (s.account a) else s.account a
  | [], s => (if_neg List.not_mem_nil).symm
  | b :: l, s => by
    refine (account_closeEach a l (s.setAccount b (closePeriod (s.account b)))).trans ?_
    rw [State.account_setAccount]
    by_cases hb : a = b
    · subst hb
      rw [if_pos rfl, if_pos (List.mem_cons_self ..)]
      split <;> rfl
    · simp only [hb, if_false, List.mem_cons, false_or]

theorem mem_validAccounts : a ∈ s.validAccounts ↔ (s.account a).valid = true := by
  simp [State.validAccounts]

theorem sumBytes_eq (s : State) (l : List (Fin 512)) (f : Account → Nat) :
    s.sumBytes l f = beBytes 8 (l.map fun a => f (s.account a)).sum := by
  unfold State.sumBytes
  rw [List.sum_eq_foldl, List.foldl_map]

theorem commandCloseAll_eq (s : State) (token : Byte) : s.commandCloseAll token =
    (s.validAccounts.foldl State.accountChange (s.closeEach s.validAccounts)).hand
      (.commandReply token 5#8 .ok (s.summedLine s.validAccounts)) := rfl

end Accounts

theorem exec_adjust {s : State} (h : s.jli.restart = none) (token : Byte) (n : Half) (amount : BitVec 32) :
    exec (.adjust token n amount) s = .next (s.silenceRule.commandAdjust token n amount).serviceLines :=
  congrArg Host.Outcome.next (onFrame_running h _)

theorem exec_closePeriod {s : State} (h : s.jli.restart = none) (token : Byte) (n : Half) :
    exec (.closePeriod token n) s = .next (s.silenceRule.commandClosePeriod token n).serviceLines :=
  congrArg Host.Outcome.next (onFrame_running h _)

theorem exec_closePeriodAll {s : State} (h : s.jli.restart = none) (token : Byte) :
    exec (.closePeriodAll token) s = .next (s.silenceRule.commandCloseAll token).serviceLines :=
  congrArg Host.Outcome.next (onFrame_running h _)

end Sys2Proof.Machine

/-! ## PRINTER_SERVICE (R53 to R55) -/

namespace Sys2Proof.Machine

/-! ### The service field in an arbiter's run (R50, R55) -/

/-- The printer's leaving-service flag is clear and its service field is `b`. -/
structure ServiceStays (p : Fin 32) (b : Bool) (t : State) : Prop where
  leaving : (t.disp p).leaving = false
  service : (t.printer p).inService = b

section ServiceStays

variable {s t : State} {i : Fin 128} {x : Job} {p q : Fin 32} {b : Bool}

theorem ServiceStays.of_records (h : ServiceStays p b s) (hd : (t.disp p).leaving = (s.disp p).leaving)
    (hp : (t.printer p).inService = (s.printer p).inService) : ServiceStays p b t :=
  ⟨hd.trans h.leaving, hp.trans h.service⟩

theorem ServiceStays.setDisp (h : ServiceStays p b s) {d : Dispatch} (hd : d.leaving = (s.disp q).leaving) :
    ServiceStays p b (s.setDisp q d) := by
  refine h.of_records ?_ rfl
  rw [State.disp_setDisp]
  split
  · next e => rw [e, hd]
  · rfl

theorem ServiceStays.setPrinter (h : ServiceStays p b s) {r : Printer} (hr : r.inService = (s.printer q).inService) :
    ServiceStays p b (s.setPrinter q r) := by
  refine h.of_records rfl ?_
  rw [State.printer_setPrinter]
  split
  · next e => rw [e, hr]
  · rfl

theorem ServiceStays.setJob (h : ServiceStays p b s) {o : Option Job} : ServiceStays p b (s.setJob i o) :=
  h.of_records rfl rfl

theorem ServiceStays.release (h : ServiceStays p b s) (hx : s.job i = some x) (q : Fin 32) (pos : Nat × Nat) (e : Nat) :
    ServiceStays p b (s.release i q x.account pos e) := by
  rw [release_eq hx]
  have moved : ServiceStays p b ((s.reserve x.account e).setDisp q
      { s.disp q with window := (s.disp q).window ++ [entryFor (s.printer q) i pos e] }) :=
    ServiceStays.setDisp (s := s.reserve x.account e) (h.of_records rfl rfl) rfl
  refine ServiceStays.setJob (moved.setPrinter ?_)
  rfl

/-- R50, R59: a printer that is not leaving service stays IN, or OUT, as a job comes off it. -/
theorem ServiceStays.gateFailed (h : ServiceStays p b s) (hx : s.job i = some x) (q : Fin 32) :
    ServiceStays p b (s.gateFailed i q x.account) := by
  have shut : ServiceStays p b (s.gateShut i x) := h.of_records (by rw [disp_gateShut]) (by rw [printer_gateShut])
  by_cases hw : (s.disp q).window = []
  · rw [gateFailed_empty hx hw]
    by_cases hq : p = q
    · subst hq
      refine ⟨congrArg Dispatch.leaving ((State.disp_setDisp ..).trans (if_pos rfl)), ?_⟩
      refine (congrArg Printer.inService ((State.printer_setPrinter ..).trans (if_pos rfl))).trans ?_
      show ((s.printer p).inService && !(s.disp p).leaving) = b
      rw [h.leaving, h.service]
      exact Bool.and_true b
    · exact shut.of_records (congrArg Dispatch.leaving ((State.disp_setDisp ..).trans (if_neg hq)))
        (congrArg Printer.inService ((State.printer_setPrinter ..).trans (if_neg hq)))
  · rwa [gateFailed_draining hx hw]

theorem ServiceStays.releaseLoop (h : ServiceStays p b s) (i : Fin 128) (n : Nat) :
    ServiceStays p b (State.releaseLoop n i s) :=
  releaseLoop_kept i (fun q pos e hx ht => ht.release hx q pos e) (fun q hx ht => ht.gateFailed hx q) n h

theorem ServiceStays.assign (h : ServiceStays p b s) (k : Fin 16) (q : Fin 32) (i : Fin 128) :
    ServiceStays p b (s.assign k q i) := by
  have printing : ServiceStays p b ((s.leaveQueue k i).modJob i (printingOn q)) :=
    h.of_records (congrArg Dispatch.leaving (State.disp_modJob ..)) (congrArg Printer.inService (State.printer_modJob ..))
  have given : ServiceStays p b (s.assigned k q i) := printing.setDisp (by rw [State.disp_modJob]; rfl)
  rw [assign_eq]
  exact given.releaseLoop i _

theorem ServiceStays.arbiterLoop (k : Fin 16) : ∀ (n : Nat) {t : State}, ServiceStays p b t →
    ServiceStays p b (State.arbiterLoop n k t)
  | 0, _, h => h
  | n + 1, t, h => by
    unfold State.arbiterLoop
    split
    · exact h
    next q i _ =>
    have pointed : ServiceStays p b (t.setPool k { t.pool k with pointer := q }) := h.of_records rfl rfl
    exact ServiceStays.arbiterLoop k n (pointed.assign k q i)

theorem ServiceStays.runArbiter (h : ServiceStays p b s) (k : Fin 16) : ServiceStays p b (s.runArbiter k) :=
  kept_ite (h.arbiterLoop k _) h

theorem ServiceStays.offerPrinter (h : ServiceStays p b s) (q : Fin 32) : ServiceStays p b (s.offerPrinter q) := by
  unfold State.offerPrinter
  split
  · split
    · exact h.runArbiter _
    · exact h
  · exact h

theorem ServiceStays.tryReleases (h : ServiceStays p b s) (i : Fin 128) : ServiceStays p b (s.tryReleases i) := by
  unfold State.tryReleases
  split
  · split
    · next q _ =>
      have tried := h.releaseLoop i (s.releaseTries q)
      exact kept_ite tried (tried.offerPrinter q)
    · exact h
  · exact h

end ServiceStays

/-! ### OUT (R54, R55) -/

section Service

variable {s : State} {j : Fin 128} {x : Job} {p : Fin 32}

theorem serviceOut_free (ha : (s.disp p).assigned = none) : s.serviceOut p = s.setService p false := by
  unfold State.serviceOut
  simp only [ha]

theorem serviceOut_again (ha : (s.disp p).assigned ≠ none) (hl : (s.disp p).leaving = true) : s.serviceOut p = s := by
  obtain ⟨j, ha⟩ := Option.ne_none_iff_exists'.1 ha
  unfold State.serviceOut
  simp only [ha, hl, if_true]

theorem serviceOut_some (ha : (s.disp p).assigned = some j) (hl : (s.disp p).leaving = false) (hx : s.job j = some x) :
    s.serviceOut p =
      if x.phase = .printing then (s.setLeaving p true).drainForService p j x else s.setLeaving p true := by
  have hx' : (s.setLeaving p true).job j = some x := hx
  unfold State.serviceOut
  simp only [ha, hl, hx', Bool.false_eq_true, if_false]

/-- R53, R55: the job drains for SERVICE; a displaced drain for BUDGET is tested. -/
def State.drainedForService (s : State) (j : Fin 128) (x : Job) : State :=
  if x.drain = some .budget then (s.setJob j (some { x with drain := some .service })).budgetTest x.account
  else s.setJob j (some { x with drain := some .service })

theorem drainedForService_alertOnly (s : State) (j : Fin 128) (x : Job) :
    AlertOnly (s.setJob j (some { x with drain := some .service })) (s.drainedForService j x) :=
  kept_ite (P := AlertOnly _) (budgetTest_alertOnly _ _) (.refl _)

theorem drainForService_eq (s : State) (p : Fin 32) (j : Fin 128) (x : Job) : s.drainForService p j x =
    if (s.disp p).window = [] then (s.drainedForService j x).endDrain j p else s.drainedForService j x := by
  have hd : (s.drainedForService j x).disp p = s.disp p := by
    rw [drainedForService_alertOnly]
    rfl
  show (if ((s.drainedForService j x).disp p).window.isEmpty then _ else s.drainedForService j x) = _
  rw [hd]
  exact if_congr List.isEmpty_iff rfl rfl

/-- R54, R55: the drain for SERVICE ends: the printer is OUT and stays without a job. -/
theorem endDrain_drainedForService (s : State) (j : Fin 128) (x : Job) (hl : (s.disp p).leaving = true) :
    Stands p (unassigned (s.disp p)) (afterUnassign (s.printer p) (s.disp p))
      ((s.drainedForService j x).endDrain j p) ∧ (afterUnassign (s.printer p) (s.disp p)).inService = false := by
  have out : (afterUnassign (s.printer p) (s.disp p)).inService = false := by
    unfold afterUnassign
    rw [hl]
    exact Bool.and_false _
  have alerts := drainedForService_alertOnly s j x
  have hd : (s.drainedForService j x).disp p = s.disp p := by rw [alerts]; rfl
  have hp : (s.drainedForService j x).printer p = s.printer p := by rw [alerts]; rfl
  have hj : (s.drainedForService j x).job j = some { x with drain := some .service } := by
    rw [alerts]
    exact (jobSet_setJob s j _).self
  have ended := stands_endDrain (p := p) hj (by rw [hd, hp]; exact .inr out)
  rw [hd, hp] at ended
  exact ⟨ended, out⟩

/-! ### IN (R53, R55) -/

theorem serviceIn_same (h : ((s.disp p).assigned = none ∧ (s.printer p).inService = true) ∨
    ((s.disp p).assigned ≠ none ∧ (s.disp p).leaving = false)) : s.serviceIn p = s := by
  unfold State.serviceIn
  rcases h with ⟨ha, hs⟩ | ⟨ha, hl⟩
  · simp only [ha, hs, if_true]
  · obtain ⟨j, ha⟩ := Option.ne_none_iff_exists'.1 ha
    simp only [ha, hl, Bool.false_eq_true, if_false]

theorem serviceIn_free (ha : (s.disp p).assigned = none) (hs : (s.printer p).inService = false) :
    s.serviceIn p = (s.setService p true).offerPrinter p := by
  unfold State.serviceIn
  simp only [ha, hs, Bool.false_eq_true, if_false]

theorem serviceIn_leaving (ha : (s.disp p).assigned = some j) (hl : (s.disp p).leaving = true) :
    s.serviceIn p = (s.setLeaving p false).undrainService j := by
  unfold State.serviceIn
  simp only [ha, hl, if_true]

theorem undrainService_same (hx : s.job j = some x) (h : ¬(x.phase = .printing ∧ x.drain = some .service)) :
    s.undrainService j = s := by
  unfold State.undrainService
  simp only [hx]
  exact if_neg h

theorem undrainService_some (hx : s.job j = some x) (hp : x.phase = .printing) (hd : x.drain = some .service) :
    s.undrainService j = if x.holds.operator then s.setJob j (some { x with drain := some .hold })
      else (s.setJob j (some (undrained x))).tryReleases j := by
  unfold State.undrainService
  simp only [hx]
  exact if_pos ⟨hp, hd⟩

theorem keptByTries_notDrainingForService : KeptByTries fun x => x.drain ≠ some .service where
  released h := h
  draining _ := nofun
  heldForBudget _ := nofun
  printing _ _ := nofun

/-! ### The commands -/

theorem commandService_none {n : Byte} (h : 32 ≤ n.toNat) (token : Byte) (f : State → Fin 32 → State) :
    s.commandService token n f = s.hand (.commandReply token 8#8 .badIndex []) :=
  dif_neg (by omega)

theorem commandService_some {n : Byte} (h : p.val = n.toNat) (token : Byte) (f : State → Fin 32 → State) :
    s.commandService token n f = (f s p).hand (.commandReply token 8#8 .ok []) := by
  have hn : n.toNat < 32 := h ▸ p.isLt
  have hp : ⟨n.toNat, hn⟩ = p := Fin.ext h.symm
  refine (dif_pos hn).trans ?_
  rw [hp]
  rfl

theorem exec_printerServiceOut (h : s.jli.restart = none) (token n : Byte) :
    exec (.printerServiceOut token n) s =
      .next (s.silenceRule.commandService token n State.serviceOut).serviceLines :=
  congrArg Host.Outcome.next (onFrame_running h _)

theorem exec_printerServiceIn (h : s.jli.restart = none) (token n : Byte) :
    exec (.printerServiceIn token n) s =
      .next (s.silenceRule.commandService token n State.serviceIn).serviceLines :=
  congrArg Host.Outcome.next (onFrame_running h _)

end Service

end Sys2Proof.Machine

/-! ## PRINTER writes, account requests and PRINTER_SERVICE together (R55, R88, R89, R128 to R131) -/

namespace Sys2Proof.Machine

section Requests

variable {s u : State} (hs : s.jli.restart = none) (hu : u = s.silenceRule) (token : Byte)
include hs hu

/-- R88: the interlocks of a PRINTER write. -/
theorem printerWrite_refused {p : Fin 32} {e : PrinterEntry}
    (h : (u.disp p).assigned ≠ none ∨ u.namesDisabledPool (storedPrinter e) = true) :
    ∃ t, exec (.printerWrite token (indexOf p.val) [e]) s = .next t ∧
      LinesOnly (u.hand (.commandReply token 0#8 .interlock [0#8])) t := by
  refine ⟨_, exec_printerWrite hs token _ _, ?_⟩
  rw [← hu, writeEntries_one_refused p.isLt (by omega) (by omega) token (writePrinter_refused h)]
  exact linesOnly_serviceLines _

theorem printerWrite_taken {p : Fin 32} {e : PrinterEntry} (ha : (u.disp p).assigned = none)
    (hn : u.namesDisabledPool (storedPrinter e) = false) :
    ∃ t, exec (.printerWrite token (indexOf p.val) [e]) s = .next t ∧
      LinesOnly ((u.writtenPrinter p (storedPrinter e)).hand (.commandReply token 0#8 .ok [1#8])) t := by
  refine ⟨_, exec_printerWrite hs token _ _, ?_⟩
  rw [← hu, writeEntries_one_taken p.isLt (by omega) (by omega) token (writePrinter_taken ha hn)]
  exact linesOnly_serviceLines _

theorem adjust_answered (n : Half) (amount : BitVec 32) :
    ∃ t, exec (.adjust token n amount) s = .next t ∧ LinesOnly (u.commandAdjust token n amount) t :=
  ⟨_, exec_adjust hs token n amount, hu ▸ linesOnly_serviceLines _⟩

theorem closePeriod_answered (n : Half) :
    ∃ t, exec (.closePeriod token n) s = .next t ∧ LinesOnly (u.commandClosePeriod token n) t :=
  ⟨_, exec_closePeriod hs token n, hu ▸ linesOnly_serviceLines _⟩

theorem closePeriodAll_answered :
    ∃ t, exec (.closePeriodAll token) s = .next t ∧ LinesOnly (u.commandCloseAll token) t :=
  ⟨_, exec_closePeriodAll hs token, hu ▸ linesOnly_serviceLines _⟩

theorem printerServiceOut_answered (n : Byte) :
    ∃ t, exec (.printerServiceOut token n) s = .next t ∧
      LinesOnly (u.commandService token n State.serviceOut) t :=
  ⟨_, exec_printerServiceOut hs token n, hu ▸ linesOnly_serviceLines _⟩

theorem printerServiceIn_answered (n : Byte) :
    ∃ t, exec (.printerServiceIn token n) s = .next t ∧
      LinesOnly (u.commandService token n State.serviceIn) t :=
  ⟨_, exec_printerServiceIn hs token n, hu ▸ linesOnly_serviceLines _⟩

end Requests

theorem dispatchOnly_accountChange (s : State) (a : Fin 512) : DispatchOnly s (s.accountChange a) :=
  (keepsDispatch_only s).accountChange a (.refl s)

theorem dispatchOnly_accountChanges (s : State) (l : List (Fin 512)) : DispatchOnly s (l.foldl State.accountChange s) :=
  State.each_kept (P := DispatchOnly s) (fun t a ht => ht.trans (dispatchOnly_accountChange t a)) l (.refl s)

section Effects

variable {u : State} {p : Fin 32} {j : Fin 128} {x : Job} {c : PrinterConfig}

theorem dispatchOnly_configured (hc : c.configured = true) (hx : (u.printer p).config.configured = false) :
    DispatchOnly (u.configure p c) (u.writtenPrinter p c) := by
  rw [State.writtenPrinter, storePrinter_configures hc hx]
  exact dispatchOnly_refreshed _ p

theorem dispatchOnly_unconfigured (hc : c.configured = false) (hx : (u.printer p).config.configured = true) :
    DispatchOnly (u.unconfigured p c) (u.writtenPrinter p c) := by
  rw [State.writtenPrinter, storePrinter_unconfigures hc hx, unconfigure_eq]
  exact (alertOnly_clearPrinterAlerts _ p).dispatchOnly.trans (dispatchOnly_refreshed _ p)

theorem printer_writtenPrinter_unconfigured (hc : c.configured = false) (hx : (u.printer p).config.configured = true) :
    (u.writtenPrinter p c).printer p = (u.unconfigured p c).printer p := by
  rw [(stopOnly_writtenPrinter_unconfigured hc hx).printer, alertOnly_clearPrinterAlerts]
  rfl

/-- R89: none of the five alerts of an unconfigured printer is left active. -/
theorem inactive_writtenPrinter_unconfigured (hc : c.configured = false)
    (hx : (u.printer p).config.configured = true) (ha : AlertsOk u.arl) {cls : AlertClass} (hcls : cls ∈ downClasses) :
    (u.writtenPrinter p c).entriesActive (printerKey p cls) false :=
  entriesActive_of_arl (stopOnly_writtenPrinter_unconfigured hc hx).arl
    (entriesActive_clearPrinterAlerts (s := u.unconfigured p c) ha hcls)

/-- R55: OUT, for a printer whose PRINTING job has nothing in the window. -/
theorem serviceOut_ends (ha : (u.disp p).assigned = some j) (hl : (u.disp p).leaving = false) (hx : u.job j = some x)
    (hp : x.phase = .printing) (hw : (u.disp p).window = []) :
    u.serviceOut p = ((u.setLeaving p true).drainedForService j x).endDrain j p ∧
      ((u.serviceOut p).printer p).inService = false ∧ ((u.serviceOut p).disp p).assigned = none ∧
      ((u.serviceOut p).disp p).leaving = false := by
  have leaving : (u.setLeaving p true).disp p = { u.disp p with leaving := true } :=
    (State.disp_setDisp ..).trans (if_pos rfl)
  have drained : u.serviceOut p = ((u.setLeaving p true).drainedForService j x).endDrain j p := by
    rw [serviceOut_some ha hl hx, if_pos hp, drainForService_eq, leaving, if_pos hw]
  obtain ⟨stands, out⟩ := endDrain_drainedForService (p := p) (u.setLeaving p true) j x (by rw [leaving])
  rw [← drained] at stands
  exact ⟨drained, by rw [stands.printer, out], by rw [stands.disp]; rfl, by rw [stands.disp]; rfl⟩

/-- R55: OUT, for one that has sheets in the window. -/
theorem serviceOut_drains (ha : (u.disp p).assigned = some j) (hl : (u.disp p).leaving = false) (hx : u.job j = some x)
    (hp : x.phase = .printing) (hw : (u.disp p).window ≠ []) :
    u.serviceOut p = (u.setLeaving p true).drainedForService j x := by
  have leaving : (u.setLeaving p true).disp p = { u.disp p with leaving := true } :=
    (State.disp_setDisp ..).trans (if_pos rfl)
  rw [serviceOut_some ha hl hx, if_pos hp, drainForService_eq, leaving, if_neg hw]

/-- R55: IN, on an OUT printer with no job: it is offered, and stays IN unless it was leaving service. -/
theorem serviceIn_offered (ha : (u.disp p).assigned = none) (hs : (u.printer p).inService = false) :
    DispatchOnly (u.setService p true) (u.serviceIn p) ∧
      ((u.disp p).leaving = false → ((u.serviceIn p).printer p).inService = true) := by
  rw [serviceIn_free ha hs]
  refine ⟨(keepsDispatch_only _).offerPrinter p (.refl _), fun hl => ?_⟩
  have stays : ServiceStays p true (u.setService p true) :=
    ⟨hl, congrArg Printer.inService ((State.printer_setPrinter ..).trans (if_pos rfl))⟩
  exact (stays.offerPrinter p).service

/-- R53, R55: IN, for a job that drained for SERVICE and is not held by the OPERATOR: it feeds again. -/
theorem tryReleases_undrained (u : State) (p : Fin 32) (j : Fin 128) (x : Job) :
    DispatchOnly ((u.setLeaving p false).setJob j (some (undrained x)))
        (((u.setLeaving p false).setJob j (some (undrained x))).tryReleases j) ∧
      ((((u.setLeaving p false).setJob j (some (undrained x))).tryReleases j).disp p).leaving = false ∧
      ∃ z, (((u.setLeaving p false).setJob j (some (undrained x))).tryReleases j).job j = some z ∧
        z.drain ≠ some .service := by
  have stays : ServiceStays p (u.printer p).inService ((u.setLeaving p false).setJob j (some (undrained x))) :=
    ⟨congrArg Dispatch.leaving ((State.disp_setDisp ..).trans (if_pos rfl)), rfl⟩
  exact ⟨(keepsDispatch_only _).tryReleases j (.refl _), (stays.tryReleases j).leaving,
    keptByTries_notDrainingForService.tryReleases j ⟨_, (jobSet_setJob _ j _).self, nofun⟩⟩

end Effects

/-- Settles O32: what a PRINTER write, ADJUST, CLOSE_PERIOD and PRINTER_SERVICE answer, and what each makes of the state. -/
theorem printerAndAccountRequests : Obligations.PrinterAndAccountRequests := by
  intro s u token hs hu
  refine ⟨fun p e c x hx hc => ⟨fun h => ?_, fun ha hn => ?_⟩, fun n amount h => ⟨?_, ?_⟩, fun a amount z w hv hz hw => ?_,
    fun a w hv hw => ?_, fun l hl => ?_, fun n hn => ⟨?_, ?_⟩, fun n p d hp hd => ⟨?_, ?_⟩⟩
  · obtain rfl : storedPrinter e = c := hc.symm
    exact printerWrite_refused hs hu token (h.imp_right namesDisabledPool_iff.2)
  · obtain rfl : storedPrinter e = c := hc.symm
    have allowed : u.namesDisabledPool (storedPrinter e) = false := by
      refine Bool.eq_false_iff.2 fun h => ?_
      obtain ⟨k, hk, hpool, hoff⟩ := namesDisabledPool_iff.1 h
      exact Bool.false_ne_true (hoff.symm.trans (hn k hk hpool))
    obtain ⟨t, run, lines⟩ := printerWrite_taken hs hu token ha allowed
    subst hx
    by_cases same : (storedPrinter e).configured = (u.printer p).config.configured
    · have stored := writtenPrinter_same same
      refine ⟨_, _, t, run, lines, ?_, fun _ => ⟨rfl, stored, printer_writtenPrinter_same same ha⟩,
        fun hnew hold => absurd (hnew.symm.trans (same.trans hold)) (by decide),
        fun hnew hold => absurd (hnew.symm.trans (same.trans hold)) (by decide)⟩
      rw [stored]
      exact dispatchOnly_refreshed _ p
    cases hold : (u.printer p).config.configured with
    | false =>
      have hnew : (storedPrinter e).configured = true := Bool.eq_true_of_not_eq_false fun h => same (h.trans hold.symm)
      exact ⟨_, _, t, run, lines, dispatchOnly_configured hnew hold, fun h => absurd h (by rw [hnew]; decide),
        fun _ _ => ⟨rfl, (stopOnly_writtenPrinter_configured hnew hold).printer p⟩, fun _ h => nomatch h⟩
    | true =>
      have hnew : (storedPrinter e).configured = false := Bool.eq_false_of_not_eq_true fun h => same (h.trans hold.symm)
      exact ⟨_, _, t, run, lines, dispatchOnly_unconfigured hnew hold, fun h => absurd h (by rw [hnew]; decide),
        fun _ h => (nomatch h), fun _ _ => ⟨rfl, printer_writtenPrinter_unconfigured hnew hold,
          fun hok a hmem cls hcls => inactive_writtenPrinter_unconfigured hnew hold hok hcls a hmem⟩⟩
  · rw [← commandAdjust_none token amount (validAccount_none h)]
    exact adjust_answered hs hu token n amount
  · rw [← commandClosePeriod_none token (validAccount_none h)]
    exact closePeriod_answered hs hu token n
  · subst hz hw
    obtain ⟨t, run, lines⟩ := adjust_answered hs hu token (indexOf a.val) amount
    rw [commandAdjust_some token amount (validAccount_some hv)] at lines
    exact ⟨t, run, dispatchOnly_accountChange _ a, lines⟩
  · subst hw
    obtain ⟨t, run, lines⟩ := closePeriod_answered hs hu token (indexOf a.val)
    rw [commandClosePeriod_some token (validAccount_some hv)] at lines
    exact ⟨t, run, dispatchOnly_accountChange _ a, lines⟩
  · obtain rfl : u.validAccounts = l := hl.symm
    obtain ⟨t, run, lines⟩ := closePeriodAll_answered hs hu token
    rw [commandCloseAll_eq] at lines
    refine ⟨u.closeEach u.validAccounts, t, run, closeEach_only u _, fun a => ?_, ?_, ?_⟩
    · rw [account_closeEach]
      exact if_congr mem_validAccounts rfl rfl
    · exact dispatchOnly_accountChanges _ _
    · simpa only [State.summedLine, sumBytes_eq] using lines
  · rw [← commandService_none hn token State.serviceOut]
    exact printerServiceOut_answered hs hu token n
  · rw [← commandService_none hn token State.serviceIn]
    exact printerServiceIn_answered hs hu token n
  · obtain ⟨t, run, lines⟩ := printerServiceOut_answered hs hu token n
    rw [commandService_some hp] at lines
    subst hd
    refine ⟨u.serviceOut p, t, run, lines, serviceOut_free, serviceOut_again, ?_⟩
    rintro j x w ha hl hx rfl
    refine ⟨fun hc => ?_, fun hp hw => ?_, fun hp hw => ?_⟩
    · rw [serviceOut_some ha hl hx, if_neg (by rw [hc]; nofun)]
      rfl
    · exact serviceOut_drains ha hl hx hp hw
    · obtain ⟨drained, ended⟩ := serviceOut_ends ha hl hx hp hw
      have alerts := drainedForService_alertOnly (u.setLeaving p true) j x
      exact ⟨drained, drained ▸ (keepsDispatch_only _).endDrain j p alerts.dispatchOnly, ended⟩
  · obtain ⟨t, run, lines⟩ := printerServiceIn_answered hs hu token n
    rw [commandService_some hp] at lines
    subst hd
    refine ⟨u.serviceIn p, t, run, lines, serviceIn_same, fun ha hout => ?_, ?_⟩
    · obtain ⟨only, stays⟩ := serviceIn_offered ha hout
      exact ⟨only, serviceIn_free ha hout, stays⟩
    · rintro j x w y ha hl hx rfl rfl
      have hx' : (u.setLeaving p false).job j = some x := hx
      refine ⟨fun h => ?_, fun hp hd ho => ?_, fun hp hd ho => ?_⟩
      · rw [serviceIn_leaving ha hl, undrainService_same hx' h]
        rfl
      · rw [serviceIn_leaving ha hl, undrainService_some hx' hp hd, if_pos ho]
        rfl
      · have feeds : u.serviceIn p = ((u.setLeaving p false).setJob j (some (undrained x))).tryReleases j := by
          rw [serviceIn_leaving ha hl, undrainService_some hx' hp hd, if_neg (by rw [ho]; decide)]
        rw [feeds]
        exact ⟨rfl, tryReleases_undrained u p j x⟩

end Sys2Proof.Machine

/-! ## The charge arithmetic: estimates, side totals, charges, the gate and the meters (R112 to R116, R122, R132) -/

namespace Sys2Proof.Machine

section ChargeArithmetic

variable (c : TariffClass) (z m : Fin 4)

/-! ### Rates and estimates (R106, R112) -/

theorem surchargeOf_le : surchargeOf c m ≤ 65535 := Nat.le_of_lt_succ (BitVec.isLt _)

theorem rateOf_le_dearerRate (k : Ink) : rateOf c z k ≤ dearerRate c z := by
  cases k
  · exact Nat.le_max_left _ _
  · exact Nat.le_max_right _ _

/-- R112: the declared sides decide only between the estimate of one side and that of two. -/
theorem estimate_of_ne_one {d : Nat} (h : d ≠ 1) :
    estimate c d z m = dearerRate c z + rebated c (dearerRate c z) + surchargeOf c m := if_neg h

/-- R112: the tier percent does not enter the estimate. -/
theorem estimate_tier (d : Nat) (tier : Byte) : estimate { c with tier := tier } d z m = estimate c d z m := rfl

/-! ### Percentages (R115) -/

theorem percentOf_zero (x : Nat) : percentOf x 0 = 0 := by
  unfold percentOf
  omega

theorem percentOf_hundred (x : Nat) : percentOf x 100 = x := by
  unfold percentOf
  omega

theorem percentOf_le {p : Nat} (x : Nat) (h : p ≤ 100) : percentOf x p ≤ x := by
  have hp : x * p ≤ x * 100 := Nat.mul_le_mul_left x h
  unfold percentOf
  omega

theorem percentOf_mono {x y : Nat} (p : Nat) (h : x ≤ y) : percentOf x p ≤ percentOf y p :=
  Nat.div_le_div_right (Nat.add_le_add_right (Nat.mul_le_mul_right p h) 50)

/-- R115: an exact half is raised. -/
theorem percentOf_half {x p : Nat} (h : x * p % 100 = 50) : percentOf x p = x * p / 100 + 1 := by
  unfold percentOf
  omega

/-! ### The side total (R113) -/

theorem rebated_mono {x y : Nat} (h : x ≤ y) : rebated c x ≤ rebated c y := percentOf_mono _ h

theorem rebated_of_no_rebate (h : c.rebate = 0#8) (x : Nat) : rebated c x = x := by
  rw [rebated, h]
  exact percentOf_hundred x

theorem rebated_of_full_rebate (h : c.rebate = 100#8) (x : Nat) : rebated c x = 0 := by
  rw [rebated, h]
  exact percentOf_zero x

theorem sideTotal_two (k1 k2 : Ink) : sideTotal c z [k1, k2] =
    max (rateOf c z k1) (rateOf c z k2) + rebated c (min (rateOf c z k1) (rateOf c z k2)) := rfl

/-- R113: whichever side is the front. -/
theorem sideTotal_swap (k1 k2 : Ink) : sideTotal c z [k1, k2] = sideTotal c z [k2, k1] := by
  rw [sideTotal_two, sideTotal_two, max_comm, min_comm]

/-- R113: with no rebate both sides pay in full. -/
theorem sideTotal_of_no_rebate (h : c.rebate = 0#8) (k1 k2 : Ink) :
    sideTotal c z [k1, k2] = rateOf c z k1 + rateOf c z k2 := by
  rw [sideTotal_two, rebated_of_no_rebate c h, max_add_min]

/-- R113: with a rebate of 100 the cheaper side is free. -/
theorem sideTotal_of_full_rebate (h : c.rebate = 100#8) (k1 k2 : Ink) :
    sideTotal c z [k1, k2] = max (rateOf c z k1) (rateOf c z k2) := by
  rw [sideTotal_two, rebated_of_full_rebate c h, Nat.add_zero]

/-! ### Ranges of the charge, and the estimate above it (R114 to R116) -/

/-- R115: whatever was printed pays at most two sides at the dearer rate. -/
theorem sideTotal_le_two_sides (printed : List Ink) :
    sideTotal c z printed ≤ dearerRate c z + rebated c (dearerRate c z) := by
  match printed with
  | [] => exact Nat.zero_le _
  | [k] => exact Nat.le_add_right_of_le (rateOf_le_dearerRate c z k)
  | k1 :: k2 :: _ =>
    have h1 := rateOf_le_dearerRate c z k1
    exact Nat.add_le_add (Nat.max_le.2 ⟨h1, rateOf_le_dearerRate c z k2⟩)
      (rebated_mono c (Nat.le_trans (Nat.min_le_left _ _) h1))

/-- R116: at most one side printed pays at most the dearer rate. -/
theorem sideTotal_take_one (printed : List Ink) : sideTotal c z (printed.take 1) ≤ dearerRate c z := by
  match printed with
  | [] => exact Nat.zero_le _
  | k :: _ => exact rateOf_le_dearerRate c z k

theorem sideTotal_le (printed : List Ink) : sideTotal c z printed ≤ 131070 := by
  have dearer := dearerRate_le c z
  have total := sideTotal_le_two_sides c z printed
  have second := rebated_le c dearer
  omega

/-- R114, R116: the tier takes nothing above the subtotal. -/
theorem charge_le_subtotal (ht : c.tier.toNat ≤ 100) (printed : List Ink) (tier : Bool) :
    charge c z m printed tier ≤ sideTotal c z printed + surchargeOf c m := by
  cases tier
  · exact Nat.le_refl _
  · exact percentOf_le _ ht

/-- R116: the sides charged are those of the estimate at most. -/
theorem subtotal_le_estimate {d : Nat} (hd : d = 1 ∨ d = 2) (printed : List Ink) :
    sideTotal c z (printed.take d) + surchargeOf c m ≤ estimate c d z m := by
  rcases hd with rfl | rfl
  · exact Nat.add_le_add_right (sideTotal_take_one c z printed) _
  · exact Nat.add_le_add_right (sideTotal_le_two_sides c z _) _

theorem rebated_product_le (k : Ink) : rateOf c z k * (100 - c.rebate.toNat) + 50 ≤ 6553550 := by
  have product : rateOf c z k * (100 - c.rebate.toNat) ≤ 65535 * 100 :=
    Nat.mul_le_mul (rateOf_le c z k) (Nat.sub_le _ _)
  omega

/-- R115: the largest intermediate of the arithmetic. -/
theorem tier_product_le {total : Nat} (hs : total ≤ 196605) (ht : c.tier.toNat ≤ 100) :
    total * c.tier.toNat + 50 ≤ 19660550 := by
  have product : total * c.tier.toNat ≤ 196605 * 100 := Nat.mul_le_mul hs ht
  omega

end ChargeArithmetic

/-- Settles O51: the estimate by the declared sides, the dearer rate being the larger of the size class's two. -/
theorem estimateOfASheet : Obligations.EstimateOfASheet := by
  rintro c z m _ rfl
  exact ⟨rfl, estimate_of_ne_one c z m (by decide), fun d tier => estimate_tier c z m d tier,
    fun d => estimate_le c d z m⟩

/-- Settles O52: the side total by the sides printed, and the two ends of the rebate. -/
theorem sideTotalOfASheet : Obligations.SideTotalOfASheet := by
  intro c z rate hmono hcolour
  obtain rfl : rate = rateOf c z := funext fun k => by
    cases k
    · exact hmono
    · exact hcolour
  exact ⟨sideTotal_two c z, fun _ => rfl, rfl, sideTotal_swap c z,
    fun k1 k2 h => sideTotal_of_no_rebate c z h k1 k2, fun k1 k2 h => sideTotal_of_full_rebate c z h k1 k2⟩

/-- Settles O53: each range from those of its parts, and the charge under the subtotal under the estimate. -/
theorem chargeStaysInItsRangeAndUnderTheEstimate : Obligations.ChargeStaysInItsRangeAndUnderTheEstimate := by
  intro c z m _ ht
  have subtotal (printed : List Ink) : sideTotal c z printed + surchargeOf c m ≤ 196605 :=
    Nat.add_le_add (sideTotal_le c z printed) (surchargeOf_le c m)
  refine ⟨fun x p => ⟨rfl, percentOf_half⟩,
    fun k => ⟨rateOf_le c z k, rebated_le c (rateOf_le c z k), rebated_product_le c z k⟩,
    fun printed => ⟨sideTotal_le c z printed, subtotal printed, tier_product_le c (subtotal printed) ht, fun tier => ?_⟩,
    fun d => estimate_le c d z m, fun d printed tier hd => ?_⟩
  · exact Nat.le_trans (charge_le_subtotal c z m ht printed tier) (subtotal printed)
  · exact Nat.le_trans (charge_le_subtotal c z m ht _ tier) (subtotal_le_estimate c z m hd printed)

/-! ### The gate, the tier and the meters (R114, R122, R132) -/

theorem gatePasses_iff (a : Account) (e : Nat) : gatePasses a e = true ↔ a.blocked = false ∧
    (a.unlimited = true ∨ a.balance - (a.reserved : Int) - (e : Int) ≥ -(a.overdraft : Int)) := by
  rw [gatePasses, Bool.and_eq_true, Bool.not_eq_true', Bool.or_eq_true, decide_eq_true_iff]

theorem tierApplies_iff (a : Account) : tierApplies a = true ↔ ∃ n, a.threshold = some n ∧ n ≤ a.periodSheets := by
  unfold tierApplies
  cases a.threshold with
  | none => simp
  | some t => simp

theorem raiseMeter_below {m : Meter} {n : Nat} (h : m.value + n < 1000000000) :
    raiseMeter m n = { m with value := m.value + n } := if_neg (Nat.not_le.2 h)

/-- R132: a meter at its end rolls over, and so does its count of them. -/
theorem raiseMeter_over {m : Meter} {n : Nat} (hm : m.rolls ≤ 255) (h : 1000000000 ≤ m.value + n) : raiseMeter m n =
    { value := m.value + n - 1000000000, rolls := if m.rolls = 255 then 0 else m.rolls + 1 } := by
  have wraps : m.rolls + 1 > 255 ↔ m.rolls = 255 := by omega
  refine (if_pos h).trans ?_
  simp only [wraps]
  rfl

/-- Settles O54: the gate, the tier, the charge with and without it, and a meter below its end and at it. -/
theorem gateTierAndMeterRules : Obligations.GateTierAndMeterRules := by
  refine ⟨gatePasses_iff, tierApplies_iff, ?_, fun m n hm _ => ⟨raiseMeter_below, raiseMeter_over hm.2⟩⟩
  rintro c z m printed _ rfl
  exact ⟨rfl, rfl⟩

end Sys2Proof.Machine

/-! ## SWAP_TARIFF and ACK_ALERT (R108, R155) -/

namespace Sys2Proof.Machine

/-! ### Queues of different keys (R152) -/

section Queue

variable {k : AlertKey} {l : List AlertEntry} {y : AlertEntry}

theorem hasKey_iff {e : AlertEntry} : hasKey k e = true ↔ e.key = k := beq_iff_eq

/-- R152: where keys differ, no entry behind the one of a key has that key. -/
theorem key_ne_of_first (hfirst : y.key ∉ l.map AlertEntry.key) (hy : y.key = k) : ∀ x ∈ l, x.key ≠ k :=
  fun x hx hk => hfirst (List.mem_map.2 ⟨x, hx, hk.trans hy.symm⟩)

/-- R152: in a queue of different keys, the first entry of a key is its only one. -/
theorem replaceFirst_eq_map (g : AlertEntry → AlertEntry) (hl : (l.map AlertEntry.key).Nodup) :
    replaceFirst (hasKey k) g l = l.map fun x => if x.key = k then g x else x := by
  induction l with
  | nil => rfl
  | cons y l ih =>
    rw [List.map_cons, List.nodup_cons] at hl
    obtain ⟨hfirst, hrest⟩ := hl
    rw [replaceFirst, List.map_cons]
    by_cases hy : y.key = k
    · have others : (l.map fun x => if x.key = k then g x else x) = l :=
        (List.map_congr_left fun x hx => if_neg (key_ne_of_first hfirst hy x hx)).trans (List.map_id l)
      rw [if_pos (hasKey_iff.2 hy), if_pos hy, others]
    · rw [if_neg (mt hasKey_iff.1 hy), if_neg hy, ih hrest]

/-- R152: so with the removal of an entry. -/
theorem eraseP_eq_filter (hl : (l.map AlertEntry.key).Nodup) :
    l.eraseP (hasKey k) = l.filter fun x => x.key != k := by
  induction l with
  | nil => rfl
  | cons y l ih =>
    rw [List.map_cons, List.nodup_cons] at hl
    obtain ⟨hfirst, hrest⟩ := hl
    by_cases hy : y.key = k
    · have others : (l.filter fun x => x.key != k) = l :=
        List.filter_eq_self.2 fun x hx => bne_iff_ne.2 (key_ne_of_first hfirst hy x hx)
      rw [List.eraseP_cons_of_pos (hasKey_iff.2 hy), List.filter_cons_of_neg (by simp [hy]), others]
    · rw [List.eraseP_cons_of_neg (mt hasKey_iff.1 hy), List.filter_cons_of_pos (by simp [hy]), ih hrest]

end Queue

section SwapAndAcknowledge

variable {s u : State} {k : AlertKey} {e : AlertEntry}

/-- R152: the entry of a key is the one that is found. -/
theorem alertFor_of_mem (h : AlertsOk u.arl) (he : e ∈ u.arl.queue) (hk : e.key = k) : u.alertFor k = some e := by
  cases hfound : u.alertFor k with
  | none => exact absurd hk (alertFor_none_iff.1 hfound e he)
  | some x =>
    obtain ⟨hx, hxk⟩ := mem_of_alertFor hfound
    rw [key_inj h.keys hx he (hxk.trans hk.symm)]

/-- R155: what an acknowledgment makes of the queue. -/
theorem acknowledge_eq (h : AlertsOk u.arl) : u.acknowledge k e = { u with arl := { u.arl with
    queue :=
      if e.active then u.arl.queue.map fun x => if x.key = k then { x with acked := true } else x
      else u.arl.queue.filter fun x => x.key != k } } := by
  unfold State.acknowledge
  rw [replaceFirst_eq_map _ h.keys, eraseP_eq_filter h.keys]
  cases e.active <;> rfl

/-! ### SWAP_TARIFF (R108) -/

theorem otherBank_eq {b c : Fin 2} (h : b ≠ c) : otherBank c = b := by
  revert b c
  decide

theorem exec_swapTariff (h : s.jli.restart = none) (token : Byte) :
    exec (.swapTariff token) s = .next (s.silenceRule.commandSwap token).serviceLines :=
  congrArg Host.Outcome.next (onFrame_running h _)

theorem commandSwap_eq (token : Byte) {b : Fin 2} (h : b ≠ u.chg.current) :
    u.commandSwap token = (u.setCurrentBank b).hand (.commandReply token 6#8 .ok [BitVec.ofNat 8 b.val]) := by
  rw [State.commandSwap, otherBank_eq h, beBytes_one]
  rfl

/-! ### ACK_ALERT (R155) -/

theorem exec_ackAlert (h : s.jli.restart = none) (token kind : Byte) (index : Half) (cls : Byte) :
    exec (.ackAlert token kind index cls) s = .next (s.silenceRule.commandAck token kind index cls).serviceLines :=
  congrArg Host.Outcome.next (onFrame_running h _)

variable (token : Byte) {kind cls : Byte} {index : Half}

/-- Assumption log 32: the key of an ACK-ALERT has a meaning where both codes have one. -/
theorem ackKey_eq_some_iff : ackKey kind index cls = some k ↔
    ∃ n c, sourceOfCode kind.toNat = some n ∧ classOfCode cls.toNat = some c ∧
      k = { kind := n, index := index.toNat, cls := c } := by
  unfold ackKey
  cases sourceOfCode kind.toNat <;> cases classOfCode cls.toNat <;> simp [eq_comm]

theorem commandAck_badIndex (h : ∀ k, ackKey kind index cls = some k → u.alertFor k = none) :
    u.commandAck token kind index cls = u.hand (.commandReply token 7#8 .badIndex []) := by
  unfold State.commandAck
  cases hk : ackKey kind index cls with
  | none => rfl
  | some k =>
    simp only [h k hk]
    rfl

theorem commandAck_ok (hk : ackKey kind index cls = some k) (he : u.alertFor k = some e) :
    u.commandAck token kind index cls = (u.acknowledge k e).hand (.commandReply token 7#8 .ok []) := by
  simp only [State.commandAck, hk, he]
  rfl

end SwapAndAcknowledge

/-- Settles O39: the swap of the banks, and the acknowledgment by the entry that the queue holds for the key. -/
theorem swapAndAcknowledge : Obligations.SwapAndAcknowledge := by
  rintro s u token hs rfl
  refine ⟨fun b hb => ⟨_, exec_swapTariff hs token, ?_⟩, fun kind index cls =>
    ⟨fun h => ⟨_, exec_ackAlert hs token kind index cls, ?_⟩,
      fun n c e hn hc ha he hk => ⟨_, exec_ackAlert hs token kind index cls, ?_⟩⟩⟩
  · rw [commandSwap_eq token hb]
    exact linesOnly_serviceLines _
  · have unheld : ∀ k, ackKey kind index cls = some k → s.silenceRule.alertFor k = none := by
      intro k hk
      obtain ⟨n, c, hn, hc, rfl⟩ := ackKey_eq_some_iff.1 hk
      rcases h with h | h | ⟨n', c', hn', hc', absent⟩
      · rw [hn] at h; cases h
      · rw [hc] at h; cases h
      · obtain rfl := Option.some.inj (hn.symm.trans hn')
        obtain rfl := Option.some.inj (hc.symm.trans hc')
        exact alertFor_none_iff.2 absent
    rw [commandAck_badIndex token unheld]
    exact linesOnly_serviceLines _
  · have named : ackKey kind index cls = some e.key := ackKey_eq_some_iff.2 ⟨n, c, hn, hc, hk⟩
    rw [commandAck_ok token named (alertFor_of_mem ha he rfl), acknowledge_eq ha]
    exact linesOnly_serviceLines _

end Sys2Proof.Machine

/-! ## TARIFF writes (R106, R107, R110, R169) -/

namespace Sys2Proof.Machine

/-! ### The classes of a bank (R106, R107, R110) -/

section Classes

variable (s : State) (b : Fin 2)

theorem class_setTariff (i : Fin 16) (c : TariffClass) (b' : Fin 2) (k : Fin 16) :
    ((s.setTariff b i c).chg.banks.get b').get k = if b' = b ∧ k = i then c else (s.chg.banks.get b').get k := by
  rw [State.setTariff_banks, put_get]
  by_cases hb : b' = b
  · subst hb
    simp
  · simp [hb]

/-- R110: the write of classes touches nothing but the banks. -/
theorem writeClasses_only (l : List TariffClass) (i : Nat) (s : State) : State.writeClasses b l i s =
    { s with chg := { s.chg with banks := (State.writeClasses b l i s).chg.banks } } := by
  induction l generalizing i s with
  | nil => rfl
  | cons c l ih =>
    rw [State.writeClasses, ih]
    rfl

/-- R110: every class from index `i` on is stored clamped, and the others stay. -/
theorem class_writeClasses (l : List TariffClass) (i : Nat) (hi : i + l.length ≤ 16) (s : State) (b' : Fin 2)
    (k : Fin 16) : ((State.writeClasses b l i s).chg.banks.get b').get k =
      if b' = b ∧ i ≤ k.val ∧ k.val < i + l.length then
        (l[k.val - i]?.map clampClass).getD ((s.chg.banks.get b').get k)
      else (s.chg.banks.get b').get k := by
  induction l generalizing i s with
  | nil => exact (if_neg (by simp only [List.length_nil]; omega)).symm
  | cons c l ih =>
    rw [List.length_cons] at hi ⊢
    have hval : (Fin.ofNat 16 i).val = i := Nat.mod_eq_of_lt (by omega)
    rw [State.writeClasses, ih (i + 1) (by omega), class_setTariff]
    rcases lt_trichotomy k.val i with hk | hk | hk
    · have other : k ≠ Fin.ofNat 16 i := fun e => by rw [e, hval] at hk; omega
      rw [if_neg (by omega), if_neg fun e => other e.2, if_neg (by omega)]
    · have same : k = Fin.ofNat 16 i := Fin.ext (hk.trans hval.symm)
      rw [if_neg (by omega)]
      by_cases hb : b' = b
      · rw [if_pos ⟨hb, same⟩, if_pos ⟨hb, by omega⟩, hk, Nat.sub_self]
        rfl
      · rw [if_neg fun e => hb e.1, if_neg fun e => hb e.1]
    · have other : k ≠ Fin.ofNat 16 i := fun e => by rw [e, hval] at hk; omega
      have behind : k.val - i = (k.val - (i + 1)) + 1 := by omega
      have unset : ¬(b' = b ∧ k = Fin.ofNat 16 i) := fun e => other e.2
      rw [if_neg unset, behind, List.getElem?_cons_succ]
      exact if_congr (by omega) rfl rfl

end Classes

/-! ### The write of a bank (R110, R169) -/

section Bank

variable {s u : State} {b : Fin 2} {first : Half} {l : List TariffClass}

theorem tableRangeOk_iff {n size : Nat} :
    tableRangeOk first n size = true ↔ 1 ≤ n ∧ n ≤ Config.maxTableCount ∧ first.toNat + n ≤ size := by
  simp [tableRangeOk, and_assoc]

/-- R169: a write in its range is not refused as a whole. -/
theorem writeRefusal_of_tableRangeOk {n size : Nat} (h : tableRangeOk first n size = true) :
    writeRefusal first n size Config.maxTableCount = none := by
  obtain ⟨nonempty, few, fits⟩ := tableRangeOk_iff.1 h
  unfold writeRefusal
  rw [if_neg (by omega), if_neg (by omega), if_neg (by omega)]

theorem exec_tariffWrite (h : s.jli.restart = none) (token : Byte) (b : Fin 2) (first : Half) (l : List TariffClass) :
    exec (.tariffWrite token b first l) s = .next (s.silenceRule.writeBank token b first l).serviceLines :=
  congrArg Host.Outcome.next (onFrame_running h _)

theorem replyWrite_eq (u : State) (token : Byte) (r : Result) (n : Nat) :
    u.replyWrite token r n = u.hand (.commandReply token 0#8 r [BitVec.ofNat 8 n]) := by
  rw [State.replyWrite, beBytes_one]
  rfl

variable (token : Byte) (h : tableRangeOk first l.length 16 = true)
include h

theorem writeBank_current (hc : u.chg.current = b) :
    u.writeBank token b first l = u.hand (.commandReply token 0#8 .bankCurrent [0#8]) := by
  simp only [State.writeBank, writeRefusal_of_tableRangeOk h, if_pos hc, replyWrite_eq]

theorem writeBank_bound (hc : u.chg.current ≠ b) (hb : 0 < u.chg.bound.get b) :
    u.writeBank token b first l = u.hand (.commandReply token 0#8 .bankBound [0#8]) := by
  simp only [State.writeBank, writeRefusal_of_tableRangeOk h, if_neg hc, if_pos hb, replyWrite_eq]

theorem writeBank_taken (hc : u.chg.current ≠ b) (hb : u.chg.bound.get b = 0) :
    u.writeBank token b first l = (State.writeClasses b l first.toNat u).hand
      (.commandReply token 0#8 .ok [BitVec.ofNat 8 l.length]) := by
  simp only [State.writeBank, writeRefusal_of_tableRangeOk h, if_neg hc, hb, Nat.lt_irrefl, if_false, replyWrite_eq]

end Bank

/-- Settles O35: the two refusals, and the classes that a write which is taken has stored. -/
theorem tariffBankWrites : Obligations.TariffBankWrites := by
  rintro s u token b first l hs rfl (inRange : tableRangeOk first l.length 16 = true)
  obtain ⟨_, _, fits⟩ := tableRangeOk_iff.1 inRange
  refine ⟨fun hc => ⟨_, exec_tariffWrite hs token b first l, ?_⟩, fun hc hb => ⟨_, exec_tariffWrite hs token b first l, ?_⟩,
    fun hc hb => ⟨_, _, exec_tariffWrite hs token b first l, ?_, writeClasses_only b l first.toNat _, fun b' k => ?_⟩⟩
  · rw [writeBank_current token inRange hc]
    exact linesOnly_serviceLines _
  · rw [writeBank_bound token inRange hc hb]
    exact linesOnly_serviceLines _
  · rw [writeBank_taken token inRange hc hb]
    exact linesOnly_serviceLines _
  · rw [class_writeClasses b l first.toNat fits]
    refine if_congr Iff.rfl ?_ rfl
    cases l[k.val - first.toNat]? <;> rfl

end Sys2Proof.Machine

/-! ## ACCOUNT writes (R117, R119, R120, R131) -/

namespace Sys2Proof.Machine

/-! ### The interlock of an invalidation and the stored account -/

section Invalidation

variable {s : State} {a : Fin 512} {e : AccountEntry}

/-- R119: an account is held while live jobs are bound to it or a valid route names it as its FIXED account. -/
def State.AccountHeld (s : State) (a : Fin 512) : Prop :=
  0 < (s.account a).bound ∨
    ∃ r, (s.route r).valid = true ∧ (s.route r).fromJob = false ∧ (s.route r).fixedAccount = a

/-- R119: the interlock that `State.writeAccount` tests. -/
theorem accountInterlock_iff : (!e.valid && (decide (0 < (s.account a).bound) || s.fixedBySome a)) = true ↔
    e.valid = false ∧ s.AccountHeld a := by
  rw [Bool.and_eq_true, Bool.not_eq_true', Bool.or_eq_true, decide_eq_true_iff, fixedBySome_iff, State.AccountHeld]

theorem not_accountHeld (hb : (s.account a).bound = 0)
    (hr : ∀ r, (s.route r).valid = true → (s.route r).fromJob = false → (s.route r).fixedAccount ≠ a) :
    ¬s.AccountHeld a := by
  rintro (bound | ⟨r, valid, fixed, named⟩)
  · exact absurd hb (Nat.ne_of_gt bound)
  · exact hr r valid fixed named

/-- R120: the state that holds the account as a write stores it, before any account change. -/
def State.accountStored (s : State) (a : Fin 512) (e : AccountEntry) : State :=
  s.setAccount a (storedAccount (s.account a) e)

theorem writeAccount_refused (hv : e.valid = false) (held : s.AccountHeld a) : s.writeAccount a.val e = none :=
  (dif_pos a.isLt).trans (if_pos (accountInterlock_iff.2 ⟨hv, held⟩))

theorem writeAccount_invalid (hv : e.valid = false) (free : ¬s.AccountHeld a) :
    s.writeAccount a.val e = some (s.accountStored a e) := by
  refine (dif_pos a.isLt).trans ((if_neg fun interlock => free (accountInterlock_iff.1 interlock).2).trans ?_)
  exact congrArg some (if_neg (by rw [hv]; exact Bool.false_ne_true))

/-- R131: a write that leaves the account valid is an account change. -/
theorem writeAccount_valid (hv : e.valid = true) :
    s.writeAccount a.val e = some ((s.accountStored a e).accountChange a) := by
  have noInterlock : ¬(e.valid = false ∧ s.AccountHeld a) := fun ⟨invalid, _⟩ => nomatch hv.symm.trans invalid
  refine (dif_pos a.isLt).trans ((if_neg (mt accountInterlock_iff.1 noInterlock)).trans ?_)
  exact congrArg some (if_pos hv)

end Invalidation

/-! ### The command -/

theorem exec_accountWrite {s : State} (h : s.jli.restart = none) (token : Byte) (first : Half) (l : List AccountEntry) :
    exec (.accountWrite token first l) s =
      .next (s.silenceRule.writeEntries State.writeAccount 512 mostAccounts token first l).serviceLines :=
  congrArg Host.Outcome.next (onFrame_running h _)

section Write

variable {s : State} (hs : s.jli.restart = none) (token : Byte) {a : Fin 512} {e : AccountEntry}
include hs

/-- R169: a refused write of one account is answered INTERLOCK, and nothing is changed. -/
theorem accountWrite_refused (hw : s.silenceRule.writeAccount a.val e = none) :
    ∃ t, exec (.accountWrite token (indexOf a.val) [e]) s = .next t ∧
      LinesOnly (s.silenceRule.hand (.commandReply token 0#8 .interlock [0#8])) t := by
  refine ⟨_, exec_accountWrite hs token _ _, ?_⟩
  rw [writeEntries_one_refused a.isLt (by omega) (by decide) token hw]
  exact linesOnly_serviceLines _

/-- R169: one that is taken is answered OK with the one entry applied. -/
theorem accountWrite_taken {v : State} (hw : s.silenceRule.writeAccount a.val e = some v) :
    ∃ t, exec (.accountWrite token (indexOf a.val) [e]) s = .next t ∧
      LinesOnly (v.hand (.commandReply token 0#8 .ok [1#8])) t := by
  refine ⟨_, exec_accountWrite hs token _ _, ?_⟩
  rw [writeEntries_one_taken a.isLt (by omega) (by decide) token hw]
  exact linesOnly_serviceLines _

end Write

/-- Settles O33: the interlock of an invalidation, the account stored, and the account change of a valid one. -/
theorem accountWrites : Obligations.AccountWrites := by
  intro s u token a e w hs hu hw
  obtain rfl : u.accountStored a e = w := hw.symm
  subst hu
  refine ⟨fun invalid held => accountWrite_refused hs token (writeAccount_refused invalid held),
    fun invalid unbound unnamed =>
      accountWrite_taken hs token (writeAccount_invalid invalid (not_accountHeld unbound unnamed)), fun valid => ?_⟩
  obtain ⟨t, run, lines⟩ := accountWrite_taken hs token (writeAccount_valid valid)
  exact ⟨t, run, dispatchOnly_accountChange _ a, lines⟩

end Sys2Proof.Machine

/-! ## JOB-ABORT and CANCEL-JOB (R13, R145 to R148) -/

namespace Sys2Proof.Machine

section Cancelling

variable {s : State} {i : Fin 15} {j : Fin 128} {x : Job}

/-! ### JOB-ABORT (R13) -/

theorem onJobAbort_opened (h : s.stream i = .opened j) : s.onJobAbort i = s.abortJob i j := by
  simp [State.onJobAbort, h]

/-- R13, R145: the bound job takes the cancellation path. -/
theorem cancelled_abortJob (hx : s.job j = some x) (i : Fin 15) :
    Cancelled s (s.abortJob i j) j x .cancelled .aborted :=
  .of_setStream (cancelled_cancelJob (s := s.setStream i .idle) hx _ _)

/-! ### CANCEL-JOB (R146) -/

theorem exec_cancelJob (h : s.jli.restart = none) (token : Byte) (tag : Half) :
    exec (.cancelJob token tag) s = .next (s.silenceRule.commandCancel token tag).serviceLines :=
  congrArg Host.Outcome.next (onFrame_running h _)

theorem discardStream_eq (s : State) (x : Job) : s.discardStream x = { s with spm := { s.spm with
    streams := match x.stream with
      | some i => put s.spm.streams i .discard
      | none => s.spm.streams } } := by
  unfold State.discardStream
  cases x.stream <;> rfl

/-- R145, R146: the job takes the cancellation path, whether a stream is bound to it or not. -/
theorem cancelled_discardStream (hx : s.job j = some x) (o : JobOutcome) (c : Cause) :
    Cancelled s ((s.discardStream x).cancelJob j o c) j x o c := by
  unfold State.discardStream
  split
  · exact cancelled_fromStream hx o c
  · exact cancelled_cancelJob hx o c

section Answers

variable (token : Byte) {tag : Half}

theorem commandCancel_unknown (h : s.jobWithTag tag = none) :
    s.commandCancel token tag = s.hand (.commandReply token 1#8 .unknownJob []) := by
  simp only [State.commandCancel, h]
  rfl

variable (h : s.jobWithTag tag = some j) (hx : s.job j = some x)
include h hx

theorem commandCancel_cancelling (hc : x.phase = .cancelling) :
    s.commandCancel token tag = s.hand (.commandReply token 1#8 .badState []) := by
  simp only [State.commandCancel, h, hx, if_pos hc]
  rfl

theorem commandCancel_ok (hc : x.phase ≠ .cancelling) : s.commandCancel token tag =
    ((s.discardStream x).cancelJob j .cancelled .operator).hand (.commandReply token 1#8 .ok []) := by
  simp only [State.commandCancel, h, hx, if_neg hc]
  rfl

end Answers

end Cancelling

/-- Settles O22: each command by what it names, and then the cancellation path. -/
theorem cancellationPath : Obligations.CancellationPath := by
  intro s u hs hu
  subst hu
  refine ⟨fun token tag hnone => ⟨_, exec_cancelJob hs token tag, ?_⟩, fun j x hx => ⟨fun i hi _ => ?_, fun token hone => ?_⟩⟩
  · rw [commandCancel_unknown token (jobWithTag_eq_none_iff.2 hnone)]
    exact linesOnly_serviceLines _
  · refine ⟨_, _, exec_jobAbort hs i, linesOnly_serviceLines _, ?_, ?_⟩ <;> rw [onJobAbort_opened hi]
    · exact cancelled_abortJob hx i
    · exact (keepsPrinting_only _).cancelJob j _ _ (.refl _)
  · have hfind := jobWithTag_eq_some hx rfl hone
    refine ⟨fun hc => ⟨_, exec_cancelJob hs token x.tag, ?_⟩, fun hc =>
      ⟨_, _, exec_cancelJob hs token x.tag, ?_, cancelled_discardStream hx _ _, ?_⟩⟩
    · rw [commandCancel_cancelling token hfind hx hc]
      exact linesOnly_serviceLines _
    · rw [commandCancel_ok token hfind hx hc]
      exact linesOnly_serviceLines _
    · rw [discardStream_eq]
      exact (keepsPrinting_only _).cancelJob j _ _ (.refl _)

end Sys2Proof.Machine

/-! ## A printer that gets no job, and the alerts apart from the rest (R47, R152 to R157) -/

namespace Sys2Proof.Machine

/-! ### Alerts read the alert unit and the transmit list alone (R152 to R157, R167) -/

/-- The two states have the same alert unit and the same transmit list. -/
structure SameAlerts (s t : State) : Prop where
  arl : t.arl = s.arl
  jli : t.jli = s.jli

namespace SameAlerts

variable {s t : State} (h : SameAlerts s t)
include h

theorem alertTaken : t.alertTaken = s.alertTaken := by unfold State.alertTaken; rw [h.jli]

theorem alertFor (k : AlertKey) : t.alertFor k = s.alertFor k := by unfold State.alertFor; rw [h.arl]

theorem entriesOf (k : AlertKey) : t.entriesOf k = s.entriesOf k := by unfold State.entriesOf; rw [h.arl]

theorem setAlerts (l : List AlertEntry) : SameAlerts (s.setAlerts l) (t.setAlerts l) :=
  ⟨congrArg (fun a => { a with queue := l }) h.arl, h.jli⟩

theorem countDropped : SameAlerts s.countDropped t.countDropped :=
  ⟨congrArg (fun a => { a with dropped := satAdd Config.max16 a.dropped 1 }) h.arl, h.jli⟩

theorem ite {b c : Prop} [Decidable b] [Decidable c] {u v : State} (k : SameAlerts u v) (hb : c ↔ b) :
    SameAlerts (if b then s else u) (if c then t else v) := by
  by_cases e : b
  · rw [if_pos e, if_pos (hb.2 e)]
    exact h
  · rw [if_neg e, if_neg fun he => e (hb.1 he)]
    exact k

theorem handAlert (b : Bool) (e : AlertEntry) : SameAlerts (s.handAlert b e) (t.handAlert b e) := by
  have sent : SameAlerts (s.setTx (s.jli.tx ++ [.alert b e.key e.active e.count e.firstTime e.lastTime]))
      (t.setTx (t.jli.tx ++ [.alert b e.key e.active e.count e.firstTime e.lastTime])) :=
    ⟨h.arl, congrArg (fun l => { l with tx := l.tx ++ [OutFrame.alert b e.key e.active e.count e.firstTime e.lastTime] }) h.jli⟩
  exact sent.ite h.countDropped (by rw [h.alertTaken])

theorem announce (e : AlertEntry) : SameAlerts (s.announce e) (t.announce e) :=
  (h.handAlert true e).ite h (by rw [h.arl])

theorem createAlert (e : AlertEntry) : SameAlerts (s.createAlert e) (t.createAlert e) := by
  have flag : t.sentFlag e = s.sentFlag e := by unfold State.sentFlag; rw [h.arl, h.alertTaken]
  unfold State.createAlert
  rw [flag, h.arl]
  exact (h.setAlerts _).announce e

theorem addAlert (e : AlertEntry) : SameAlerts (s.addAlert e) (t.addAlert e) := by
  have evicted : SameAlerts (s.setAlerts (evict s.arl.queue)) (t.setAlerts (evict t.arl.queue)) := by
    rw [h.arl]
    exact h.setAlerts _
  exact (h.createAlert e).ite ((evicted.countDropped.createAlert e).ite h.countDropped (by rw [h.arl])) (by rw [h.arl])

/-- R153: a raise. -/
theorem raiseAt (k : AlertKey) (c : Bool) (m : Time) : SameAlerts (s.raiseAt k c m) (t.raiseAt k c m) := by
  have flag : ∀ e, t.sentFlag e = s.sentFlag e := fun e => by unfold State.sentFlag; rw [h.arl, h.alertTaken]
  unfold State.raiseAt
  rw [h.alertFor, h.arl]
  cases s.alertFor k with
  | none => exact h.addAlert _
  | some e =>
    dsimp only
    rw [flag]
    exact ((h.setAlerts _).announce _).ite (h.setAlerts _) .rfl

/-- R154: a clear. -/
theorem clear (k : AlertKey) : SameAlerts (s.clear k) (t.clear k) := by
  unfold State.clear
  rw [h.alertFor]
  cases s.alertFor k with
  | none => exact h
  | some e =>
    have handed : SameAlerts (if enabledIn s.arl.mask k.cls then s.handAlert false { e with active := false } else s)
        (if enabledIn t.arl.mask k.cls then t.handAlert false { e with active := false } else t) :=
      (h.handAlert false _).ite h (by rw [h.arl])
    dsimp only
    refine SameAlerts.ite (SameAlerts.ite ?_ ?_ .rfl) h .rfl <;>
      rw [handed.arl] <;> exact handed.setAlerts _

/-- R60: the budget test, where the two states agree on whether a job of the account is held or drains for BUDGET. -/
theorem budgetTest {a : Fin 512} (hb : (∃ j x, t.job j = some x ∧ inBudget a x = true) ↔
    ∃ j x, s.job j = some x ∧ inBudget a x = true) : SameAlerts (s.budgetTest a) (t.budgetTest a) := by
  unfold State.budgetTest
  exact h.ite (h.clear _) (budgetTest_any_iff.trans (hb.trans budgetTest_any_iff.symm))

end SameAlerts

/-- R60: of one job's record the budget condition reads its account, its holds and its drain alone. -/
theorem exists_inBudget_congr {s t u v : State} {j : Fin 128} {x y : Job} {a : Fin 512} (hu : JobSet s u j x)
    (hv : JobSet t v j y) (ho : ∀ i, i ≠ j → t.job i = s.job i) (hxy : inBudget a y = inBudget a x) :
    (∃ i z, v.job i = some z ∧ inBudget a z = true) ↔ ∃ i z, u.job i = some z ∧ inBudget a z = true := by
  refine exists_congr fun i => ?_
  by_cases hi : i = j
  · subst hi
    rw [hu.self, hv.self]
    simp [hxy]
  · rw [hu.others hi, hv.others hi, ho i hi]

/-! ### A printer that gets no job (R47) -/

/-- R47: a printer that is to drop sheets or is LOST is not available, whatever else holds of it. -/
def Printer.barred (r : Printer) : Prop := r.needsDrop = true ∨ r.link = .lost

/-- The two records of printer p are the given ones, and the job `j` is not on it. -/
structure OffPrinter (p : Fin 32) (j : Fin 128) (d : Dispatch) (r : Printer) (t : State) : Prop extends
    Stands p d r t where
  job : ∀ y, t.job j = some y → y.printer ≠ some p

section OffPrinter

variable {s t : State} {i j : Fin 128} {x : Job} {p q : Fin 32} {d : Dispatch} {r : Printer}

theorem available_barred (h : (s.printer p).barred) : s.available p = false := by
  refine Bool.eq_false_iff.2 fun ha => ?_
  obtain ⟨-, -, -, link, -, -, -, noDrop, -⟩ := available_iff.1 ha
  rcases h with h | h
  · exact Bool.false_ne_true (noDrop.symm.trans h)
  · exact nomatch link.symm.trans h

theorem offerPrinter_barred (h : (s.printer p).barred) : s.offerPrinter p = s := by
  unfold State.offerPrinter
  rw [available_barred h, if_neg Bool.false_ne_true]

/-- R57: releases put no job on a printer. -/
theorem notOn_releaseLoop (i : Fin 128) (n : Nat) (h : ∀ y, s.job j = some y → y.printer ≠ some p) :
    ∀ y, (State.releaseLoop n i s).job j = some y → y.printer ≠ some p := by
  by_cases hi : j = i
  · subst hi
    refine releaseLoop_kept (P := fun t => ∀ y, t.job j = some y → y.printer ≠ some p) j
      (fun q pos e hx ht y hy => ?_) (fun q hx ht y hy => ?_) n h
    · cases (job_release hx q _ pos e).symm.trans hy
      exact fun e => ht _ hx e
    · cases (job_gateFailed hx q).symm.trans hy
      split
      · nofun
      · exact fun e => ht _ hx e
  · rw [(triedOnly_releaseLoop i n s).others j hi]
    exact h

/-- R49: an assignment of another printer. -/
theorem OffPrinter.assign (h : OffPrinter p j d r s) (hq : p ≠ q) (k : Fin 16) (i : Fin 128) :
    OffPrinter p j d r (s.assign k q i) := by
  refine ⟨h.toStands.assign hq k i, ?_⟩
  rw [assign_eq]
  refine notOn_releaseLoop i _ fun y hy => ?_
  unfold State.assigned at hy
  rw [State.job_setDisp, State.job_modJob] at hy
  split at hy
  · obtain ⟨x, -, rfl⟩ := Option.map_eq_some_iff.1 hy
    exact fun e => hq (Option.some.inj e).symm
  · exact h.job y hy

variable (hr : r.barred)
include hr

theorem OffPrinter.arbiterLoop (k : Fin 16) : ∀ (n : Nat) {t : State}, OffPrinter p j d r t →
    OffPrinter p j d r (State.arbiterLoop n k t)
  | 0, _, h => h
  | n + 1, t, h => by
    unfold State.arbiterLoop
    split
    · exact h
    next q i hpick =>
    have available := (pick_eq_some_iff.1 hpick).1.available
    have hne : p ≠ q := by
      rintro rfl
      exact Bool.false_ne_true ((available_barred (h.printer ▸ hr)).symm.trans available)
    have pointed : OffPrinter p j d r (t.setPool k { t.pool k with pointer := q }) := ⟨h.toStands.of_eq rfl rfl, h.job⟩
    exact OffPrinter.arbiterLoop k n (pointed.assign hne k i)

/-- R45: a job enters its pool's queue, and may be given another printer. -/
theorem OffPrinter.requeue (h : OffPrinter p j d r s) (i : Fin 128) : OffPrinter p j d r (s.requeue i) := by
  unfold State.requeue
  split
  · next x hx =>
    have queued : OffPrinter p j d r (s.enqueue i) := by
      rw [enqueue_some hx]
      refine ⟨h.toStands.of_eq rfl rfl, fun y hy => ?_⟩
      rw [State.job_setQueue, State.job_setJob] at hy
      split at hy
      · next e =>
        cases hy
        exact h.job x (e ▸ hx)
      · exact h.job y hy
    exact kept_ite (queued.arbiterLoop hr _ _) queued
  · exact h

end OffPrinter

/-! ### The entries of a key that no account has (R59, R153) -/

/-- An arbiter's run raises BUDGET_HOLD alone: it leaves the entries of every key that is no account's. -/
theorem keepsArbiter_entriesOf {k : AlertKey} (hk : ∀ a, budgetKey a ≠ k) (l : List AlertEntry) :
    KeepsArbiter fun t => t.entriesOf k = l where
  raiseBudget h := (entriesOf_raiseAt rfl (hk _) _ _).trans h
  job _ _ _ h := h
  disp h := h
  leave h := h
  pointer h := h
  printer _ h := h
  reserved h := h

theorem printerKey_ne_budgetKey (p : Fin 32) (c : AlertClass) (a : Fin 512) : budgetKey a ≠ printerKey p c := by
  intro e
  cases congrArg AlertKey.kind e

theorem entriesOf_requeue {s : State} {k : AlertKey} (hk : ∀ a, budgetKey a ≠ k) (j : Fin 128) :
    (s.requeue j).entriesOf k = s.entriesOf k := by
  unfold State.requeue
  split
  · next x hx =>
    refine (keepsArbiter_entriesOf hk _).runArbiter _ ?_
    rw [enqueue_some hx]
    rfl
  · rfl

end Sys2Proof.Machine

/-! ## The stall timer's expiry (R60, R63, R103, R138) -/

namespace Sys2Proof.Machine

section StallExpiry

variable {s t u v w : State} {j : Fin 128} {p : Fin 32} {x y : Job} {e : WindowEntry} {rest : List WindowEntry}

/-! ### The expiry, step by step -/

/-- R138: the stall timer of an expiry stops. -/
def State.stallStopped (s : State) (p : Fin 32) : State := s.setDisp p { s.disp p with stall := none }

/-- R138, steps 1 to 3: the timer stopped, the window lost, the printer told, and the alert raised. -/
def State.stallAlerted (s : State) (p : Fin 32) : State :=
  ((s.stallStopped p).loseToReroute p).raiseEvent (printerKey p .stallRerouted)

theorem disp_loseToReroute (s : State) (p : Fin 32) : (s.loseToReroute p).disp p = { s.disp p with window := [] } := by
  unfold State.loseToReroute
  split
  · next hw => rw [← hw]
  · have lost : ∀ i, (((s.loseFrom p 0).retryGate i).disp p) = { s.disp p with window := [] } := fun i => by
      rw [disp_retryGate, disp_loseFrom, if_pos rfl, List.take_zero]
    dsimp only
    split
    · exact lost _
    · rw [disp_setNeedsDrop]
      exact lost _

/-- R138: the printer's record when the alert has been raised: its job is still assigned. -/
theorem disp_stallAlerted (s : State) (p : Fin 32) :
    (s.stallAlerted p).disp p = { s.disp p with window := [], stall := none } := by
  unfold State.stallAlerted State.stallStopped
  rw [disp_raiseEvent, disp_loseToReroute, State.disp_setDisp, if_pos rfl]

theorem assigned_stallAlerted (s : State) (p : Fin 32) : ((s.stallAlerted p).disp p).assigned = (s.disp p).assigned := by
  rw [disp_stallAlerted]

theorem stallExpired_idle (ha : (s.disp p).assigned = none) : s.stallExpired p = s.stallAlerted p := by
  have ha' := (assigned_stallAlerted s p).trans ha
  unfold State.stallAlerted State.stallStopped at ha'
  simp only [State.stallExpired, ha']
  rfl

theorem stallExpired_assigned (ha : (s.disp p).assigned = some j) :
    s.stallExpired p = (s.stallAlerted p).settleStalled p j := by
  have ha' := (assigned_stallAlerted s p).trans ha
  unfold State.stallAlerted State.stallStopped at ha'
  simp only [State.stallExpired, ha']
  rfl

theorem settleStalled_cancelling (hx : s.job j = some x) (hc : x.phase = .cancelling) :
    s.settleStalled p j = s.endCancelled j := by
  simp only [State.settleStalled, hx, hc]

theorem settleStalled_undrained (hx : s.job j = some x) (hp : x.phase = .printing) (hd : x.drain = none) :
    s.settleStalled p j = ((s.detach j p).offerPrinter p).requeue j := by
  simp [State.settleStalled, hx, hp, hd]

theorem settleStalled_drained (hx : s.job j = some x) (hp : x.phase = .printing) (hd : x.drain ≠ none) :
    s.settleStalled p j = s.endDrain j p := by
  simp [State.settleStalled, hx, hp, Option.isSome_iff_ne_none, hd]

/-- The command, by whether an expiry is reached. -/
theorem exec_stallTimerExpiry (h : expired s.now (s.disp p).stall = true) :
    exec (.stallTimerExpiry p) s = .next (s.stallExpired p).serviceLines :=
  congrArg Host.Outcome.next (if_pos h)

theorem exec_stallTimerExpiry_early (h : expired s.now (s.disp p).stall = false) :
    exec (.stallTimerExpiry p) s = .next s :=
  congrArg Host.Outcome.next (if_neg (by rw [h]; exact Bool.false_ne_true))

/-! ### An empty window (R138) -/

/-- R138: with no entry to lose, the timer stops and the alert is raised. -/
theorem stallAlerted_empty (hw : (s.disp p).window = []) :
    s.stallAlerted p = (s.stallStopped p).raiseAt (printerKey p .stallRerouted) false s.now := by
  have hw' : ((s.stallStopped p).disp p).window = [] := by
    unfold State.stallStopped
    rw [State.disp_setDisp, if_pos rfl]
    exact hw
  unfold State.stallAlerted
  simp only [State.loseToReroute, hw']
  rfl

/-! ### The loss, and the retry of the gate (R60, R63, R127) -/

/-- R138, step 2: the window is lost; the gate is yet to be retried. -/
def State.stallLost (s : State) (p : Fin 32) : State := (s.stallStopped p).loseFrom p 0

/-- R60: the gate's retry, by what makes it pass. -/
theorem retryGate_eq {pass : Bool} (hx : s.job j = some x) (hp : x.phase = .printing)
    (hpass : pass = true ↔ x.drain = some .budget ∧ ∃ pos n, s.nextEstimate x = some (pos, n) ∧
      gatePasses (s.account x.account) n = true) :
    s.retryGate j = if pass then (s.setJob j (some (undrained x))).budgetTest x.account else s := by
  split
  · next h =>
    obtain ⟨hd, pos, n, hn, hg⟩ := hpass.1 h
    exact retryGate_passed hx hp hd hn hg
  · next h =>
    by_cases hd : x.drain = some .budget
    · refine retryGate_failed hx fun pos n hn => Bool.eq_false_iff.2 fun hg => h (hpass.2 ⟨hd, pos, n, hn, hg⟩)
    · exact retryGate_undrained hx hd

/-- R60: a job that is not PRINTING has no gate to retry. -/
theorem retryGate_notPrinting (hx : s.job j = some x) (hp : x.phase ≠ .printing) : s.retryGate j = s := by
  unfold State.retryGate
  simp only [hx]
  exact if_neg fun h => hp h.1

theorem port_retryGate (s : State) (j : Fin 128) (q : Fin 8) : (s.retryGate j).port q = s.port q :=
  ((keepsDispatch_booksKept s).retryGate j (.refl s)).port q

/-- R127: the account of a job whose window is lost. -/
theorem account_each_unreserve (a : Fin 512) : ∀ (l : List WindowEntry) (s : State),
    (s.each l fun t y => t.unreserve a y.estimate).account a =
      { s.account a with reserved := (s.account a).reserved - estimates l }
  | [], _ => rfl
  | e :: l, s => by
    show ((s.unreserve a e.estimate).each l fun t y => t.unreserve a y.estimate).account a = _
    have one : (s.unreserve a e.estimate).account a =
        { s.account a with reserved := (s.account a).reserved - e.estimate } :=
      (State.account_setAccount ..).trans (if_pos rfl)
    rw [account_each_unreserve a l, one]
    show { s.account a with reserved := (s.account a).reserved - e.estimate - estimates l } =
      { s.account a with reserved := (s.account a).reserved - (e.estimate + estimates l) }
    rw [Nat.sub_sub]

section Loss

variable (hw : (s.disp p).window = e :: rest)
include hw

theorem window_stallStopped : ((s.stallStopped p).disp p).window = e :: rest := by
  unfold State.stallStopped
  rw [State.disp_setDisp, if_pos rfl]
  exact hw

/-- R138, step 2: the loss, the gate's retry, and needs-drop unless the link is LOST. -/
theorem loseToReroute_some : (s.stallStopped p).loseToReroute p =
    if (s.printer p).link = .lost then (s.stallLost p).retryGate e.job
    else ((s.stallLost p).retryGate e.job).setNeedsDrop p e.feed := by
  have hw' := window_stallStopped hw
  simp only [State.loseToReroute, hw']
  rfl

variable (hx : s.job e.job = some x)
include hx

/-- R63: what the loss leaves; the rest of the state is as the stopped timer left it. -/
theorem entriesLost_stallLost : EntriesLost (s.stallStopped p) (s.stallLost p) p 0 e x :=
  entriesLost_loseFrom (by rw [window_stallStopped hw]; rfl) hx

theorem job_stallLost : JobSet s (s.stallLost p) e.job (rewound x e (rest.length + 1)) := by
  intro i
  have lost := (entriesLost_stallLost hw hx).job i
  rw [window_stallStopped hw] at lost
  exact lost

theorem stallLost_some : s.stallLost p = (((s.stallStopped p).setWindow p []).setJob e.job
    (some (rewound x e (rest.length + 1)))).each (e :: rest) fun t y => t.unreserve x.account y.estimate := by
  have lost := loseFrom_some (s := s.stallStopped p) (p := p) (k := 0) (by rw [window_stallStopped hw]; rfl) hx
  rw [window_stallStopped hw] at lost
  exact lost

/-- R127: the estimates of the lost entries are reserved no longer. -/
theorem account_stallLost : (s.stallLost p).account x.account =
    { s.account x.account with reserved := (s.account x.account).reserved - ((e :: rest).map WindowEntry.estimate).sum } := by
  rw [stallLost_some hw hx, account_each_unreserve]
  rfl

theorem nextEstimate_stallLost (y : Job) : (s.stallLost p).nextEstimate y = s.nextEstimate y := by
  rw [stallLost_some hw hx, each_unreserve_only]
  rfl

theorem sameAlerts_stallLost : SameAlerts s (s.stallLost p) :=
  ⟨arl_loseFrom _ _ _, (entriesLost_stallLost hw hx).jli⟩

section Gate

variable {pass : Bool} (hp : x.phase = .printing)
  (hpass : pass = true ↔ x.drain = some .budget ∧ ∃ pos n,
    s.nextEstimate (rewound x e (rest.length + 1)) = some (pos, n) ∧ gatePasses { s.account x.account with
      reserved := (s.account x.account).reserved - ((e :: rest).map WindowEntry.estimate).sum } n = true)
include hp hpass

/-- R60, R138: the gate is retried with the estimates of the lost entries released. -/
theorem retryGate_stallLost : (s.stallLost p).retryGate e.job =
    if pass then ((s.stallLost p).setJob e.job (some (undrained (rewound x e (rest.length + 1))))).budgetTest x.account
    else s.stallLost p := by
  refine retryGate_eq (job_stallLost hw hx).self hp (hpass.trans ?_)
  rw [nextEstimate_stallLost hw hx]
  show _ ↔ x.drain = some .budget ∧ ∃ pos n, _ ∧ gatePasses ((s.stallLost p).account x.account) n = true
  rw [account_stallLost hw hx]

theorem job_retried : ((s.stallLost p).retryGate e.job).job e.job =
    some (if pass then undrained (rewound x e (rest.length + 1)) else rewound x e (rest.length + 1)) := by
  rw [retryGate_stallLost hw hx hp hpass]
  split
  · rw [job_budgetTest]
    exact (jobSet_setJob _ _ _).self
  · exact (job_stallLost hw hx).self

/-- R60: what the gate's retry does to the alerts is what it would do to them without the loss. -/
theorem sameAlerts_retried : SameAlerts
    (if pass then (s.setJob e.job (some (undrained x))).budgetTest x.account else s)
    ((s.stallLost p).retryGate e.job) := by
  have lost := sameAlerts_stallLost hw hx
  rw [retryGate_stallLost hw hx hp hpass]
  have set : SameAlerts (s.setJob e.job (some (undrained x)))
      ((s.stallLost p).setJob e.job (some (undrained (rewound x e (rest.length + 1))))) := ⟨lost.arl, lost.jli⟩
  refine (set.budgetTest ?_).ite lost .rfl
  refine exists_inBudget_congr (jobSet_setJob s e.job _) (jobSet_setJob (s.stallLost p) e.job _)
    (fun i hi => (job_stallLost hw hx).others hi) ?_
  rfl

end Gate

end Loss

/-! ### What the printer is told (R103) -/

/-- R138, step 2: by its link, the printer has been told to drop its sheets, or nothing of that is changed; either way it is
not available. -/
structure LossTold (s t : State) (p : Fin 32) (f : Byte) : Prop where
  lost : (s.printer p).link = .lost →
    (t.printer p).needsDrop = (s.printer p).needsDrop ∧ (t.printer p).dropFrom = (s.printer p).dropFrom
  told : (s.printer p).link ≠ .lost → ToldToDrop s t p f
  barred : (t.printer p).barred

theorem LossTold.dispatched {f : Byte} (h : LossTold s t p f) (hp : PrinterDispatched (t.printer p) (u.printer p))
    (hq : ∀ q, u.port q = t.port q) : LossTold s u p f where
  lost hl := by rw [hp]; exact h.lost hl
  told hl := (h.told hl).dispatched hp (hq _)
  barred := by rw [hp]; exact h.barred

theorem LossTold.alerts {f : Byte} (h : LossTold s t p f) (k : AlertOnly t u) : LossTold s u p f :=
  h.dispatched (by rw [k]; exact .refl _) fun q => by rw [k]; rfl

theorem lossTold_loseToReroute (hw : (s.disp p).window = e :: rest) (hx : s.job e.job = some x) :
    LossTold s ((s.stallStopped p).loseToReroute p) p e.feed := by
  have lost := entriesLost_stallLost hw hx
  have printer : ∃ stage naks, ((s.stallLost p).retryGate e.job).printer p =
      { s.printer p with stage := stage, naks := naks } :=
    ⟨_, _, (printer_retryGate _ _ p).trans (lost.printer p)⟩
  obtain ⟨stage, naks, printer⟩ := printer
  have port : ((s.stallLost p).retryGate e.job).port (portOf p) = s.port (portOf p) :=
    (port_retryGate _ _ _).trans (lost.port _)
  rw [loseToReroute_some hw]
  split
  · next hl => exact ⟨fun _ => by rw [printer]; exact ⟨rfl, rfl⟩, fun h => absurd hl h, .inr (by rw [printer]; exact hl)⟩
  · next hl =>
    have told := toldToDrop_setNeedsDrop ((s.stallLost p).retryGate e.job) p e.feed
    exact ⟨fun h => absurd h hl, fun _ => told.of_start (by rw [printer]) (by rw [printer]) (by rw [port]), .inl told.1⟩

/-! ### The alert (R138, step 3) -/

theorem now_loseToReroute (s : State) (p : Fin 32) : ((s.stallStopped p).loseToReroute p).now = s.now := by
  rw [((keepsPrinting_only s).loseToReroute p ((keepsPrinting_only s).disp (.refl s)) :
    PrintingOnly s ((s.stallStopped p).loseToReroute p)).rest]

theorem stallAlerted_alertOnly (s : State) (p : Fin 32) :
    AlertOnly ((s.stallStopped p).loseToReroute p) (s.stallAlerted p) := alertOnly_raiseAt _ _ _ _

section Alerted

variable (hw : (s.disp p).window = e :: rest)
include hw

theorem job_stallAlerted (i : Fin 128) : (s.stallAlerted p).job i = ((s.stallLost p).retryGate e.job).job i := by
  rw [(stallAlerted_alertOnly s p).job, loseToReroute_some hw]
  split
  · rfl
  · exact job_setNeedsDrop ..

/-- R138: the alert is raised over the alerts that the loss and the gate's retry have left. -/
theorem sameAlerts_stallAlerted (h : SameAlerts t ((s.stallLost p).retryGate e.job)) :
    SameAlerts (t.raiseAt (printerKey p .stallRerouted) false s.now) (s.stallAlerted p) := by
  have told : SameAlerts t ((s.stallStopped p).loseToReroute p) := by
    rw [loseToReroute_some hw]
    split
    · exact h
    · rw [setNeedsDrop_only]
      exact ⟨h.arl, h.jli⟩
  unfold State.stallAlerted State.raiseEvent
  rw [now_loseToReroute]
  exact told.raiseAt _ _ _

end Alerted

/-! ### The job leaves its printer (R50, R54, R138) -/

/-- R50, R54: the job taken off its printer; a drain for BUDGET is held. -/
def State.takenOff (s : State) (j : Fin 128) (p : Fin 32) : State := (s.modJob j holdDrained).detach j p

theorem takenOff_some (hx : s.job j = some x) (p : Fin 32) : s.takenOff j p =
    ((s.setDisp p (unassigned (s.disp p))).setJob j (some (detached (holdDrained x)))).setPrinter p
      (afterUnassign (s.printer p) (s.disp p)) := by
  have hy : (s.modJob j holdDrained).job j = some (holdDrained x) := by
    rw [State.modJob_some s hx]
    exact (jobSet_setJob s j _).self
  unfold State.takenOff
  rw [detach_eq hy, State.modJob_some s hx]
  calc _ = (((s.setDisp p (unassigned (s.disp p))).setJob j (some (holdDrained x))).setJob j
        (some (detached (holdDrained x)))).setPrinter p (afterUnassign (s.printer p) (s.disp p)) := rfl
    _ = _ := by rw [State.setJob_setJob]

theorem takenOff_undrained (hx : s.job j = some x) (hd : x.drain = none) (p : Fin 32) :
    s.takenOff j p = s.detach j p := by
  have same : holdDrained x = x := by
    unfold holdDrained
    rw [if_neg (by rw [hd]; nofun)]
  unfold State.takenOff
  rw [State.modJob_some s hx, same, setJob_self hx]

theorem job_takenOff (hx : s.job j = some x) (p : Fin 32) :
    (s.takenOff j p).job j = some (detached (holdDrained x)) := by
  rw [takenOff_some hx]
  exact (jobSet_setJob _ j _).self

/-- The record of a job whose drain has ended with a hold left (R54). -/
def heldOff (x : Job) : Job := { detached (holdDrained x) with phase := .held }

section Settling

variable (hx : s.job j = some x) (hp : x.phase = .printing) (hb : (s.printer p).barred)
include hx hp hb

/-- R54, R138: with its printer not available, the job enters its pool's queue, or is HELD where a drain ends and a hold is
left. -/
theorem settleStalled_barred : s.settleStalled p j =
    if x.drain ≠ none ∧ noHolds (holdDrained x).holds = false then (s.takenOff j p).setJob j (some (heldOff x))
    else (s.takenOff j p).requeue j := by
  have offered : (s.takenOff j p).offerPrinter p = s.takenOff j p := by
    refine offerPrinter_barred ?_
    rw [takenOff_some hx, State.printer_setPrinter, if_pos rfl]
    exact hb
  by_cases hd : x.drain = none
  · rw [if_neg fun h => h.1 hd, settleStalled_undrained hx hp hd, ← takenOff_undrained hx hd, offered]
  · have ended : s.settleStalled p j = if noHolds (holdDrained x).holds then (s.takenOff j p).requeue j
        else (s.takenOff j p).setJob j (some (heldOff x)) := by
      have hj := job_takenOff hx p
      rw [settleStalled_drained hx hp hd]
      unfold State.endDrain
      unfold State.takenOff at offered hj
      simp only [offered, hj]
      rfl
    rw [ended]
    cases hn : noHolds (holdDrained x).holds with
    | true => rw [if_pos rfl, if_neg fun h => nomatch h.2]
    | false => rw [if_neg Bool.false_ne_true, if_pos ⟨hd, rfl⟩]

/-- R138: what is true of the state with the job taken off its printer, and outlasts its HELD record and its place in the
queue, is true in the end. -/
theorem settleStalled_kept {P : State → Prop} (h : P (s.takenOff j p))
    (held : ∀ {t}, P t → P (t.setJob j (some (heldOff x)))) (queued : ∀ {t}, P t → P (t.requeue j)) :
    P (s.settleStalled p j) := by
  rw [settleStalled_barred hx hp hb]
  exact kept_ite (held h) (queued h)

/-- R47, R50: the printer is left without a job, a window or a timer, and the job is on another printer or on none. -/
theorem offPrinter_settleStalled : OffPrinter p j (unassigned (s.disp p)) (afterUnassign (s.printer p) (s.disp p))
    (s.settleStalled p j) := by
  have barred : (afterUnassign (s.printer p) (s.disp p)).barred := hb
  refine settleStalled_kept hx hp hb ?_ (fun ht => ⟨ht.toStands.of_eq rfl rfl, fun y hy => ?_⟩) fun ht => ht.requeue barred j
  · rw [takenOff_some hx]
    refine ⟨⟨(State.disp_setDisp ..).trans (if_pos rfl), (State.printer_setPrinter ..).trans (if_pos rfl)⟩, fun y hy => ?_⟩
    cases (jobSet_setJob _ j _).self.symm.trans hy
    nofun
  · cases (jobSet_setJob _ j _).self.symm.trans hy
    nofun

theorem lossTold_settleStalled {f : Byte} (h : LossTold t s p f) : LossTold t (s.settleStalled p j) p f := by
  refine h.dispatched ?_ fun q => ?_
  · rw [(offPrinter_settleStalled hx hp hb).printer]
    rfl
  · refine BooksKept.port ?_ q
    have K := keepsDispatch_booksKept s
    refine settleStalled_kept hx hp hb ?_ (fun ht => ht.trans (.of_eq rfl rfl)) (K.requeue j)
    rw [takenOff_some hx]
    exact .of_eq rfl rfl

/-- Entries of a key that is no account's, and the frames that wait, stay as they are. -/
theorem entriesOf_settleStalled {k : AlertKey} (hk : ∀ a, budgetKey a ≠ k) :
    (s.settleStalled p j).entriesOf k = s.entriesOf k := by
  refine settleStalled_kept (P := fun t => t.entriesOf k = s.entriesOf k) hx hp hb ?_ id
    fun ht => (entriesOf_requeue hk j).trans ht
  rw [takenOff_some hx]
  rfl

theorem linkGrows_settleStalled : LinkGrows s (s.settleStalled p j) := by
  have K := keepsDispatch_linkGrows s
  refine settleStalled_kept hx hp hb ?_ (fun ht => ht.trans (.of_jli rfl)) (K.requeue j)
  rw [takenOff_some hx]
  exact .of_jli rfl

theorem liveWith_settleStalled {Q : Job → Prop} (K : KeptByDrains Q) (hq : Q x) :
    LiveWith j Q (s.settleStalled p j) := by
  have off : Q (detached (holdDrained x)) := K.offPrinter hq
  refine settleStalled_kept hx hp hb ⟨_, job_takenOff hx p, off⟩
    (fun _ => ⟨_, (jobSet_setJob _ j _).self, K.held off⟩) fun ht => ?_
  refine K.requeue j (fun y hy _ => ?_) ht
  obtain ⟨z, hz, hqz⟩ := ht
  cases hz.symm.trans hy
  exact K.queued hqz

end Settling

/-! ### A PRINTING job loses its window (R60, R63, R138) -/

section Rerouted

variable {pass : Bool} (ha : (s.disp p).assigned = some e.job) (hw : (s.disp p).window = e :: rest)
  (hx : s.job e.job = some x) (hp : x.phase = .printing)
  (hpass : pass = true ↔ x.drain = some .budget ∧ ∃ pos n,
    s.nextEstimate (rewound x e (rest.length + 1)) = some (pos, n) ∧ gatePasses { s.account x.account with
      reserved := (s.account x.account).reserved - ((e :: rest).map WindowEntry.estimate).sum } n = true)

/-- The record of the job once its window is lost and its gate retried. -/
def lostAndRetried (x : Job) (e : WindowEntry) (n : Nat) (pass : Bool) : Job :=
  if pass then undrained (rewound x e n) else rewound x e n

include hp in
theorem phase_lostAndRetried (e : WindowEntry) (n : Nat) (pass : Bool) :
    (lostAndRetried x e n pass).phase = .printing := by
  cases pass <;> exact hp

theorem lossTold_stallAlerted (hw : (s.disp p).window = e :: rest) (hx : s.job e.job = some x) :
    LossTold s (s.stallAlerted p) p e.feed := (lossTold_loseToReroute hw hx).alerts (stallAlerted_alertOnly s p)

include hw hx hp hpass in
theorem job_stallAlerted_printing :
    (s.stallAlerted p).job e.job = some (lostAndRetried x e (rest.length + 1) pass) :=
  (job_stallAlerted hw _).trans (job_retried hw hx hp hpass)

include ha hw hx hp hpass

/-- R103, R138: the printer is left without a job, and told of the loss by its link. -/
theorem printer_stallExpired : LossTold s (s.stallExpired p) p e.feed ∧ ((s.stallExpired p).disp p).assigned = none ∧
    ((s.stallExpired p).disp p).window = [] ∧ ((s.stallExpired p).disp p).stall = none := by
  have hy := job_stallAlerted_printing hw hx hp hpass
  have phase := phase_lostAndRetried hp e (rest.length + 1) pass
  have told := lossTold_stallAlerted hw hx
  rw [stallExpired_assigned ha]
  refine ⟨lossTold_settleStalled hy phase told.barred told, ?_⟩
  rw [(offPrinter_settleStalled hy phase told.barred).disp, disp_stallAlerted]
  exact ⟨rfl, rfl, rfl⟩

/-- R138, step 3: what follows the alert leaves its entry, and the frames handed over up to then. -/
theorem alert_stallExpired (hv : v = (if pass then (s.setJob e.job (some (undrained x))).budgetTest x.account else s).raiseAt
      (printerKey p .stallRerouted) false s.now) :
    (s.stallExpired p).entriesOf (printerKey p .stallRerouted) = v.entriesOf (printerKey p .stallRerouted) ∧
      v.jli.tx <+: (s.stallExpired p).jli.tx := by
  subst hv
  have hy := job_stallAlerted_printing hw hx hp hpass
  have phase := phase_lostAndRetried hp e (rest.length + 1) pass
  have barred := (lossTold_stallAlerted hw hx).barred
  have same := sameAlerts_stallAlerted hw (sameAlerts_retried hw hx hp hpass)
  rw [stallExpired_assigned ha]
  refine ⟨(entriesOf_settleStalled hy phase barred (printerKey_ne_budgetKey p _)).trans (same.entriesOf _), ?_⟩
  rw [← same.jli]
  exact (linkGrows_settleStalled hy phase barred).tx

/-- R138, steps 4 and 5: the job is off the printer, its loss counted; a drain that ends with a hold left makes it HELD, and
it is requeued otherwise. -/
theorem job_stallExpired_printing : ∃ y, (s.stallExpired p).job e.job = some y ∧ y.printer ≠ some p ∧
    y.sheetsLost = satAdd Config.max16 x.sheetsLost (rest.length + 1) ∧
    ((x.drain = none ∨ pass = true ∨ noHolds (holdDrained x).holds = true) → Requeued y) ∧
    (x.drain ≠ none → pass = false → noHolds (holdDrained x).holds = false →
      y = heldOff (rewound x e (rest.length + 1))) := by
  have hy := job_stallAlerted_printing hw hx hp hpass
  have phase := phase_lostAndRetried hp e (rest.length + 1) pass
  have barred := (lossTold_stallAlerted hw hx).barred
  have lost : KeptByDrains fun y => y.sheetsLost = satAdd Config.max16 x.sheetsLost (rest.length + 1) :=
    { released := id, draining := id, heldForBudget := id, printing := fun _ => id, offPrinter := id, queued := id, held := id }
  rw [stallExpired_assigned ha]
  obtain ⟨y, hlive, hlost⟩ := liveWith_settleStalled hy phase barred lost (by cases pass <;> rfl)
  refine ⟨y, hlive, (offPrinter_settleStalled hy phase barred).job y hlive, hlost, fun h => ?_, fun hd hf hh => ?_⟩
  · have queued : ¬((lostAndRetried x e (rest.length + 1) pass).drain ≠ none ∧
        noHolds (holdDrained (lostAndRetried x e (rest.length + 1) pass)).holds = false) := by
      rintro ⟨hd, hh⟩
      cases pass with
      | true => exact hd rfl
      | false =>
        rcases h with h | h | h
        · exact hd h
        · exact nomatch h
        · exact nomatch h.symm.trans hh
    rw [settleStalled_barred hy phase barred, if_neg queued] at hlive
    obtain ⟨z, hz, hqz⟩ := keptByTries_requeued.requeue e.job (fun _ _ _ => .inl rfl)
      ⟨_, job_takenOff hy p, .inr (.inl phase)⟩
    cases hz.symm.trans hlive
    exact hqz
  · subst hf
    have held : (lostAndRetried x e (rest.length + 1) false).drain ≠ none ∧
        noHolds (holdDrained (lostAndRetried x e (rest.length + 1) false)).holds = false := ⟨hd, hh⟩
    rw [settleStalled_barred hy phase barred, if_pos held] at hlive
    cases (jobSet_setJob _ e.job _).self.symm.trans hlive
    rfl

end Rerouted

/-! ### A CANCELLING job ends (R23, R138) -/

section Ended

variable {o : JobOutcome} {c : Cause}

/-- R138, step 5: the job's end, its report the first frame after the alert. -/
theorem settleStalled_ended (hx : t.job j = some x) (hc : x.phase = .cancelling) (he : x.ending = some (o, c))
    (h : SameAlerts s t) : (t.settleStalled p j).job j = none ∧
      HandedFirst s (.jobReport (reportOf x o c)) (t.settleStalled p j) := by
  rw [settleStalled_cancelling hx hc, endCancelled_some hx he]
  exact ⟨endJob_job hx o c, (endJob_handedFirst hx o c).of_jli h.jli⟩

theorem stallExpired_cancelling (ha : (s.disp p).assigned = some e.job) (hw : (s.disp p).window = e :: rest)
    (hx : s.job e.job = some x) (hc : x.phase = .cancelling) (he : x.ending = some (o, c)) :
    (s.stallExpired p).job e.job = none ∧ LossTold s (s.stallExpired p) p e.feed ∧
      HandedFirst (s.raiseAt (printerKey p .stallRerouted) false s.now)
        (.jobReport (reportOf (rewound x e (rest.length + 1)) o c)) (s.stallExpired p) := by
  have hlost := (job_stallLost hw hx).self
  have same : (s.stallLost p).retryGate e.job = s.stallLost p :=
    retryGate_notPrinting hlost fun h => nomatch h.symm.trans hc
  have hy : (s.stallAlerted p).job e.job = some (rewound x e (rest.length + 1)) := by
    rw [job_stallAlerted hw, same, hlost]
  have alerts := sameAlerts_stallAlerted hw (t := s) (by rw [same]; exact sameAlerts_stallLost hw hx)
  obtain ⟨ended, report⟩ := settleStalled_ended (p := p) hy hc he alerts
  rw [stallExpired_assigned ha]
  refine ⟨ended, ?_, report⟩
  rw [settleStalled_cancelling hy hc, endCancelled_some hy he]
  exact (lossTold_stallAlerted hw hx).dispatched (printerDispatched_endJob (.refl _) _ o c)
    fun q => (booksKept_endJob (.refl _) _ o c).port q

theorem stallExpired_cancelling_empty (ha : (s.disp p).assigned = some j) (hw : (s.disp p).window = [])
    (hx : s.job j = some x) (hc : x.phase = .cancelling) (he : x.ending = some (o, c)) :
    (s.stallExpired p).job j = none ∧ HandedFirst (s.raiseAt (printerKey p .stallRerouted) false s.now)
      (.jobReport (reportOf x o c)) (s.stallExpired p) := by
  have same : SameAlerts s (s.stallStopped p) := ⟨rfl, rfl⟩
  have hy : ((s.stallStopped p).raiseAt (printerKey p .stallRerouted) false s.now).job j = some x :=
    (job_raiseAt ..).trans hx
  rw [stallExpired_assigned ha, stallAlerted_empty hw]
  exact settleStalled_ended hy hc he (same.raiseAt _ _ _)

end Ended

/-! ### A PRINTING job with an empty window (R138) -/

theorem stallExpired_undrained_empty (ha : (s.disp p).assigned = some j) (hw : (s.disp p).window = [])
    (hx : s.job j = some x) (hp : x.phase = .printing) (hd : x.drain = none)
    (hv : v = (s.stallStopped p).raiseAt (printerKey p .stallRerouted) false s.now) : s.stallExpired p =
      ((((v.setDisp p { s.disp p with assigned := none, stall := none, leaving := false }).setPrinter p
        { s.printer p with inService := (s.printer p).inService && !(s.disp p).leaving }).setJob j
          (some (detached x))).offerPrinter p).requeue j := by
  have alerts : AlertOnly (s.stallStopped p) v := hv ▸ alertOnly_raiseAt _ _ _ _
  have hy : v.job j = some x := (alerts.job j).trans hx
  have disp : v.disp p = { s.disp p with stall := none } := by
    rw [alerts.disp, State.stallStopped, State.disp_setDisp, if_pos rfl]
  have printer : v.printer p = s.printer p := by
    rw [alerts]
    rfl
  rw [stallExpired_assigned ha, stallAlerted_empty hw, ← hv, settleStalled_undrained hy hp hd, detach_eq hy, disp, printer]
  rfl

end StallExpiry

/-- Settles O49: the expiry by the printer's job, its phase and its window; and none reached. -/
theorem stallTimerExpiry : Obligations.StallTimerExpiry := by
  intro s p d r hd hr
  subst hd hr
  refine ⟨fun expiry hs hreached => ?_, fun early => exec_stallTimerExpiry_early (Bool.eq_false_iff.2 fun h => ?_)⟩
  · have run := exec_stallTimerExpiry (expired_eq_true.2 ⟨expiry, hs, hreached⟩)
    have lines := linesOnly_serviceLines (s.stallExpired p)
    have printing : PrintingOnly s (s.stallExpired p) := (keepsPrinting_only s).stallExpired p (.refl s)
    refine ⟨fun w hw hv => ⟨fun ha => ⟨_, run, ?_⟩, fun j x ha hx hp hd => ⟨_, run, ?_⟩⟩, ?_, ?_⟩
    · rw [stallExpired_idle ha, stallAlerted_empty hw, hv]
      exact linesOnly_serviceLines _
    · rw [stallExpired_undrained_empty ha hw hx hp hd hv]
      exact linesOnly_serviceLines _
    · rintro j x e rest lost ha hx hw rfl rfl
      refine ⟨fun pass w h hp hpass hv hh => ?_, fun o c hc he => ?_⟩
      · have holds : h = (holdDrained x).holds := hh
        subst holds
        obtain ⟨told, idle, empty, stopped⟩ := printer_stallExpired ha hw hx hp hpass
        obtain ⟨entries, frames⟩ := alert_stallExpired ha hw hx hp hpass hv
        obtain ⟨y, hy, off, counted, requeued, held⟩ := job_stallExpired_printing ha hw hx hp hpass
        exact ⟨_, y, _, run, lines, printing, told.lost, told.told, idle, empty, stopped, hy, off, counted, entries,
          frames, requeued, held⟩
      · obtain ⟨ended, told, report⟩ := stallExpired_cancelling ha hw hx hc he
        exact ⟨_, _, run, lines, printing, ended, told.lost, told.told, report⟩
    · intro j x o c ha hx hw hc he
      obtain ⟨ended, report⟩ := stallExpired_cancelling_empty ha hw hx hc he
      exact ⟨_, _, run, lines, printing, ended, report⟩
  · obtain ⟨expiry, hs, hreached⟩ := expired_eq_true.1 h
    exact Bool.false_ne_true ((early expiry hs).symm.trans hreached)

end Sys2Proof.Machine

/-! ## The alert queue, the transmit list and the spool DRAM keep their forms (R7, R152, R153, R155, R165 to R167) -/

namespace Sys2Proof.Machine

/-- The alert queue is legal, the transmit list and its counts are in range, and the spool DRAM is in its canonical form. -/
structure FormsOk (s : State) : Prop where
  alerts : AlertsOk s.arl
  link : LinkOk s.jli
  dram : Memory.wf s.spm.dram = true

/-- What the forms of the alert queue and of the DRAM are about. -/
def State.formedParts (s : State) : List Host.Cell × List AlertEntry × Nat := (s.spm.dram, s.arl.queue, s.arl.dropped)

section Forms

variable {s t : State}

/-- A change that leaves the DRAM and the alerts themselves, where what it makes of the link is in range. -/
theorem FormsOk.of_link (h : FormsOk s) (parts : t.formedParts = s.formedParts) (link : LinkOk t.jli) : FormsOk t := by
  simp only [State.formedParts, Prod.mk.injEq] at parts
  obtain ⟨dram, queue, dropped⟩ := parts
  exact ⟨.of_queue (queue ▸ h.alerts.queueOk) (dropped ▸ h.alerts.dropped), link, dram ▸ h.dram⟩

/-- A change of none of the three parts. -/
theorem FormsOk.same (h : FormsOk s) (parts : t.formedParts = s.formedParts) (link : t.jli = s.jli) : FormsOk t :=
  h.of_link parts (link ▸ h.link)

/-- What alerts change is no byte of DRAM. -/
theorem FormsOk.of_alertOnly (h : FormsOk s) (only : AlertOnly s t) (alerts : AlertsOk t.arl) (link : LinkOk t.jli) :
    FormsOk t where
  alerts := alerts
  link := link
  dram := by rw [only]; exact h.dram

theorem formsOk_raiseAt (h : FormsOk s) (k : AlertKey) (c : Bool) (m : Time) : FormsOk (s.raiseAt k c m) :=
  h.of_alertOnly (alertOnly_raiseAt s k c m) (alertsOk_raiseAt k c m h.alerts) (linkOk_raiseAt k c m h.link)

theorem formsOk_clear (h : FormsOk s) (k : AlertKey) : FormsOk (s.clear k) :=
  h.of_alertOnly (alertOnly_clear s k) (alertsOk_clear k h.alerts) (linkOk_clear k h.link)

theorem formsOk_writeMask (h : FormsOk s) (m : BitVec 12) : FormsOk (s.writeMask m) :=
  FormsOk.of_alertOnly (s := s.setMask m) (h.same rfl rfl) (alertOnly_writeMask s m) (alertsOk_writeMask m h.alerts)
    (linkOk_writeMask m h.link)

theorem formsOk_acknowledge (h : FormsOk s) {k : AlertKey} {e : AlertEntry} (he : s.alertFor k = some e) :
    FormsOk (s.acknowledge k e) := by
  have only := alertOnly_acknowledge s k e
  have link : (s.acknowledge k e).jli = s.jli := by unfold State.acknowledge; split <;> rfl
  exact h.of_alertOnly only (alertsOk_acknowledge he h.alerts) (link ▸ h.link)

theorem formsOk_hand (h : FormsOk s) (f : OutFrame) : FormsOk (s.hand f) := by
  have only := hand_only s f
  exact h.of_link (by rw [State.formedParts, only]; rfl) (linkOk_hand f h.link)

theorem formsOk_freeSheetBlocks (h : FormsOk s) (n : Nat) : FormsOk (s.freeSheetBlocks n) := by
  unfold State.freeSheetBlocks
  split
  · exact h.same rfl rfl
  · exact h

theorem formsOk_freeSheets (h : FormsOk s) (l : List Nat) : FormsOk (s.freeSheets l) := by
  have freed : FormsOk (s.each l State.freeSheetBlocks) :=
    State.each_kept (P := FormsOk) (fun _ n ht => formsOk_freeSheetBlocks ht n) l h
  exact freed.same rfl rfl

theorem formsOk_writePool {i : Nat} {e : PoolEntry} (h : FormsOk s) (written : s.writePool i e = some t) : FormsOk t := by
  obtain ⟨k, x, rfl⟩ := writePool_some written
  exact h.same rfl rfl

theorem formsOk_modJob (h : FormsOk s) (j : Fin 128) (f : Job → Job) : FormsOk (s.modJob j f) :=
  h.same (by simp [State.formedParts]) (State.modJob_jli ..)

theorem formsOk_takeDescriptor (h : FormsOk s) (j : Fin 128) (d : SheetDecl) : FormsOk (s.takeDescriptor j d) := by
  refine formsOk_modJob ?_ j _
  exact h.same rfl rfl

theorem formsOk_completeLast (h : FormsOk s) (j : Fin 128) : FormsOk (s.completeLast j) := by
  unfold State.completeLast
  split
  · split
    · exact h.same rfl rfl
    · exact h
  · exact h

/-- R7, R11: a sheet's payload is written at addresses of the DRAM. -/
theorem formsOk_storeData (h : FormsOk s) (n : Nat) (d : SheetDesc) (l : List Byte) : FormsOk (s.storeData n d l) where
  alerts := h.alerts
  link := h.link
  dram := wf_writeImage _ l _ _ h.dram

/-- R152, R165 to R167, R173: after a reset the alert queue is empty and HELLO alone waits to be sent. -/
theorem SetByReset.formsOk {c : ResetCause} (reset : SetByReset s t c) (dram : Memory.wf s.spm.dram = true) : FormsOk t where
  alerts := .of_queue (by rw [reset.alerts]; exact ⟨Nat.zero_le _, List.nodup_nil, nofun, nofun⟩)
    (by rw [reset.dropped]; exact Nat.zero_le _)
  link := ⟨by rw [reset.frames]; exact Nat.le_of_ble_eq_true rfl, by rw [reset.linkErrors]; exact Nat.zero_le _,
    by rw [reset.strayFrames]; exact Nat.zero_le _⟩
  dram := by rw [reset.dram]; exact dram

end Forms

/-- The forms survive each single change of dispatch. -/
theorem keepsDispatch_formsOk : KeepsDispatch FormsOk where
  raiseAt h := formsOk_raiseAt h _ _ _
  clear h := formsOk_clear h _
  job _ _ h := h.same rfl rfl
  disp h := h.same rfl rfl
  pool _ _ h := h.same rfl rfl
  printer _ _ h := h.same rfl rfl
  reserved h := h.same rfl rfl

/-- The forms survive each single change that the commands are made of. -/
theorem keepsCommands_formsOk : KeepsCommands FormsOk where
  toKeepsDispatch := keepsDispatch_formsOk
  account _ h := h.same rfl rfl
  hand h := formsOk_hand h _
  paused h := h.same rfl rfl
  freeSheet h := formsOk_freeSheetBlocks h _
  meters _ h := h.same rfl rfl
  progress _ _ h := h.same rfl rfl
  control h := h.same rfl rfl
  protocolError h := h.same rfl rfl
  endJob h := keepsDispatch_formsOk.endJob_of (fun h => formsOk_hand h _) (fun h => h.same rfl rfl)
    (fun h => formsOk_freeSheets h _) (fun h => h.same rfl rfl) (fun h => h.same rfl rfl) h
  choice h := h.same rfl rfl
  port _ _ h := h.same rfl rfl
  stream h := h.same rfl rfl
  stray h := h.of_link rfl ⟨h.link.fits, h.link.linkErrors, satAdd_le _ _ _⟩
  declare _ _ h := formsOk_takeDescriptor h _ _
  complete h := formsOk_completeLast h _
  store _ _ _ h := formsOk_storeData h _ _ _
  admitJob _ _ h := h.same rfl rfl
  sense _ _ h := h.same rfl rfl
  linkError h := h.of_link rfl ⟨h.link.fits, satAdd_le _ _ _, h.link.strayFrames⟩
  sent e h := by
    refine h.of_link rfl ⟨Nat.le_of_succ_le ?_, h.link.linkErrors, h.link.strayFrames⟩
    exact (congrArg List.length e).symm.trans_le h.link.fits
  mgu _ _ h := h.same rfl rfl
  restartWait h := h.of_link rfl ⟨h.link.fits, h.link.linkErrors, h.link.strayFrames⟩
  route _ _ h := h.same rfl rfl
  poolWrite e h := formsOk_writePool h e
  portWrite h := h.same rfl rfl
  printerWrite _ _ _ h := h.same rfl rfl
  tariff h := h.same rfl rfl
  bank h := h.same rfl rfl
  accountWrite _ h := h.same rfl rfl
  mask h := formsOk_writeMask h _
  printerBeacon h := h.same rfl rfl
  portBeacon h := h.same rfl rfl
  officeBeacon h := h.same rfl rfl
  override h := h.same rfl rfl
  acknowledge e h := formsOk_acknowledge h e
  mode h := h.same rfl rfl
  senseLines h := h.same rfl rfl
  reset {s c} h := (setByReset_resetKeeping s c).formsOk h.dram

/-- Settles O56: the three forms survive each single change, and so every step. -/
theorem alertLinkAndDramInvariant : Obligations.AlertLinkAndDramInvariant := by
  intro s t alerts link dram e
  obtain ⟨alerts, link, dram⟩ := step_kept keepsCommands_formsOk (fun {s} h => (setByReset_powerUp s).formsOk h.dram)
    (fun h => h.same rfl rfl) (fun h => h.same rfl rfl) ⟨alerts, link, dram⟩ e
  exact ⟨alerts, link, dram⟩

end Sys2Proof.Machine

/-! ## Raises and clears (R152 to R157, R167) -/

namespace Sys2Proof.Machine

/-! ### Room in a full queue (R151, R157) -/

theorem severity_le_three (c : AlertClass) : severity c ≤ 3 := by cases c <;> decide

/-- R157: the lowest severity of a queue is the greatest bound below its entries, and `high` is over it. -/
theorem le_lowestSeverity_iff {m : Nat} : ∀ {l : List AlertEntry} {high : Nat},
    m ≤ lowestSeverity high l ↔ m ≤ high ∧ ∀ e ∈ l, m ≤ severity e.key.cls
  | [], _ => by simp [lowestSeverity]
  | x :: l, high => by
    have step : lowestSeverity high (x :: l) = lowestSeverity (min high (severity x.key.cls)) l := rfl
    rw [step, le_lowestSeverity_iff, List.forall_mem_cons, Nat.le_min, and_assoc]

theorem lowestSeverity_of_least {l : List AlertEntry} {x : AlertEntry} (hx : x ∈ l)
    (least : ∀ y ∈ l, severity x.key.cls ≤ severity y.key.cls) : lowestSeverity 3 l = severity x.key.cls :=
  Nat.le_antisymm ((le_lowestSeverity_iff.1 (Nat.le_refl _)).2 x hx)
    (le_lowestSeverity_iff.2 ⟨severity_le_three _, least⟩)

/-- R157: the entry that makes room is the first of the lowest severity. -/
theorem evict_eq_eraseIdx {l : List AlertEntry} {i : Nat} {x : AlertEntry} (hi : l[i]? = some x)
    (least : ∀ y ∈ l, severity x.key.cls ≤ severity y.key.cls)
    (first : ∀ i' y, i' < i → l[i']? = some y → severity x.key.cls < severity y.key.cls) : evict l = l.eraseIdx i := by
  obtain ⟨hlt, hx⟩ := List.getElem?_eq_some_iff.1 hi
  have found : l.findIdx? (fun e => severity e.key.cls == severity x.key.cls) = some i := by
    refine List.findIdx?_eq_some_iff_getElem.2 ⟨hlt, by simp [hx], fun j hj => ?_⟩
    have := first j l[j] hj (List.getElem?_eq_getElem _)
    simpa using Nat.ne_of_gt this
  rw [evict, lowestSeverity_of_least (List.mem_of_getElem? hi) least, List.eraseP_eq_eraseIdx, found]

/-! ### A raise (R153, R157) -/

section Raises

variable {s w : State} {k : AlertKey} {on : Bool} {time : Time} {e n : AlertEntry}

/-- R153: the entry that a raise of a key without one creates. -/
theorem createAlert_newAlert (hn : n = { newAlert k on time with sent := s.sentFlag (newAlert k on time) })
    (hw : w = s.setAlerts (s.arl.queue ++ [n])) : s.createAlert (newAlert k on time) = w.announce n := by
  subst hn hw
  rfl

theorem raiseAt_new (h : s.alertFor k = none) : s.raiseAt k on time = s.addAlert (newAlert k on time) := by
  simp only [State.raiseAt, h]

theorem addAlert_room (h : s.arl.queue.length < 64) : s.addAlert e = s.createAlert e := if_pos h

theorem addAlert_evicts (full : s.arl.queue.length = 64) (lower : lowestSeverity 3 s.arl.queue < severity e.key.cls) :
    s.addAlert e = ((s.setAlerts (evict s.arl.queue)).countDropped).createAlert e :=
  (if_neg (Nat.not_lt.2 full.ge)).trans (if_pos lower)

theorem addAlert_dropped (full : s.arl.queue.length = 64)
    (least : ∀ y ∈ s.arl.queue, severity e.key.cls ≤ severity y.key.cls) :
    s.addAlert e = s.countDropped := by
  have none_lower := le_lowestSeverity_iff.2 ⟨severity_le_three e.key.cls, least⟩
  exact (if_neg (Nat.not_lt.2 full.ge)).trans (if_neg (Nat.not_lt.2 none_lower))

variable (h : AlertsOk s.arl) (he : e ∈ s.arl.queue) (hk : e.key = k)
include h he hk

/-- R153: a raise of an entry that is not acked counts it. -/
theorem raiseAt_counted (ha : e.acked = false) : s.raiseAt k on time = s.setAlerts (s.arl.queue.map fun x =>
    if x.key = k then { x with active := x.active || on, lastTime := time, count := min 255 (x.count + 1) } else x) := by
  have raised : s.raiseAt k on time = s.setAlerts (replaceFirst (hasKey k) (raiseAgain on time) s.arl.queue) := by
    simp only [State.raiseAt, alertFor_of_mem h he hk, ha, Bool.false_eq_true, if_false]
  rw [raised, replaceFirst_eq_map _ h.keys]
  refine congrArg s.setAlerts (List.map_congr_left fun x hx => ?_)
  split
  · next hxk =>
    obtain rfl := key_inj h.keys hx he (hxk.trans hk.symm)
    simp only [raiseAgain, satAdd, ha]
  · rfl

/-- R153: a raise of an acked entry announces it again. -/
theorem raiseAt_acked (ha : e.acked = true)
    (hn : n = { raiseAgain on time e with sent := s.sentFlag (raiseAgain on time e) })
    (hw : w = s.setAlerts (s.arl.queue.map fun x => if x.key = k then n else x)) :
    s.raiseAt k on time = w.announce n := by
  subst hn hw
  rw [← replaceFirst_eq_map (fun _ => _) h.keys]
  simp only [State.raiseAt, alertFor_of_mem h he hk, ha, if_true]
  rfl

/-! ### A clear (R154, R155) -/

/-- R154: a clear of an active entry announces it, and ends its condition or removes it. -/
theorem clear_active (ha : e.active = true)
    (hw : w = if enabledIn s.arl.mask k.cls then s.handAlert false { e with active := false } else s) :
    s.clear k = w.setAlerts (if e.acked then w.arl.queue.filter fun x => x.key != k
      else w.arl.queue.map fun x => if x.key = k then { x with active := false } else x) := by
  have hq : w.arl.queue = s.arl.queue := by
    rw [hw]
    split
    · exact handAlert_queue _ _ _
    · rfl
  have keys : (w.arl.queue.map AlertEntry.key).Nodup := hq ▸ h.keys
  rw [← eraseP_eq_filter keys, ← replaceFirst_eq_map (fun x => { x with active := false }) keys]
  simp only [State.clear, alertFor_of_mem h he hk, ha, if_true, ← hw]
  split <;> rfl

end Raises

theorem clear_settled {s : State} {k : AlertKey} (h : ∀ e ∈ s.arl.queue, e.key = k → e.active = false) : s.clear k = s := by
  cases hk : s.alertFor k with
  | none => exact clear_none hk
  | some e =>
    obtain ⟨hm, he⟩ := mem_of_alertFor hk
    exact clear_inactive hk (h e hm he)

/-- Settles O43: a raise by the entry that the queue holds for the key and by the room in it, and a clear by that entry. -/
theorem alertsAreRaisedAndCleared : Obligations.AlertsAreRaisedAndCleared := by
  intro s k on time h
  refine ⟨fun absent n w hn => ?_, fun e he hk ha => raiseAt_counted h he hk ha, fun e n w he hk ha hn hw => ?_,
    fun e w he hk ha hw => clear_active h he hk ha hw, clear_settled⟩
  · rw [raiseAt_new (alertFor_none_iff.2 absent)]
    refine ⟨fun room hw => ?_, fun i x full hi lower least first hw => ?_, fun full least => addAlert_dropped full least⟩
    · rw [addAlert_room room]
      refine (createAlert_newAlert hn hw).trans ?_
      rw [hn, hw]
      rfl
    · have lowest := lowestSeverity_of_least (List.mem_of_getElem? hi) least
      rw [addAlert_evicts full (lowest.trans_lt lower), evict_eq_eraseIdx hi least first]
      refine (createAlert_newAlert (s := (s.setAlerts (s.arl.queue.eraseIdx i)).countDropped) hn hw).trans ?_
      rw [hn, hw]
      rfl
  · subst hk
    rw [raiseAt_acked h he rfl ha hn hw, hn, hw]
    rfl

end Sys2Proof.Machine

/-! ## Beacons and their overrides (R158 to R160, R172) -/

namespace Sys2Proof.Machine

/-! ### The pattern a beacon shows (R159) -/

section Patterns

variable {a : Arl} {b : Fin 8}

/-- R158, R159: an entry of the queue is routed to a beacon. -/
def Arl.Routed (a : Arl) (b : Fin 8) (e : AlertEntry) : Prop := e ∈ a.queue ∧ a.beaconOf e.key = some b

/-- R159: an entry routed to a beacon calls for the pattern of a severity: it has this severity and is not acked. -/
def Arl.Calls (a : Arl) (b : Fin 8) (n : Nat) : Prop := ∃ e, a.Routed b e ∧ severity e.key.cls = n ∧ e.acked = false

theorem mem_routed_iff {e : AlertEntry} : e ∈ a.queue.filter (fun e => a.beaconOf e.key == some b) ↔ a.Routed b e := by
  rw [List.mem_filter, beq_iff_eq, Arl.Routed]

theorem routed_any_iff {n : Nat} : ((a.queue.filter fun e => a.beaconOf e.key == some b).any fun e =>
    severity e.key.cls == n && !e.acked) = true ↔ a.Calls b n := by
  simp only [List.any_eq_true, mem_routed_iff, Bool.and_eq_true, beq_iff_eq, Bool.not_eq_true', Arl.Calls]

theorem routed_isEmpty_iff : (a.queue.filter fun e => a.beaconOf e.key == some b).isEmpty = true ↔ ∀ e, ¬a.Routed b e := by
  simp only [List.isEmpty_iff, List.eq_nil_iff_forall_not_mem, mem_routed_iff]

open Classical in
/-- R159: the first pattern of the list that the routed entries call for. -/
theorem calledPattern_eq : a.calledPattern b =
    if a.Calls b 3 then .fast else if a.Calls b 2 then .slow else if ∀ e, ¬a.Routed b e then .off else .steady := by
  simp only [Arl.calledPattern, routed_any_iff, routed_isEmpty_iff]

theorem pattern_overridden {o : Override} (h : a.overrides.get b = some o) : a.pattern b = o.pattern := by
  simp only [Arl.pattern, h]

theorem pattern_called (h : a.overrides.get b = none) : a.pattern b = a.calledPattern b := by
  simp only [Arl.pattern, h]

theorem not_calls_iff {n : Nat} : ¬a.Calls b n ↔ ∀ e, a.Routed b e → severity e.key.cls = n → e.acked = true := by
  simp [Arl.Calls]

end Patterns

/-! ### BEACON_OVERRIDE and its expiry (R160) -/

section Overrides

variable {s u : State} {token beacon pattern : Byte} {seconds : Half}

theorem exec_beaconOverride (h : s.jli.restart = none) (token beacon pattern : Byte) (seconds : Half) :
    exec (.beaconOverride token beacon pattern seconds) s =
      .next (s.silenceRule.commandOverride token beacon pattern seconds).serviceLines :=
  congrArg Host.Outcome.next (onFrame_running h _)

/-- R178: the codes of the four patterns. -/
theorem patternOfCode_eq : ∀ n, patternOfCode n = [Pattern.off, .steady, .slow, .fast][n]?
  | 0 | 1 | 2 | 3 | _ + 4 => rfl

theorem commandOverride_badIndex (h : 8 ≤ beacon.toNat) : u.commandOverride token beacon pattern seconds =
    u.hand (.commandReply token 10#8 .badIndex []) :=
  dif_neg (Nat.not_lt.2 h)

theorem commandOverride_malformed (h : beacon.toNat < 8) (hp : patternOfCode pattern.toNat = none) :
    u.commandOverride token beacon pattern seconds = u.hand (.commandReply token 10#8 .malformed []) := by
  simp only [State.commandOverride, h, hp, dif_pos]
  rfl

theorem commandOverride_ok {b : Fin 8} {x : Pattern} (hb : b.val = beacon.toNat) (hp : patternOfCode pattern.toNat = some x) :
    u.commandOverride token beacon pattern seconds =
      (u.setOverride b (overrideFor u.now x seconds)).hand (.commandReply token 10#8 .ok []) := by
  have h : beacon.toNat < 8 := hb ▸ b.isLt
  obtain rfl : b = ⟨beacon.toNat, h⟩ := Fin.ext hb
  simp only [State.commandOverride, h, hp, dif_pos]
  rfl

theorem overrideFor_eq (now : Time) (x : Pattern) (seconds : Half) : overrideFor now x seconds =
    if seconds.toNat = 0 then none
    else some { pattern := x, expiry := now + BitVec.ofNat 32 (min seconds.toNat 3600 * 1000) } := by
  have zero : seconds = 0#16 ↔ seconds.toNat = 0 := BitVec.toNat_inj.symm
  simp only [overrideFor, zero]
  rfl

theorem exec_beaconOverrideExpiry_due {b : Fin 8} (h : s.overrideExpired b = true) :
    exec (.beaconOverrideExpiry b) s = .next (s.setOverride b none) :=
  congrArg Host.Outcome.next (if_pos h)

theorem exec_beaconOverrideExpiry_early {b : Fin 8} (h : ¬s.overrideExpired b = true) :
    exec (.beaconOverrideExpiry b) s = .next s :=
  congrArg Host.Outcome.next (if_neg h)

end Overrides

/-- Settles O42: the pattern by the override or the entries routed, the lamp by the pattern, and the command and its expiry. -/
theorem beaconsAndOverrides : Obligations.BeaconsAndOverrides := by
  intro s
  refine ⟨fun b => ⟨fun o => pattern_overridden, ?_⟩, fun b => ?_, ?_, fun b o ho hr => ?_, fun b early => ?_⟩
  · intro routed hrouted free
    obtain rfl : routed = s.arl.Routed b := funext fun e => propext (hrouted e)
    rw [pattern_called free, calledPattern_eq]
    refine ⟨fun fast => if_pos fast, fun notFast => ?_⟩
    rw [if_neg (not_calls_iff.2 notFast)]
    refine ⟨fun slow => if_pos slow, fun notSlow => ?_⟩
    rw [if_neg (not_calls_iff.2 notSlow)]
    exact ⟨fun steady => if_neg (not_forall_not.2 steady), fun off => if_pos off⟩
  · unfold State.lamp
    refine ⟨?_, ?_, ?_, ?_⟩ <;> intro shown <;> rw [shown] <;> rfl
  · intro u token beacon pattern seconds hs hu
    have run (w : State) (hw : u.commandOverride token beacon pattern seconds = w) :
        ∃ t, exec (.beaconOverride token beacon pattern seconds) s = .next t ∧ LinesOnly w t :=
      ⟨_, (exec_beaconOverride hs ..).trans (by rw [← hu, hw]), linesOnly_serviceLines w⟩
    refine ⟨fun hb => run _ (commandOverride_badIndex hb), fun hb hp => run _ (commandOverride_malformed hb ?_),
      fun b x hb hx => run _ ?_⟩
    · rw [patternOfCode_eq]
      exact List.getElem?_eq_none hp
    · rw [commandOverride_ok hb ((patternOfCode_eq _).trans hx), overrideFor_eq]
      rfl
  · exact exec_beaconOverrideExpiry_due (overrideExpired_iff.2 ⟨o, ho, hr⟩)
  · refine exec_beaconOverrideExpiry_early fun due => ?_
    obtain ⟨o, ho, hr⟩ := overrideExpired_iff.1 due
    exact Bool.false_ne_true ((early o ho).symm.trans hr)

end Sys2Proof.Machine

/-! ## ALERT-SETUP writes (R156, R158, R163, R164, R169) -/

namespace Sys2Proof.Machine

/-! ### The relay mask (R156) -/

/-- R156: an entry that is neither acked nor announced. -/
def pendingAlert (e : AlertEntry) : Bool := !e.acked && !e.sent

/-- R153: the ALERT frame of a raise. -/
def raisedFrame (e : AlertEntry) : OutFrame := .alert true e.key e.active e.count e.firstTime e.lastTime

/-- The queue with the entries of some keys marked sent. -/
def markSent (keys : List AlertKey) (l : List AlertEntry) : List AlertEntry :=
  l.map fun x => if x.key ∈ keys then { x with sent := true } else x

theorem markSent_nil (l : List AlertEntry) : markSent [] l = l := by simp [markSent]

theorem markSent_keys (keys : List AlertKey) (l : List AlertEntry) :
    (markSent keys l).map AlertEntry.key = l.map AlertEntry.key := by
  rw [markSent, List.map_map]
  refine List.map_congr_left fun x _ => ?_
  dsimp only [Function.comp]
  split <;> rfl

theorem markSent_cons (k : AlertKey) (keys : List AlertKey) (l : List AlertEntry) :
    markSent keys (markSent [k] l) = markSent (k :: keys) l := by
  rw [markSent, markSent, markSent, List.map_map]
  refine List.map_congr_left fun x _ => ?_
  by_cases first : x.key = k <;> by_cases later : x.key ∈ keys <;> simp [first, later]

/-- R152: where keys differ, the entries whose keys are those of the entries with a property are these entries. -/
theorem mem_keys_filter_iff {l : List AlertEntry} {f : AlertEntry → Bool} (hl : (l.map AlertEntry.key).Nodup)
    {x : AlertEntry} (hx : x ∈ l) : x.key ∈ (l.filter f).map AlertEntry.key ↔ f x = true := by
  refine ⟨fun h => ?_, fun h => List.mem_map.2 ⟨x, List.mem_filter.2 ⟨hx, h⟩, rfl⟩⟩
  obtain ⟨y, hy, key⟩ := List.mem_map.1 h
  obtain ⟨hyl, hyf⟩ := List.mem_filter.1 hy
  exact key_inj hl hyl hx key ▸ hyf

section Mask

variable {s : State}

theorem announcePending_settled {e : AlertEntry} (h : pendingAlert e = false) : s.announcePending e = s := by
  have settled : (e.acked || e.sent) = true := by simpa [pendingAlert, or_iff_not_imp_left] using h
  exact if_pos settled

/-- R156, R167: where the transmit list has room, a pending entry is announced and marked sent. -/
theorem announcePending_sent {e : AlertEntry} (h : pendingAlert e = true) (keys : (s.arl.queue.map AlertEntry.key).Nodup)
    (room : s.jli.tx.length < 192) :
    s.announcePending e = (s.setAlerts (markSent [e.key] s.arl.queue)).setTx (s.jli.tx ++ [raisedFrame e]) := by
  have pending : ¬(e.acked || e.sent) = true := by simpa [pendingAlert] using h
  have taken : s.alertTaken = true := decide_eq_true room
  have marked : replaceFirst (hasKey e.key) (fun x => { x with sent := s.alertTaken }) s.arl.queue =
      markSent [e.key] s.arl.queue := by
    rw [taken, replaceFirst_eq_map _ keys]
    simp only [markSent, List.mem_singleton]
  rw [State.announcePending, if_neg pending, marked]
  exact if_pos taken

/-- R156, R167: the pending ones of some entries are announced in their order, where the transmit list has room for all. -/
theorem each_announcePending : ∀ {l : List AlertEntry} {s : State}, (s.arl.queue.map AlertEntry.key).Nodup →
    s.jli.tx.length + (l.filter pendingAlert).length ≤ 192 → s.each l State.announcePending =
      (s.setAlerts (markSent ((l.filter pendingAlert).map AlertEntry.key) s.arl.queue)).setTx
        (s.jli.tx ++ (l.filter pendingAlert).map raisedFrame)
  | [], s, _, _ => by
    rw [List.filter_nil, List.map_nil, List.map_nil, markSent_nil, List.append_nil]
    rfl
  | e :: l, s, keys, room => by
    rw [State.each_cons]
    cases h : pendingAlert e with
    | false =>
      rw [List.filter_cons_of_neg (by rw [h]; nofun)] at room ⊢
      rw [announcePending_settled h, each_announcePending keys room]
    | true =>
      rw [List.filter_cons_of_pos h, List.length_cons] at room
      rw [announcePending_sent h keys (by omega),
        each_announcePending ((markSent_keys ..).symm ▸ keys)
        (by rw [State.setTx_tx, List.length_append, List.length_singleton]; omega),
        List.filter_cons_of_pos h, List.map_cons, List.map_cons,
        ← markSent_cons e.key ((l.filter pendingAlert).map AlertEntry.key), List.append_cons _ (raisedFrame e) (List.map ..)]
      rfl

/-- R156: what a write of the relay mask announces, where the transmit list has room for it. -/
theorem writeMask_eq {m : BitVec 12} {fresh : AlertEntry → Bool} (h : AlertsOk s.arl)
    (hf : ∀ a, fresh a = (enabledIn m a.key.cls && !enabledIn s.arl.mask a.key.cls && !a.acked && !a.sent))
    (room : s.jli.tx.length + (s.arl.queue.filter fresh).length ≤ 192) :
    s.writeMask m = ((s.setMask m).setAlerts (s.arl.queue.map fun a => if fresh a then { a with sent := true } else a)).setTx
      (s.jli.tx ++ (s.arl.queue.filter fresh).map raisedFrame) := by
  have pending : (s.arl.queue.filter fun e => enabledIn m e.key.cls && !enabledIn s.arl.mask e.key.cls).filter pendingAlert =
      s.arl.queue.filter fresh := by
    rw [List.filter_filter]
    refine List.filter_congr fun a _ => ?_
    rw [hf, pendingAlert, Bool.and_comm, ← Bool.and_assoc]
  have marked : markSent ((s.arl.queue.filter fresh).map AlertEntry.key) s.arl.queue =
      s.arl.queue.map fun a => if fresh a then { a with sent := true } else a :=
    List.map_congr_left fun a ha => if_congr (mem_keys_filter_iff h.keys ha) rfl rfl
  rw [State.writeMask, each_announcePending (s := s.setMask m) h.keys (by rw [pending]; exact room), pending, ← marked]
  rfl

end Mask

/-! ### Sense modes (R163) -/

section Modes

variable {s : State} {p : Fin 32} {x : Sense} {mode : SenseMode}

/-- The sense condition is set on a record just stored. -/
theorem setSenseActive_setSense (b : Bool) :
    (s.setSense p x).setSenseActive p b = s.setSense p { x with active := b } := by
  rw [State.setSenseActive, State.sense_setSense, if_pos rfl, State.setSense_setSense]

theorem senseStarts_setSense (time : Time) : (s.setSense p x).senseStarts p time =
    ((s.setSense p { x with active := true }).raiseAt (printerKey p .senseJam) true time).refreshFeed p := by
  rw [State.senseStarts, setSenseActive_setSense]
  rfl

theorem senseEnds_setSense : (s.setSense p x).senseEnds p =
    ((s.setSense p { x with active := false }).clear (printerKey p .senseJam)).refreshFeed p := by
  rw [State.senseEnds, setSenseActive_setSense]
  rfl

variable (hx : x = s.sense p)
include hx

theorem writeSenseMode_same (h : x.mode = mode) : s.writeSenseMode p mode = s := if_pos (hx ▸ h)

theorem writeSenseMode_plain (h : x.mode ≠ mode) (leaving : x.mode = .level → x.active = false)
    (entering : mode = .level → x.high = true) : s.writeSenseMode p mode = s.setSense p { x with mode := mode } := by
  subst hx
  unfold State.writeSenseMode
  dsimp only
  rw [if_neg h]
  split
  · next hl => exact if_neg (by rw [leaving hl]; decide)
  split
  · next hl => exact if_pos (entering hl)
  · rfl

theorem writeSenseMode_leaves (h : x.mode = .level) (hm : mode ≠ .level) (active : x.active = true) :
    s.writeSenseMode p mode =
      ((s.setSense p { x with mode := mode, active := false }).clear (printerKey p .senseJam)).refreshFeed p := by
  subst hx
  unfold State.writeSenseMode
  dsimp only
  rw [if_neg (fun e => hm (e.symm.trans h)), if_pos h, if_pos active, senseEnds_setSense]

theorem writeSenseMode_enters (h : x.mode ≠ .level) (hm : mode = .level) (low : x.high = false) :
    s.writeSenseMode p mode =
      ((s.setSense p { x with mode := mode, active := true }).raiseAt (printerKey p .senseJam) true s.now).refreshFeed p := by
  subst hx
  unfold State.writeSenseMode
  dsimp only
  rw [if_neg (fun e => h (e.trans hm)), if_neg h, if_pos hm, if_neg (by rw [low]; decide), senseStarts_setSense]

end Modes

theorem storedMode_eq (e : Half) :
    storedMode e = if e = 1#16 then .edge else if e = 2#16 then .level else .off := by
  have one : e = 1#16 ↔ e.toNat = 1 := BitVec.toNat_inj.symm
  have two : e = 2#16 ↔ e.toNat = 2 := BitVec.toNat_inj.symm
  simp only [one, two]
  unfold storedMode
  split
  · next h => rw [if_pos h]
  · next h => rw [h]; rfl
  · next h1 h2 => rw [if_neg h1, if_neg h2]

/-! ### The entries by their index (R164) -/

section Entries

variable {s : State} (e : Half)

theorem writeSetup_mask : s.writeSetup 0 e = some (s.writeMask (e.truncate 12)) := rfl

theorem writeSetup_printerBeacon (p : Fin 32) :
    s.writeSetup (1 + p.val) e = some (s.setPrinterBeacon p (beaconOrNone e.toNat)) := by
  have place : 1 + p.val - 1 < 32 := by omega
  obtain hp : (⟨1 + p.val - 1, place⟩ : Fin 32) = p := Fin.ext (Nat.add_sub_cancel_left ..)
  rw [State.writeSetup, if_neg (by omega), dif_pos place, hp]

theorem writeSetup_portBeacon (q : Fin 8) :
    s.writeSetup (33 + q.val) e = some (s.setPortBeacon q (beaconOrNone e.toNat)) := by
  have place : 33 + q.val - 33 < 8 := by omega
  obtain hq : (⟨33 + q.val - 33, place⟩ : Fin 8) = q := Fin.ext (Nat.add_sub_cancel_left ..)
  rw [State.writeSetup, if_neg (by omega), dif_neg (by omega), dif_pos place, hq]

theorem writeSetup_officeBeacon : s.writeSetup 41 e = some (s.setOfficeBeacon (beaconOrNone e.toNat)) := rfl

theorem writeSetup_senseMode (p : Fin 32) :
    s.writeSetup (42 + p.val) e = some (s.writeSenseMode p (storedMode e)) := by
  have place : 42 + p.val - 42 < 32 := by omega
  obtain hp : (⟨42 + p.val - 42, place⟩ : Fin 32) = p := Fin.ext (Nat.add_sub_cancel_left ..)
  rw [State.writeSetup, if_neg (by omega), dif_neg (by omega), dif_neg (by omega), if_neg (by omega), dif_pos place, hp]

/-- R169: the write of one entry, none of which is refused, is answered OK with the one entry applied. -/
theorem alertSetupWrite_taken (hs : s.jli.restart = none) (token : Byte) {i : Nat} (hi : i < 74) {v : State}
    (hw : s.silenceRule.writeSetup i e = some v) : ∃ t, exec (.alertSetupWrite token (indexOf i) [e]) s = .next t ∧
      LinesOnly (v.hand (.commandReply token 0#8 .ok [1#8])) t := by
  refine ⟨_, congrArg Host.Outcome.next (onFrame_running hs _), ?_⟩
  rw [writeEntries_one_taken hi (by omega) (by decide) token hw]
  exact linesOnly_serviceLines _

end Entries

end Sys2Proof.Machine

/-! ## Samples and changes of the sense inputs (R161, R162) -/

namespace Sys2Proof.Machine

/-! ### A taken change (R162) -/

section Changes

variable {s t : State} {p q : Fin 32} {x : Sense} {levels : BitVec 32}

/-- R161: the filter of a slot as a falling change leaves it. -/
def Sense.fallen (x : Sense) (now : Time) : Sense := { x with high := false, run := 0, stamp := now, sampled := now }

/-- R161: the filter of a slot as a rising change leaves it. -/
def Sense.risen (x : Sense) (now : Time) : Sense := { x with high := true, run := 0, sampled := now }

theorem takeFall_eq : s.takeFall p =
    match (s.sense p).mode with
    | .off => s.setSense p ((s.sense p).fallen s.now)
    | .edge => (s.setSense p ((s.sense p).fallen s.now)).raiseAt (printerKey p .senseJam) false s.now
    | .level => (s.setSense p ((s.sense p).fallen s.now)).senseStarts p s.now := rfl

theorem takeRise_eq : s.takeRise p =
    match (s.sense p).mode with
    | .off => s.setSense p ((s.sense p).risen s.now)
    | .edge => s.setSense p ((s.sense p).risen s.now)
    | .level => (s.setSense p ((s.sense p).risen s.now)).senseEnds p := rfl

/-- R162: what the slot's mode makes of a falling change. -/
theorem changeTaken_takeFall :
    ChangeTaken (s.setSense p ((s.sense p).fallen s.now)) (s.takeFall p) p ((s.sense p).fallen s.now) where
  off h := by rw [takeFall_eq, show (s.sense p).mode = .off from h]
  edge h := by rw [takeFall_eq, show (s.sense p).mode = .edge from h]; rfl
  fall h _ := by
    rw [takeFall_eq, show (s.sense p).mode = .level from h]
    dsimp only
    rw [senseStarts_setSense, ← State.setSense_setSense s p ((s.sense p).fallen s.now)]
    rfl
  rise _ h := nomatch h

/-- R162: what the slot's mode makes of a rising change. -/
theorem changeTaken_takeRise :
    ChangeTaken (s.setSense p ((s.sense p).risen s.now)) (s.takeRise p) p ((s.sense p).risen s.now) where
  off h := by rw [takeRise_eq, show (s.sense p).mode = .off from h]
  edge h := by rw [takeRise_eq, show (s.sense p).mode = .edge from h]; rfl
  fall _ h := nomatch h
  rise h _ := by
    rw [takeRise_eq, show (s.sense p).mode = .level from h]
    dsimp only
    rw [senseEnds_setSense, ← State.setSense_setSense s p ((s.sense p).risen s.now)]
    rfl

/-! ### FALLING_CHANGE and RISING_CHANGE (R161) -/

theorem exec_fallingChange_due (h : s.changeDue p true = true) : exec (.fallingChange p) s =
    .next ((s.setSenseLines (s.senseLines &&& ~~~(1#32 <<< p.val))).takeFall p).serviceLines :=
  congrArg Host.Outcome.next (if_pos h)

theorem exec_risingChange_due (h : s.changeDue p false = true) : exec (.risingChange p) s =
    .next ((s.setSenseLines (s.senseLines ||| (1#32 <<< p.val))).takeRise p).serviceLines :=
  congrArg Host.Outcome.next (if_pos h)

theorem exec_fallingChange_same (h : ¬s.changeDue p true = true) : exec (.fallingChange p) s = .next s :=
  congrArg Host.Outcome.next (if_neg h)

theorem exec_risingChange_same (h : ¬s.changeDue p false = true) : exec (.risingChange p) s = .next s :=
  congrArg Host.Outcome.next (if_neg h)

/-! ### One sample of one filter (R161) -/

theorem sampleDue_iff : s.sampleDue p = true ↔ (s.sense p).sampled ≠ s.now := bne_iff_ne

theorem takeSample_sampled (h : (s.sense p).sampled = s.now) : State.takeSample levels s p = s :=
  State.takeSample_taken s levels p (Bool.eq_false_iff.2 fun due => sampleDue_iff.1 due h)

variable (due : (s.sense p).sampled ≠ s.now)
include due

theorem takeSample_due : State.takeSample levels s p =
    if levels.getLsbD p.val = (s.sense p).high then s.setSense p { s.sense p with run := 0, sampled := s.now }
    else if (s.sense p).run < 2 then s.setSense p { s.sense p with run := (s.sense p).run + 1, sampled := s.now }
    else if (s.sense p).high then s.takeFall p
    else s.takeRise p :=
  if_pos (sampleDue_iff.2 due)

theorem takeSample_equal (h : levels.getLsbD p.val = (s.sense p).high) :
    State.takeSample levels s p = s.setSense p { s.sense p with run := 0, sampled := s.now } :=
  (takeSample_due due).trans (if_pos h)

theorem takeSample_counted (h : levels.getLsbD p.val ≠ (s.sense p).high) (run : (s.sense p).run < 2) :
    State.takeSample levels s p = s.setSense p { s.sense p with run := (s.sense p).run + 1, sampled := s.now } :=
  (takeSample_due due).trans ((if_neg h).trans (if_pos run))

theorem takeSample_third (h : levels.getLsbD p.val ≠ (s.sense p).high) (run : 2 ≤ (s.sense p).run) :
    State.takeSample levels s p = if (s.sense p).high then s.takeFall p else s.takeRise p :=
  (takeSample_due due).trans ((if_neg h).trans (if_neg (Nat.not_lt.2 run)))

end Changes

/-! ### The filter that a sample leaves (R161, R162) -/

/-- R161, R162: the filter and the condition of a slot as a sample of a level at a timestamp leaves them. -/
def Sense.afterSample (x : Sense) (level : Bool) (now : Time) : Sense :=
  if x.sampled = now then x
  else if level = x.high then { x with run := 0, sampled := now }
  else if x.run < 2 then { x with run := x.run + 1, sampled := now }
  else if x.high then
    { x with high := false, run := 0, stamp := now, sampled := now, active := (x.mode == .level) || x.active }
  else { x with high := true, run := 0, sampled := now, active := (x.mode != .level) && x.active }

section Filters

variable {s t : State} {p : Fin 32} {levels : BitVec 32}

theorem setSense_self (s : State) (p : Fin 32) : s.setSense p (s.sense p) = s := by
  have same : put s.arl.sense p (s.sense p) = s.arl.sense := table_ext fun i => by
    rw [put_get]
    split
    · next e => rw [e]; rfl
    · rfl
  rw [State.setSense, same]

/-- What dispatch changes is no sense input. -/
theorem DispatchOnly.inputs (h : DispatchOnly s t) :
    t.arl.sense = s.arl.sense ∧ t.senseLines = s.senseLines ∧ t.now = s.now := by
  rw [h.rest]
  exact ⟨rfl, rfl, rfl⟩

theorem dispatchOnly_senseStarts (s : State) (p : Fin 32) (time : Time) :
    DispatchOnly (s.setSenseActive p true) (s.senseStarts p time) :=
  let K := keepsDispatch_only (s.setSenseActive p true)
  K.refreshFeed p (K.raiseAt (.refl _))

theorem dispatchOnly_senseEnds (s : State) (p : Fin 32) : DispatchOnly (s.setSenseActive p false) (s.senseEnds p) :=
  let K := keepsDispatch_only (s.setSenseActive p false)
  K.refreshFeed p (K.clear (.refl _))

/-- R162: a falling change makes the condition active in LEVEL; the rest is dispatch and alerts. -/
theorem dispatchOnly_takeFall (s : State) (p : Fin 32) : DispatchOnly (s.setSense p
    { (s.sense p).fallen s.now with active := ((s.sense p).mode == .level) || (s.sense p).active }) (s.takeFall p) := by
  rw [takeFall_eq]
  cases (s.sense p).mode with
  | off => exact .refl _
  | edge => exact (keepsDispatch_only _).raiseAt (.refl _)
  | level =>
    have taken := dispatchOnly_senseStarts (s.setSense p ((s.sense p).fallen s.now)) p s.now
    rw [setSenseActive_setSense] at taken
    exact taken

/-- R162: a rising change ends the condition in LEVEL. -/
theorem dispatchOnly_takeRise (s : State) (p : Fin 32) : DispatchOnly (s.setSense p
    { (s.sense p).risen s.now with active := ((s.sense p).mode != .level) && (s.sense p).active }) (s.takeRise p) := by
  rw [takeRise_eq]
  cases (s.sense p).mode with
  | off => exact .refl _
  | edge => exact .refl _
  | level =>
    have taken := dispatchOnly_senseEnds (s.setSense p ((s.sense p).risen s.now)) p
    rw [setSenseActive_setSense] at taken
    exact taken

/-- R161, R162: a sample changes its own slot's record, and, with a change taken, what dispatch and alerts change. -/
theorem dispatchOnly_takeSample (levels : BitVec 32) (s : State) (p : Fin 32) :
    DispatchOnly (s.setSense p ((s.sense p).afterSample (levels.getLsbD p.val) s.now)) (State.takeSample levels s p) := by
  unfold Sense.afterSample
  split
  · next sampled =>
    rw [takeSample_sampled sampled, setSense_self]
    exact .refl s
  next due =>
  split
  · next equal =>
    rw [takeSample_equal due equal]
    exact .refl _
  next differs =>
  split
  · next run =>
    rw [takeSample_counted due differs run]
    exact .refl _
  next run =>
  rw [takeSample_third due differs (Nat.not_lt.1 run)]
  split
  · exact dispatchOnly_takeFall s p
  · exact dispatchOnly_takeRise s p

/-- One slot's record, the levels on the inputs and the timestamp are given ones. -/
structure SlotIs (p : Fin 32) (x : Sense) (levels : BitVec 32) (now : Time) (t : State) : Prop where
  sense : t.sense p = x
  levels : t.senseLines = levels
  now : t.now = now

/-- The line arbiters change no sense input. -/
theorem SlotIs.lines {x : Sense} {now : Time} (h : SlotIs p x levels now s) (only : LinesOnly s t) :
    SlotIs p x levels now t := by
  rw [only.rest]
  exact ⟨h.sense, h.levels, h.now⟩

theorem slotIs_takeSample {q : Fin 32} {x : Sense} {lines : BitVec 32} {now : Time} (h : SlotIs p x lines now t) :
    SlotIs p (if p = q then x.afterSample (levels.getLsbD p.val) now else x) lines now (State.takeSample levels t q) := by
  obtain ⟨rfl, rfl, rfl⟩ := h
  obtain ⟨sense, lines, now⟩ := (dispatchOnly_takeSample levels t q).inputs
  refine ⟨?_, lines, now⟩
  have record : (State.takeSample levels t q).sense p =
      (t.setSense q ((t.sense q).afterSample (levels.getLsbD q.val) t.now)).sense p :=
    congrArg (fun v : Vector Sense 32 => v.get p) sense
  rw [record, State.sense_setSense]
  split
  · next e => rw [e]
  · rfl

/-- R161: at a tick each filter samples its own input once. -/
theorem slotIs_takeSamples (s : State) (levels : BitVec 32) (p : Fin 32) :
    SlotIs p ((s.sense p).afterSample (levels.getLsbD p.val) s.now) levels s.now (s.takeSamples levels) := by
  refine each_at (P := SlotIs p (s.sense p) levels s.now) (j := p) (fun t q hq ht => ?_) (fun t ht => ?_) (fun t q hq ht => ?_)
    (List.mem_finRange p) (List.nodup_finRange 32) ⟨rfl, rfl, rfl⟩
  · have slot := slotIs_takeSample (levels := levels) (q := q) ht
    rwa [if_neg (Ne.symm hq)] at slot
  · have slot := slotIs_takeSample (levels := levels) (q := p) ht
    rwa [if_pos rfl] at slot
  · have slot := slotIs_takeSample (levels := levels) (q := q) ht
    rwa [if_neg (Ne.symm hq)] at slot

/-- R161: the sample of a tick is of the levels that stand then. -/
theorem senseSample_mem_dueEvents : .senseSample levels ∈ s.dueEvents ↔ levels = s.senseLines := by
  rw [mem_dueEvents]
  simp [mem_dueOnInput, mem_dueOnPort, mem_dueForPrinter]

end Filters

/-- Settles O34: an ALERT-SETUP entry by its index, a tick's sample slot by slot, and one filter's sample or third sample. -/
theorem alertSetupAndSenseInputs : Obligations.AlertSetupAndSenseInputs := by
  refine ⟨fun s u token e hs hu => ?_, fun s levels => ?_, ?_⟩
  · have taken {i : Nat} (hi : i < 74) {v : State} (hw : u.writeSetup i e = some v) :=
      alertSetupWrite_taken e hs token hi (hu ▸ hw)
    refine ⟨?_, fun b hb => ?_, fun p mode x hm hx => ?_⟩
    · obtain ⟨t, run, lines⟩ := taken (by decide) (writeSetup_mask e)
      refine ⟨_, t, run, lines, alertOnly_writeMask u _, fun fresh hf h room => ?_⟩
      rw [writeMask_eq h hf room]
      exact ⟨rfl, rfl, rfl⟩
    · obtain rfl : b = beaconOrNone e.toNat := hb
      exact ⟨fun p => taken (by omega) (writeSetup_printerBeacon e p), fun q => taken (by omega) (writeSetup_portBeacon e q),
        taken (by decide) (writeSetup_officeBeacon e)⟩
    · obtain ⟨t, run, lines⟩ := taken (by omega) (writeSetup_senseMode e p)
      rw [storedMode_eq, ← hm] at lines
      exact ⟨_, t, run, lines, writeSenseMode_same hx, writeSenseMode_plain hx, writeSenseMode_leaves hx,
        writeSenseMode_enters hx⟩
  · have lines := linesOnly_serviceLines (s.takeSamples levels)
    obtain ⟨t, run, only⟩ := eventsChangeOnlyTheirOwn (.senseSample levels) s rfl
    obtain rfl : (s.takeSamples levels).serviceLines = t := Host.Outcome.next.inj run
    have slot (p : Fin 32) := (slotIs_takeSamples s levels p).lines lines
    refine ⟨_, run, only, (slot 0).levels, lines, fun p x hx => ?_⟩
    subst hx
    exact (slot p).sense
  · intro s p x fall rise hx hfall hrise
    subst hx hfall hrise
    refine ⟨fun levels => ⟨takeSample_sampled, takeSample_equal, takeSample_counted, fun due high low run => ?_,
      fun due low high run => ?_⟩, fun due high run => ?_, fun due low run => ?_, fun early => ?_, fun early => ?_,
      fun levels => senseSample_mem_dueEvents⟩
    · rw [takeSample_third due (by rw [high, low]; decide) run, if_pos high]
      exact changeTaken_takeFall
    · rw [takeSample_third due (by rw [high, low]; decide) run, if_neg (by rw [low]; decide)]
      exact changeTaken_takeRise
    · refine ⟨_, _, exec_fallingChange_due (changeDue_iff.2 ⟨due, high, run⟩), linesOnly_serviceLines _, ?_⟩
      exact changeTaken_takeFall (s := s.setSenseLines (s.senseLines &&& ~~~(1#32 <<< p.val)))
    · refine ⟨_, _, exec_risingChange_due (changeDue_iff.2 ⟨due, low, run⟩), linesOnly_serviceLines _, ?_⟩
      exact changeTaken_takeRise (s := s.setSenseLines (s.senseLines ||| (1#32 <<< p.val)))
    · refine exec_fallingChange_same fun due => ?_
      obtain ⟨unsampled, high, run⟩ := changeDue_iff.1 due
      rcases early with sampled | low | count
      · exact unsampled sampled
      · exact Bool.false_ne_true (low.symm.trans high)
      · exact count run
    · refine exec_risingChange_same fun due => ?_
      obtain ⟨unsampled, low, run⟩ := changeDue_iff.1 due
      rcases early with sampled | high | count
      · exact unsampled sampled
      · exact Bool.false_ne_true (low.symm.trans high)
      · exact count run

end Sys2Proof.Machine

/-! ## The queue of waiting commands, and the commands (section 0.7, R168, R172) -/

namespace Sys2Proof.Machine

/-- Settles O1: a step is `exec` of the front command. -/
theorem stepTakesTheFrontCommand : Obligations.StepTakesTheFrontCommand := fun _ _ _ => rfl

/-! ### No command touches the queue -/

section Queue

variable {s t : State} {l : List Instr}

theorem AlertOnly.pending (h : AlertOnly s t) : t.pending = s.pending := by
  unfold AlertOnly at h
  rw [h]

theorem PrintingOnly.pending (h : PrintingOnly s t) : t.pending = s.pending := by rw [h.rest]

theorem pending_hand (s : State) (f : OutFrame) : (s.hand f).pending = s.pending := by rw [hand_only]

theorem pending_completeLast (s : State) (j : Fin 128) : (s.completeLast j).pending = s.pending := by
  unfold State.completeLast
  split
  · split
    · rfl
    · rfl
  · rfl

/-- The commands that wait are given ones. -/
def QueueIs (l : List Instr) (s : State) : Prop := s.pending = l

theorem QueueIs.of_eq (h : QueueIs l s) (e : t.pending = s.pending) : QueueIs l t := e.trans h

/-- No single change that the commands are made of touches the queue. -/
theorem keepsCommands_queueIs (l : List Instr) : KeepsCommands (QueueIs l) where
  raiseAt h := h.of_eq (alertOnly_raiseAt _ _ _ _).pending
  clear h := h.of_eq (alertOnly_clear _ _).pending
  job _ _ h := h
  disp h := h
  pool _ _ h := h
  printer _ _ h := h
  reserved h := h
  account _ h := h
  hand h := h.of_eq (pending_hand _ _)
  paused h := h
  freeSheet h := h.of_eq (printingOnly_freeSheetBlocks _ _).pending
  meters _ h := h
  progress _ _ h := h
  control h := h
  protocolError h := h
  endJob h := h.of_eq ((keepsPrinting_only _).endJob (.refl _)).pending
  choice h := h
  port _ _ h := h
  stream h := h
  stray h := h
  declare _ _ h := h.of_eq (State.modJob_pending _ _ _)
  complete h := h.of_eq (pending_completeLast _ _)
  store _ _ _ h := h
  admitJob _ _ h := h
  sense _ _ h := h
  linkError h := h
  sent _ h := h
  mgu _ _ h := h
  restartWait h := h
  route _ _ h := h
  poolWrite e h := by
    obtain ⟨k, x, rfl⟩ := writePool_some e
    exact h
  portWrite h := h
  printerWrite _ _ _ h := h
  tariff h := h
  bank h := h
  accountWrite _ h := h
  mask h := h.of_eq (alertOnly_writeMask _ _).pending
  printerBeacon h := h
  portBeacon h := h
  officeBeacon h := h
  override h := h
  acknowledge _ h := h.of_eq (alertOnly_acknowledge _ _ _).pending
  mode h := h
  senseLines h := h
  reset h := h

end Queue

/-- Settles O3: the resets keep the queue, and every other command does by its single changes. -/
theorem everyCommandHasANextState : Obligations.EveryCommandHasANextState := by
  intro c s
  obtain ⟨t, run⟩ := exec_next c s
  refine ⟨t, run, ?_⟩
  have keeps := keepsCommands_queueIs s.pending
  cases hc : isReset c with
  | false => exact keeps.exec_kept hc run rfl
  | true =>
    cases c <;> simp only [isReset, Bool.false_eq_true] at hc
    case powerOn => cases run; rfl
    case resetLine => cases run; rfl
    case restartReset => cases run; exact keeps.restartNow rfl

end Sys2Proof.Machine

/-! ## Frames that are taken, discarded or stray, and the wait of a RESTART (R165 to R168, R172) -/

namespace Sys2Proof.Machine

/-! ### What a frame is to the link (R165, R166, R172) -/

section Held

variable {s : State}

/-- R172: from a RESTART to its reset no frame is taken. -/
theorem onFrame_held (h : s.jli.restart ≠ none) (f : State → State) : s.onFrame f = s :=
  if_pos (Option.isSome_iff_ne_none.2 h)

/-- R165, R172: from a RESTART to its reset no discarded run of bytes is counted. -/
theorem discardBytes_held (h : s.jli.restart ≠ none) : s.discardBytes = s :=
  if_pos (Option.isSome_iff_ne_none.2 h)

theorem discardBytes_running (h : s.jli.restart = none) : s.discardBytes = s.countLinkError :=
  if_neg (by simp [h])

/-- R166, R168: a frame is answered after the silence rule, and beyond the answer only the line arbiters act. -/
theorem exec_onFrame (h : s.jli.restart = none) {c : Instr} {f : State → State} (run : exec c s = .next (s.onFrame f))
    {w : State} (answer : LinesOnly w (f s.silenceRule)) : ∃ t, exec c s = .next t ∧ LinesOnly w t :=
  ⟨_, run.trans (congrArg Host.Outcome.next (onFrame_running h f)), answer.trans (linesOnly_serviceLines _)⟩

end Held

/-- R166: a job frame acts as a frame, on stream 0 as a stray one. -/
theorem onJobFrame_onFrame (n : BitVec 4) (g : State → Fin 15 → State) :
    ∃ f, ∀ s : State, s.onJobFrame n g = s.onFrame f := by
  unfold State.onJobFrame
  cases streamIndex n with
  | some i => exact ⟨_, fun _ => rfl⟩
  | none => exact ⟨_, fun _ => rfl⟩

/-- What a command that is a valid frame does, it does as a frame; of one that cannot arrive, at most a discarded run of bytes
remains. -/
theorem exec_of_isFrame {c : Instr} (hc : isFrame c = true) : (∃ f, ∀ s, exec c s = .next (s.onFrame f)) ∨
    c.wf = false ∧ ∀ s, s.jli.restart ≠ none → exec c s = .next s := by
  have job (n : BitVec 4) (g : State → Fin 15 → State) :
      ∃ f, ∀ s : State, (.next (s.onJobFrame n g) : Host.Outcome State Fault Refusal) = .next (s.onFrame f) :=
    (onJobFrame_onFrame n g).imp fun _ e s => congrArg Host.Outcome.next (e s)
  cases c
  case strayFrame f =>
    by_cases hf : strayInFrame f = true
    · exact .inl ⟨_, fun s => congrArg Host.Outcome.next (if_pos hf)⟩
    · exact .inr ⟨by simp [Instr.wf, hf], fun s _ => congrArg Host.Outcome.next (if_neg hf)⟩
  case jobOpen n r => exact .inl (job n _)
  case sheet n d => exact .inl (job n _)
  case data n l =>
    by_cases hl : Config.maxPayload < l.length
    · refine .inr ⟨by simp [Instr.wf, hl], fun s hs => congrArg Host.Outcome.next ?_⟩
      rw [if_pos hl, discardBytes_held hs]
    · exact .inl ((job n _).imp fun _ e s => (congrArg Host.Outcome.next (if_neg hl)).trans (e s))
  case jobClose n => exact .inl (job n _)
  case jobAbort n => exact .inl (job n _)
  case malformed k p =>
    by_cases hf : formFault k p = true
    · exact .inl ⟨_, fun s => congrArg Host.Outcome.next (if_pos hf)⟩
    · exact .inr ⟨by simp [Instr.wf, hf], fun s _ => congrArg Host.Outcome.next (if_neg hf)⟩
  case tableRead | tableWrite | routeWrite | poolWrite | portWrite | printerWrite | tariffWrite | accountWrite |
      alertSetupWrite | deviceConfigWrite | cancelJob | holdJob | releaseJob | adjust | closePeriod | closePeriodAll |
      swapTariff | ackAlert | printerServiceOut | printerServiceIn | portRestart | beaconOverride | restart =>
    exact .inl ⟨_, fun _ => rfl⟩
  all_goals exact absurd hc Bool.false_ne_true

/-! ### The wait of a RESTART (R172) -/

section Restart

variable {s : State}

/-- R167: a frame handed over while fewer than 256 wait is appended. -/
theorem hand_room (h : s.jli.tx.length < 256) (f : OutFrame) : s.hand f = s.setTx (s.jli.tx ++ [f]) := if_pos h

/-- R167: at 256 waiting frames a frame is discarded and counted. -/
theorem hand_full (h : 256 ≤ s.jli.tx.length) (f : OutFrame) : s.hand f = s.countLinkError := if_neg (Nat.not_lt.2 h)

/-- R172: a valid frame, or a discarded run of bytes, while a RESTART waits for its reply to be sent. -/
theorem exec_held (h : s.jli.restart ≠ none) {c : Instr} (hc : isFrame c = true ∨ ∃ bytes, c = .linkError bytes) :
    exec c s = .next s := by
  obtain hc | ⟨bytes, rfl⟩ := hc
  · obtain ⟨f, run⟩ | ⟨-, run⟩ := exec_of_isFrame hc
    · rw [run, onFrame_held h]
    · exact run s h
  · refine congrArg Host.Outcome.next ?_
    rw [discardBytes_held h, ite_self]

/-- R172: the reset waits for the frames up to and with the reply. -/
theorem commandRestart_room (h : s.jli.tx.length < 256) (token : Byte) : s.commandRestart token =
    { s with jli := { s.jli with
      tx := s.jli.tx ++ [.commandReply token 11#8 .ok []]
      restart := some (s.jli.tx.length + 1) } } := by
  have reply : s.replyOk token .restart [] = s.setTx (s.jli.tx ++ [.commandReply token 11#8 .ok []]) := hand_room h _
  unfold State.commandRestart
  rw [reply]
  dsimp only [State.setTx]
  rw [if_pos (show s.jli.tx.length < Config.txLimit from h), List.length_append, List.length_singleton,
    State.restartNow_waiting _ (by simp [State.setRestart])]
  rfl

theorem exec_restart (h : s.jli.restart = none) (token : Byte) :
    exec (.restart token) s = .next (s.silenceRule.commandRestart token).serviceLines :=
  congrArg Host.Outcome.next (onFrame_running h _)

end Restart

/-- Settles O8: no frame is taken while a RESTART waits; a RESTART waits for the frames up to its reply, or resets at once. -/
theorem restartArmsTheReset : Obligations.RestartArmsTheReset := by
  refine ⟨fun c s h hc => exec_held h hc, fun token s h => ?_⟩
  refine ⟨_, exec_restart h token, fun room => ?_, fun full => ?_⟩
  · rw [← commandRestart_room room token]
    exact linesOnly_serviceLines _
  · obtain ⟨-, -, -, atOnce, -⟩ := everyResetSetsTheState s
    obtain ⟨t, run, set, kept⟩ := atOnce token h full
    have same : t = (s.silenceRule.commandRestart token).serviceLines :=
      Host.Outcome.next.inj (run.symm.trans (exec_restart h token))
    exact ⟨same ▸ set, same ▸ kept⟩

/-! ### Requests of the wrong form (R168) -/

section Form

variable {s : State} {payload : List Byte}

/-- R167: handing a frame over does not read the count of free values. -/
theorem hand_countChoice (s : State) (f : OutFrame) : s.countChoice.hand f = (s.hand f).countChoice := by
  unfold State.hand
  rw [apply_ite State.countChoice]
  rfl

/-- R168: a byte that the payload holds is no free value. -/
theorem byteOrFree_held {i : Nat} {b : Byte} (h : payload[i]? = some b) (n : Nat) : byteOrFree payload i n = b := by
  rw [byteOrFree, h]

theorem exec_malformed {kind : RequestKind} (h : formFault kind payload = true) :
    exec (.malformed kind payload) s = .next (s.onFrame fun t => t.refuseForm kind payload) :=
  congrArg Host.Outcome.next (if_pos h)

/-- R168, R169: a TABLE-WRITE of the wrong form is refused with no entry applied. -/
theorem refuseWriteForm_eq (u : State) (payload : List Byte) : u.refuseWriteForm payload =
    u.hand (.commandReply (payload.getD 0 0#8) 0#8 .malformed [0#8]) := replyWrite_eq u _ _ 0

/-- R168, R170: a refused TABLE-READ uses three free values for what its payload may not hold, and changes nothing else. -/
theorem refuseReadForm_lines (u : State) (payload : List Byte) :
    LinesOnly (u.hand (.readReply (payload.getD 0 0#8) .malformed (byteOrFree payload 1 u.choices)
      (halfAt [byteOrFree payload 2 (u.choices + 1), byteOrFree payload 3 (u.choices + 2)] 0) 0 []))
      (u.refuseReadForm payload) := by
  unfold State.refuseReadForm
  rw [hand_countChoice, hand_countChoice, hand_countChoice]
  exact ((linesOnly_countChoice _).trans (linesOnly_countChoice _)).trans (linesOnly_countChoice _)

/-- R168: a refused COMMAND uses one free value for a code that its payload may not hold, and changes nothing else. -/
theorem refuseCommandForm_lines (u : State) (payload : List Byte) :
    LinesOnly (u.hand (.commandReply (payload.getD 0 0#8) (byteOrFree payload 1 u.choices) .malformed []))
      (u.refuseCommandForm payload) := by
  unfold State.refuseCommandForm State.reply
  rw [hand_countChoice]
  exact linesOnly_countChoice _

/-- R170: the two bytes of a first index that the payload holds. -/
theorem halfAt_byteOrFree (h : 5 ≤ payload.length) (m n : Nat) :
    halfAt [byteOrFree payload 2 m, byteOrFree payload 3 n] 0 = halfAt payload 2 := by
  obtain ⟨b0, b1, b2, b3, rest, rfl⟩ : ∃ b0 b1 b2 b3 rest, payload = b0 :: b1 :: b2 :: b3 :: rest := by
    match payload, h with
    | b0 :: b1 :: b2 :: b3 :: rest, _ => exact ⟨b0, b1, b2, b3, rest, rfl⟩
  rfl

end Form

/-- Settles O9: each of the three wrong forms by its own refusal. -/
theorem wrongFormsAreRefused : Obligations.WrongFormsAreRefused := by
  intro payload s h
  refine ⟨fun short => ?_, fun wrong => ?_, fun wrong => ?_⟩
  · have fault : formFault .tableWrite payload = true := decide_eq_true short
    exact exec_onFrame h (exec_malformed fault) (by rw [← refuseWriteForm_eq]; exact .refl _)
  · have fault : formFault .tableRead payload = true := bne_iff_ne.2 wrong
    obtain ⟨t, run, lines⟩ := exec_onFrame h (exec_malformed fault) (refuseReadForm_lines _ payload)
    exact ⟨t, _, _, run, lines, fun b hb => byteOrFree_held hb _, fun long => halfAt_byteOrFree long _ _⟩
  · have fault : formFault .command payload = true := by simpa [formFault] using wrong
    obtain ⟨t, run, lines⟩ := exec_onFrame h (exec_malformed fault) (refuseCommandForm_lines _ payload)
    exact ⟨t, _, run, lines, fun b hb => byteOrFree_held hb _⟩

end Sys2Proof.Machine

/-! ## Discarded and stray frames, the transmit list, and silence (R165 to R167, R174, R176) -/

namespace Sys2Proof.Machine

/-! ### Discarded runs of bytes and stray frames (R165, R166) -/

section Stray

/-- R165: the four tests of a received run of bytes. -/
theorem frameFault_iff (bytes : List Byte) : frameFault bytes = true ↔
    (bytes.length ≠ 6 + (halfAt bytes 2).toNat ∨ 1024 < (halfAt bytes 2).toNat ∨ 15 < (byteAt bytes 1).toNat ∨
      halfAt bytes (4 + (halfAt bytes 2).toNat) ≠ crc16 (bytes.take (4 + (halfAt bytes 2).toNat))) := by
  simp [frameFault, Config.maxPayload, or_assoc]

/-- R166: the job frames' kinds and the lengths they take. -/
theorem jobFrameLengthOk_eq (kind : Byte) (n : Nat) : jobFrameLengthOk kind n =
    if kind = 0x01#8 then some (n == 10) else if kind = 0x02#8 then some (n == 4) else if kind = 0x03#8 then some true
    else if kind = 0x04#8 then some (n == 0) else if kind = 0x05#8 then some (n == 0) else none := by
  simp only [← BitVec.toNat_inj]
  unfold jobFrameLengthOk
  split
  all_goals simp_all

/-- R177: the management requests' kinds. -/
theorem requestKind_eq (kind : Byte) : requestKind kind =
    if kind = 0x10#8 then some .tableWrite else if kind = 0x11#8 then some .tableRead
    else if kind = 0x12#8 then some .command else none := by
  simp only [← BitVec.toNat_inj]
  unfold requestKind
  split
  all_goals simp_all

/-- R166: which valid frames are stray. -/
theorem strayInFrame_iff (f : InFrame) : strayInFrame f = true ↔
    (f.kind ∈ [0x01#8, 0x02#8, 0x03#8, 0x04#8, 0x05#8] ∧ f.stream = 0#4) ∨
    (f.kind = 0x01#8 ∧ f.payload.length ≠ 10) ∨ (f.kind = 0x02#8 ∧ f.payload.length ≠ 4) ∨
    ((f.kind = 0x04#8 ∨ f.kind = 0x05#8) ∧ f.payload.length ≠ 0) ∨
    (f.kind ∈ [0x10#8, 0x11#8, 0x12#8] ∧ f.stream ≠ 0#4) ∨
    f.kind ∉ [0x01#8, 0x02#8, 0x03#8, 0x04#8, 0x05#8, 0x10#8, 0x11#8, 0x12#8] := by
  unfold strayInFrame
  rw [jobFrameLengthOk_eq, requestKind_eq]
  by_cases job : f.kind ∈ [0x01#8, 0x02#8, 0x03#8, 0x04#8, 0x05#8]
  · simp only [List.mem_cons, List.not_mem_nil, or_false] at job
    obtain h | h | h | h | h := job <;> simp [h]
  · by_cases request : f.kind ∈ [0x10#8, 0x11#8, 0x12#8]
    · simp only [List.mem_cons, List.not_mem_nil, or_false] at request
      obtain h | h | h := request <;> simp [h]
    · simp only [List.mem_cons, List.not_mem_nil, or_false, not_or] at job request
      obtain ⟨h1, h2, h3, h4, h5⟩ := job
      obtain ⟨h6, h7, h8⟩ := request
      simp [h1, h2, h3, h4, h5, h6, h7, h8]

end Stray

/-- Settles O10: the tests of R165 and R166, and what each of the two commands does. -/
theorem discardedAndStrayFrames : Obligations.DiscardedAndStrayFrames := by
  refine ⟨frameFault_iff, fun bytes s fault => ⟨fun running => ?_, fun held => ?_⟩, strayInFrame_iff, fun f s stray h => ?_⟩
  · exact congrArg Host.Outcome.next ((if_pos fault).trans (discardBytes_running running))
  · exact exec_held held (.inr ⟨bytes, rfl⟩)
  · have run : exec (.strayFrame f) s = .next (s.onFrame State.countStray) := congrArg Host.Outcome.next (if_pos stray)
    exact exec_onFrame h run (.refl _)

/-! ### The transmit list (R167) -/

section Transmit

variable {s : State} {f : OutFrame} {rest : List OutFrame}

/-- R167: the oldest frame is sent, and no reset comes with it. -/
theorem popFrame_waiting (ht : s.jli.tx = f :: rest) (hr : s.jli.restart ≠ some 0)
    (hw : oneFewer s.jli.restart ≠ some 0) : s.popFrame = (s.setTx rest).setRestart (oneFewer s.jli.restart) := by
  unfold State.popFrame
  rw [if_neg hr]
  simp only [ht]
  exact State.restartNow_waiting _ hw

theorem popFrame_empty (ht : s.jli.tx = []) : s.popFrame = s := by
  unfold State.popFrame
  simp only [ht, ite_self]

theorem popFrame_over (hr : s.jli.restart = some 0) : s.popFrame = s := if_pos hr

end Transmit

/-- Settles O11: a frame by the frames that wait, and FRAME_SENT by the list and the wait of a RESTART. -/
theorem transmitListRule : Obligations.TransmitListRule := by
  intro s
  refine ⟨fun f room => hand_room room f, fun f full => hand_full full f, fun raised e room => ?_, fun raised e full => ?_,
    fun f rest ht hr => ?_, fun f rest n ht hr => ?_, fun f rest ht hr => ?_, fun ht => ?_, fun hr => ?_⟩
  · exact if_pos (decide_eq_true room)
  · exact if_neg fun taken => Nat.not_lt.2 full (of_decide_eq_true taken)
  · refine congrArg Host.Outcome.next ((popFrame_waiting ht ?_ ?_).trans ?_)
    · rw [hr]; nofun
    · rw [hr]; nofun
    · have same : oneFewer s.jli.restart = s.jli.restart := by rw [hr]; rfl
      rw [same]
      rfl
  · refine congrArg Host.Outcome.next ((popFrame_waiting ht ?_ ?_).trans ?_)
    · rw [hr]; nofun
    · rw [hr]; nofun
    · rw [hr]; rfl
  · exact ⟨_, congrArg Host.Outcome.next (popFrame_last ht hr), setByReset_resetKeeping s _, keptByReset_resetKeeping s _⟩
  · exact congrArg Host.Outcome.next (popFrame_empty ht)
  · exact congrArg Host.Outcome.next (popFrame_over hr)

/-! ### Silence (R174, R176) -/

section Silence

variable {s : State}

/-- R176: a valid frame after a valid frame at one timestamp changes nothing. -/
theorem silenceRule_silenceRule (s : State) : s.silenceRule.silenceRule = s.silenceRule :=
  silenceRule_idle (justHeard_silenceRule s).1 (justHeard_silenceRule s).2

theorem onFrame_silenceRule (s : State) (f : State → State) (h : s.jli.restart = none) :
    s.silenceRule.onFrame f = s.onFrame f := by
  rw [onFrame_running h, onFrame_running (by rw [silenceRule_restart, h]), silenceRule_silenceRule]

theorem silenceRule_attended (h : s.mgu.attended = true) : s.silenceRule = s.heard := if_pos h

/-- R176: the return to ATTENDED, without the unattended hold. -/
theorem silenceRule_continue (h : s.mgu.attended = false) (hold : s.mgu.holdAction = false) :
    s.silenceRule = s.heard.clear (deviceKey .unattended) := by
  have free : ¬s.unattendedHold = true := by simp [State.unattendedHold, hold]
  exact (if_neg (Bool.eq_false_iff.1 h)).trans (if_neg free)

/-- R47, R65, R176: the return to ATTENDED, with the end of the unattended hold. -/
theorem silenceRule_hold (h : s.mgu.attended = false) (hold : s.mgu.holdAction = true) :
    s.silenceRule = (s.heard.clear (deviceKey .unattended)).resumeDispatch := by
  have held : s.unattendedHold = true := by simp [State.unattendedHold, h, hold]
  exact (if_neg (Bool.eq_false_iff.1 h)).trans (if_pos held)

theorem silenceRule_mgu (s : State) : s.silenceRule.mgu = s.heard.mgu := by rw [(silenceRule_only s).rest]

theorem heard_eq (s : State) : ({ s with mgu := s.silenceRule.mgu } : State) = s.heard := by
  rw [silenceRule_mgu]
  rfl

/-- R176: dispatch alone acts after the return to ATTENDED. -/
theorem silenceRule_dispatchOnly (h : s.mgu.attended = false) :
    DispatchOnly (s.heard.clear (deviceKey .unattended)) s.silenceRule := by
  cases hold : s.mgu.holdAction with
  | false => rw [silenceRule_continue h hold]; exact .refl _
  | true => rw [silenceRule_hold h hold]; exact (keepsDispatch_only _).resumeDispatch (.refl _)

/-- R174: a DEVICE-CONFIG write is answered OK with its one entry applied. -/
theorem exec_deviceConfigWrite_one (h : s.jli.restart = none) (token : Byte) (c : DeviceConfigEntry) {v : State}
    (hw : s.silenceRule.writeDeviceConfig 0 c = some v) : ∃ t, exec (.deviceConfigWrite token 0#16 [c]) s = .next t ∧
      LinesOnly (v.hand (.commandReply token 0#8 .ok [1#8])) t :=
  exec_onFrame h rfl (by
    rw [← writeEntries_one_taken (size := 1) (most := 32) (by decide) (by decide) (by decide) token hw]
    exact .refl _)

/-- R176: what the expiry of the silence timer leaves of the Management Unit. -/
theorem enterUnattended_mgu (s : State) :
    s.enterUnattended.mgu = { s.mgu with attended := false, timer := none } := by
  unfold State.enterUnattended State.raise
  rw [alertOnly_raiseAt]
  rfl

theorem LinesOnly.mgu {u t : State} (h : LinesOnly u t) : t.mgu = u.mgu := by rw [h.rest]

theorem exec_silenceTimerExpiry_due (h : expired s.now s.mgu.timer = true) :
    exec .silenceTimerExpiry s = .next s.enterUnattended.serviceLines := congrArg Host.Outcome.next (if_pos h)

theorem exec_silenceTimerExpiry_early (h : expired s.now s.mgu.timer = false) : exec .silenceTimerExpiry s = .next s :=
  congrArg Host.Outcome.next (if_neg (Bool.eq_false_iff.1 h))

end Silence

/-- Settles O12: the rule before every frame, by whether the part is ATTENDED and by its action; the write and the expiry of
the timer. -/
theorem silenceRule : Obligations.SilenceRule := by
  refine ⟨fun c s hc hw h => ?_, fun s h => ?_, fun s h hold => ?_, fun s h => ?_, fun s h hold => ?_,
    fun s u token c h hu => ?_, fun s => ⟨fun expiry ht due => ?_, fun ht => ?_, fun expiry ht early => ?_⟩⟩
  · obtain ⟨f, run⟩ | ⟨bad, -⟩ := exec_of_isFrame hc
    · rw [run, run, onFrame_silenceRule s f h]
    · exact absurd (hw.symm.trans bad) nofun
  · rw [silenceRule_attended h]
    show ({ s with mgu := { s.mgu with attended := true, timer := _ } } : State) = _
    rw [← h]
    rfl
  · rw [heard_eq]
    exact silenceRule_continue h hold
  · rw [heard_eq]
    exact ⟨silenceRule_mgu s, silenceRule_dispatchOnly h⟩
  · rw [heard_eq]
    exact silenceRule_hold h hold
  · subst hu
    exact exec_deviceConfigWrite_one h token c rfl
  · have lines := linesOnly_serviceLines s.enterUnattended
    have mgu := lines.mgu.trans (enterUnattended_mgu s)
    refine ⟨_, exec_silenceTimerExpiry_due (expired_eq_true.2 ⟨expiry, ht, due⟩), mgu, ?_, lines⟩
    rw [State.unattendedHold, mgu]
    rfl
  · exact exec_silenceTimerExpiry_early (by rw [ht]; rfl)
  · exact exec_silenceTimerExpiry_early (by rw [ht]; exact early)

end Sys2Proof.Machine

/-! ## Table writes: their tests, the carrying to the owner, and the entries in index order (R168 to R171) -/

namespace Sys2Proof.Machine

/-! ### Entries in index order (R169) -/

section InOrder

variable {α : Type} {write : State → Nat → α → Option State} {s u : State} {l : List α} {i size most : Nat} {first : Half}

/-- The states of a write whose first state is `u` and whose later ones are given. -/
def statesFrom (u : State) (later : Nat → State) : Nat → State
  | 0 => u
  | m + 1 => later m

/-- R169: the first `k` entries, from index `i` on, lead through the states `σ`, and there the write ends with a result. -/
structure AppliesUpTo (write : State → Nat → α → Option State) (l : List α) (i : Nat) (σ : Nat → State) (k : Nat)
    (r : Result) : Prop where
  few : k ≤ l.length
  taken : ∀ m, m < k → ∃ e, l[m]? = some e ∧ write (σ m) (i + m) e = some (σ (m + 1))
  ends : (k = l.length ∧ r = .ok) ∨ ∃ e, l[k]? = some e ∧ write (σ k) (i + k) e = none ∧ r = .interlock

theorem AppliesUpTo.nil (u : State) : AppliesUpTo write [] i (fun _ => u) 0 .ok :=
  ⟨Nat.le_refl _, fun _ h => absurd h (Nat.not_lt_zero _), .inl ⟨rfl, rfl⟩⟩

theorem AppliesUpTo.refused {e : α} (h : write u i e = none) : AppliesUpTo write (e :: l) i (fun _ => u) 0 .interlock :=
  ⟨Nat.zero_le _, fun _ h => absurd h (Nat.not_lt_zero _), .inr ⟨e, rfl, h, rfl⟩⟩

/-- R169: one more entry in front. -/
theorem AppliesUpTo.cons {e : α} {σ : Nat → State} {k : Nat} {r : Result} (h : AppliesUpTo write l (i + 1) σ k r)
    (he : write u i e = some (σ 0)) : AppliesUpTo write (e :: l) i (statesFrom u σ) (k + 1) r where
  few := Nat.succ_le_succ h.few
  taken m hm := by
    cases m with
    | zero => exact ⟨e, rfl, he⟩
    | succ m =>
      obtain ⟨x, hx, hw⟩ := h.taken m (Nat.lt_of_succ_lt_succ hm)
      exact ⟨x, hx, by rw [← Nat.add_assoc, Nat.add_right_comm]; exact hw⟩
  ends := by
    obtain ⟨rfl, hr⟩ | ⟨x, hx, hw, hr⟩ := h.ends
    · exact .inl ⟨rfl, hr⟩
    · exact .inr ⟨x, hx, by rw [← Nat.add_assoc, Nat.add_right_comm]; exact hw, hr⟩

/-- R169: what applying entries in index order answers. -/
theorem applyEntries_upTo : ∀ (l : List α) (i n : Nat) (u : State), ∃ σ k r, σ 0 = u ∧ AppliesUpTo write l i σ k r ∧
    applyEntries write l i n u = (σ k, r, n + k)
  | [], _, _, u => ⟨_, _, _, rfl, .nil u, rfl⟩
  | e :: l, i, n, u => by
    unfold applyEntries
    cases he : write u i e with
    | none => exact ⟨_, _, _, rfl, .refused he, rfl⟩
    | some v =>
      obtain ⟨σ, k, r, rfl, applies, answer⟩ := applyEntries_upTo l (i + 1) (n + 1) v
      exact ⟨_, _, _, rfl, applies.cons he, answer.trans (by rw [Nat.add_right_comm, Nat.add_assoc]; rfl)⟩

/-- R169, R171: a write in its range, of no more entries than a frame holds, is not refused as a whole. -/
theorem writeRefusal_fits {n : Nat} (h : tableRangeOk first n size = true) (hm : n ≤ most) :
    writeRefusal first n size most = none := by
  obtain ⟨nonempty, few, fits⟩ := tableRangeOk_iff.1 h
  unfold writeRefusal
  rw [if_neg (by omega), if_neg (by omega), if_neg (by omega)]

/-- R169: a write that is not refused as a whole applies its entries in index order, and then answers. -/
theorem writeEntries_inOrder (token : Byte) (h : writeRefusal first l.length size most = none) {t : State}
    (lines : LinesOnly (u.writeEntries write size most token first l) t) : AppliedInOrder write u token first l t := by
  obtain ⟨σ, k, r, start, applies, answer⟩ := applyEntries_upTo (write := write) l first.toNat 0 u
  refine ⟨σ, k, r, start, applies.few, applies.taken, applies.ends, ?_⟩
  rw [State.writeEntries, h] at lines
  simp only [answer, State.replyApplied, replyWrite_eq, Nat.zero_add] at lines
  exact lines

/-- R168, R169: the command of a typed write. -/
theorem exec_writeEntries (hs : s.jli.restart = none) {c : Instr} {token : Byte}
    (run : exec c s = .next (s.onFrame fun t => t.writeEntries write size most token first l))
    (range : tableRangeOk first l.length size = true) (few : l.length ≤ most) :
    ∃ t, exec c s = .next t ∧ AppliedInOrder write s.silenceRule token first l t := by
  obtain ⟨t, next, lines⟩ := exec_onFrame hs run (.refl _)
  exact ⟨t, next, writeEntries_inOrder token (writeRefusal_fits range few) lines⟩

end InOrder

/-- Settles O28: the seven tables whose writes are applied entry by entry. -/
theorem writesApplyInIndexOrder : Obligations.WritesApplyInIndexOrder := by
  intro s u token first hs hu
  subst hu
  have few {n size : Nat} (h : tableRangeOk first n size = true) : n ≤ 32 := (tableRangeOk_iff.1 h).2.1
  refine ⟨fun l h => ?_, fun l h => ?_, fun l h => ?_, fun l h => ?_, fun l h => ?_, fun l h => ?_, fun l h => ?_⟩
  · exact exec_writeEntries hs rfl h (few h)
  · exact exec_writeEntries hs rfl h (few h)
  · exact exec_writeEntries hs rfl h (few h)
  · exact exec_writeEntries hs rfl h (few h)
  · obtain ⟨range, most⟩ := Bool.and_eq_true_iff.1 h
    exact exec_writeEntries hs rfl range (of_decide_eq_true most)
  · exact exec_writeEntries hs rfl h (few h)
  · exact exec_writeEntries hs rfl h (few h)

/-! ### The tests of a TABLE-WRITE as carried (R169) -/

section Raw

variable {s : State} {token table : Byte} {first : Half} {count : Byte} {bytes : List Byte} {size entry : Nat}

/-- R171: the tables that can be written are 1 to 9. -/
theorem tableShape_writable (h : tableShape table = some (size, some entry)) : 1 ≤ table.toNat ∧ table.toNat ≤ 9 := by
  unfold tableShape at h
  split at h
  iterate 9 · omega
  all_goals cases h

theorem rawWriteRefusal_count (h : count.toNat = 0 ∨ 32 < count.toNat) :
    rawWriteRefusal table first count bytes = some .malformed := if_pos h

variable (low : 1 ≤ count.toNat) (high : count.toNat ≤ 32)
include low high

theorem rawWriteRefusal_table (h : tableShape table = none ∨ ∃ size, tableShape table = some (size, none)) :
    rawWriteRefusal table first count bytes = some .badTable := by
  unfold rawWriteRefusal
  rw [if_neg (by unfold Config.maxTableCount; omega)]
  obtain h | ⟨size, h⟩ := h <;> rw [h]

variable (shape : tableShape table = some (size, some entry))
include shape

theorem rawWriteRefusal_range (h : size < first.toNat + count.toNat) :
    rawWriteRefusal table first count bytes = some .badIndex := by
  unfold rawWriteRefusal
  rw [if_neg (by unfold Config.maxTableCount; omega), shape]
  exact if_pos h

theorem rawWriteRefusal_length (fits : first.toNat + count.toNat ≤ size) (h : bytes.length ≠ count.toNat * entry) :
    rawWriteRefusal table first count bytes = some .malformed := by
  unfold rawWriteRefusal
  rw [if_neg (by unfold Config.maxTableCount; omega), shape]
  exact (if_neg (Nat.not_lt.2 fits)).trans (if_pos h)

theorem rawWriteRefusal_passes (fits : first.toNat + count.toNat ≤ size) (h : bytes.length = count.toNat * entry) :
    rawWriteRefusal table first count bytes = none := by
  unfold rawWriteRefusal
  rw [if_neg (by unfold Config.maxTableCount; omega), shape]
  exact (if_neg (Nat.not_lt.2 fits)).trans (if_neg (not_not.2 h))

end Raw

section Carried

variable {s : State} {token table : Byte} {first : Half} {count : Byte} {bytes : List Byte}

/-- R169: a TABLE-WRITE that no test refuses has a table that can be written, a range in it and the bytes of its entries. -/
theorem tableWriteOk_of_passes (h : rawWriteRefusal table first count bytes = none) :
    tableWriteOk table first count bytes = true := by
  have counted : ¬(count.toNat = 0 ∨ 32 < count.toNat) := fun out => by
    rw [rawWriteRefusal_count out] at h
    cases h
  have low : 1 ≤ count.toNat := by omega
  have high : count.toNat ≤ 32 := by omega
  cases shape : tableShape table with
  | none => rw [rawWriteRefusal_table low high (.inl shape)] at h; cases h
  | some sizes =>
    obtain ⟨size, _ | entry⟩ := sizes
    · rw [rawWriteRefusal_table low high (.inr ⟨size, shape⟩)] at h; cases h
    have fits : first.toNat + count.toNat ≤ size := Nat.not_lt.1 fun out => by
      rw [rawWriteRefusal_range low high shape out] at h
      cases h
    have length : bytes.length = count.toNat * entry := not_not.1 fun out => by
      rw [rawWriteRefusal_length low high shape fits out] at h
      cases h
    rw [tableWriteOk, shape]
    exact Bool.and_eq_true_iff.2 ⟨tableRangeOk_iff.2 ⟨low, high, fits⟩, beq_iff_eq.2 length⟩

/-- R169: the tests of a TABLE-WRITE as carried are the conditions on one that goes to its table's owner. -/
theorem tableWriteOk_iff : tableWriteOk table first count bytes = true ↔ rawWriteRefusal table first count bytes = none := by
  refine ⟨fun h => ?_, tableWriteOk_of_passes⟩
  unfold tableWriteOk at h
  split at h
  · next size entry shape =>
    obtain ⟨range, length⟩ := Bool.and_eq_true_iff.1 h
    obtain ⟨low, high, fits⟩ := tableRangeOk_iff.1 range
    exact rawWriteRefusal_passes low high shape fits (beq_iff_eq.1 length)
  · cases h

theorem writable_of_passes (h : rawWriteRefusal table first count bytes = none) : 1 ≤ table.toNat ∧ table.toNat ≤ 9 := by
  have ok := tableWriteOk_of_passes h
  unfold tableWriteOk at ok
  split at ok
  · next shape => exact tableShape_writable shape
  · cases ok

/-- R169: a write that passes the tests is a typed one, which does what its table's owner does with the entries carried. -/
theorem writeCommand_carries (h : rawWriteRefusal table first count bytes = none) (token : Byte) :
    (∀ e, writeCommand token table first count bytes ≠ .tableWrite token table first count e) ∧
      ∀ s, exec (writeCommand token table first count bytes) s =
        .next (s.onFrame fun t => t.carryWrite token table first count.toNat bytes) := by
  obtain ⟨low, high⟩ := writable_of_passes h
  unfold writeCommand State.carryWrite
  rw [if_neg (by simp [h])]
  generalize table.toNat = n at low high
  interval_cases n
  all_goals exact ⟨fun _ => nofun, fun _ => rfl⟩

theorem exec_tableWrite_refused (hs : s.jli.restart = none) (token : Byte) {r : Result}
    (h : rawWriteRefusal table first count bytes = some r) :
    ∃ t, exec (.tableWrite token table first count bytes) s = .next t ∧
      LinesOnly (s.silenceRule.hand (.commandReply token 0#8 r [0#8])) t :=
  exec_onFrame hs rfl (by
    rw [State.writeRaw, h, ← replyWrite_eq _ token r 0]
    exact .refl _)

end Carried

/-- Settles O27: each test in its order, and the write that passes them all. -/
theorem rawTableWritesAreTestedInOrder : Obligations.RawTableWritesAreTestedInOrder := by
  intro s u token table first count bytes hs hu
  subst hu
  refine ⟨fun h => exec_tableWrite_refused hs token (rawWriteRefusal_count h), fun low high =>
    ⟨fun h => exec_tableWrite_refused hs token (rawWriteRefusal_table low high h), fun size entry shape =>
      ⟨fun h => exec_tableWrite_refused hs token (rawWriteRefusal_range low high shape h), fun fits h =>
        exec_tableWrite_refused hs token (rawWriteRefusal_length low high shape fits h), fun fits h => ?_⟩⟩⟩
  have passes := rawWriteRefusal_passes low high shape fits h
  obtain ⟨typed, run⟩ := writeCommand_carries passes token
  have raw : (fun t : State => t.writeRaw token table first count bytes) =
      fun t => t.carryWrite token table first count.toNat bytes :=
    funext fun t => by rw [State.writeRaw, passes]
  exact ⟨typed, _, congrArg (fun f => Host.Outcome.next (s.onFrame f)) raw, run s⟩

end Sys2Proof.Machine

/-! ## The bytes of a frame, and the commands that received bytes make (R165, R166, R168, R169, R177, R178) -/

namespace Sys2Proof.Machine

/-! ### A field after the bytes before it (R171, R177) -/

section Fields

variable {before after : List Byte} {i : Nat}

theorem byteAt_append (h : before.length ≤ i) : byteAt (before ++ after) i = byteAt after (i - before.length) := by
  simp [byteAt, List.getD_eq_getElem?_getD, List.getElem?_append_right h]

theorem halfAt_append (h : before.length ≤ i) : halfAt (before ++ after) i = halfAt after (i - before.length) := by
  rw [halfAt, List.drop_append, List.drop_of_length_le h, List.nil_append, halfAt]

theorem wordAt_append (h : before.length ≤ i) : wordAt (before ++ after) i = wordAt after (i - before.length) := by
  rw [wordAt, List.drop_append, List.drop_of_length_le h, List.nil_append, wordAt]

/-- R171, R177: a two-byte field reads as its number. -/
theorem halfAt_beBytes (n : Nat) (after : List Byte) : halfAt (beBytes 2 n ++ after) 0 = BitVec.ofNat 16 n := by
  rw [halfAt, List.drop_zero, List.take_left' (length_beBytes 2 n), beNat_beBytes]
  exact BitVec.eq_of_toNat_eq (by simp)

/-- R171, R177: a four-byte field reads as its number. -/
theorem wordAt_beBytes (n : Nat) (after : List Byte) : wordAt (beBytes 4 n ++ after) 0 = BitVec.ofNat 32 n := by
  rw [wordAt, List.drop_zero, List.take_left' (length_beBytes 4 n), beNat_beBytes]
  exact BitVec.eq_of_toNat_eq (by simp)

end Fields

/-! ### The bytes of a frame (R165, R177) -/

section Frame

variable (kind stream : Byte) (payload : List Byte)

/-- R165, R177: kind, stream, length and payload, over which the check goes. -/
def frameBody : List Byte := kind :: stream :: beBytes 2 payload.length ++ payload

theorem frameBytes_eq : frameBytes kind stream payload =
    frameBody kind stream payload ++ beBytes 2 (crc16 (frameBody kind stream payload)).toNat := rfl

theorem length_frameBody : (frameBody kind stream payload).length = 4 + payload.length := by
  simp [frameBody]
  omega

theorem length_frameBytes : (frameBytes kind stream payload).length = 6 + payload.length := by
  rw [frameBytes_eq, List.length_append, length_frameBody, length_beBytes]
  omega

/-- R165: the length field of the bytes of a frame. -/
theorem halfAt_frameBytes_length (h : payload.length ≤ 1024) :
    (halfAt (frameBytes kind stream payload) 2).toNat = payload.length := by
  have field : halfAt (frameBytes kind stream payload) 2 = BitVec.ofNat 16 payload.length := by
    rw [frameBytes_eq, frameBody, List.append_assoc]
    exact halfAt_beBytes _ _
  rw [field, BitVec.toNat_ofNat]
  omega

theorem take_frameBytes : (frameBytes kind stream payload).take (4 + payload.length) = frameBody kind stream payload := by
  rw [frameBytes_eq, ← length_frameBody kind stream payload]
  exact List.take_left

/-- R165: the check field of the bytes of a frame. -/
theorem halfAt_frameBytes_check :
    halfAt (frameBytes kind stream payload) (4 + payload.length) = crc16 (frameBody kind stream payload) := by
  rw [frameBytes_eq, ← length_frameBody kind stream payload, halfAt_append (Nat.le_refl _), Nat.sub_self,
    ← List.append_nil (beBytes 2 _), halfAt_beBytes]
  simp

/-- R165: the bytes made of a frame are no link error. -/
theorem frameFault_frameBytes (hs : stream.toNat ≤ 15) (h : payload.length ≤ 1024) :
    frameFault (frameBytes kind stream payload) = false := by
  have stream_eq : byteAt (frameBytes kind stream payload) 1 = stream := rfl
  rw [Bool.eq_false_iff, Ne, frameFault_iff, halfAt_frameBytes_length _ _ _ h, length_frameBytes, stream_eq,
    halfAt_frameBytes_check, take_frameBytes]
  rintro (length | long | job | check)
  · exact length rfl
  · omega
  · omega
  · exact check rfl

/-- R165: kind, stream and payload read back from the bytes made of them. -/
theorem readFrame_frameBytes (h : payload.length ≤ 1024) : readFrame (frameBytes kind stream payload) =
    { kind := kind, stream := stream.truncate 4, payload := payload } := by
  have body : (frameBytes kind stream payload).drop 4 = payload ++ beBytes 2 (crc16 (frameBody kind stream payload)).toNat :=
    rfl
  rw [readFrame, halfAt_frameBytes_length _ _ _ h, body, List.take_left]
  rfl

end Frame

/-! ### The command that a received run of bytes makes (R165, R166, R168, R169) -/

section Received

variable {token table : Byte} {first : Half} {count : Byte} {b p : List Byte}

theorem length_readEntries {α : Type} (read : List Byte → α) (size : Nat) : ∀ (n : Nat) (bytes : List Byte),
    (readEntries read size n bytes).length = n
  | 0, _ => rfl
  | n + 1, bytes => congrArg (· + 1) (length_readEntries read size n (bytes.drop size))

/-- R169, R171: a TABLE-WRITE is the typed write of a table's entries in its range, or one that fails the tests. -/
theorem writeCommand_wf (token : Byte) (hb : b.length ≤ Config.maxPayload - 5) :
    (writeCommand token table first count b).wf = true := by
  unfold writeCommand
  cases refused : rawWriteRefusal table first count b with
  | some r =>
    have fails : tableWriteOk table first count b = false := by
      rw [Bool.eq_false_iff, Ne, tableWriteOk_iff, refused]
      nofun
    simp [Instr.wf, hb, fails]
  | none =>
    have passes := tableWriteOk_of_passes refused
    obtain ⟨low, high⟩ := writable_of_passes refused
    unfold tableWriteOk tableShape at passes
    have accounts (id : table.toNat = 7) : count.toNat ≤ 29 := by
      rw [id] at passes
      have length : b.length = count.toNat * 34 := beq_iff_eq.1 (Bool.and_eq_true_iff.1 passes).2
      unfold Config.maxPayload at hb
      omega
    generalize table.toNat = n at passes low high accounts ⊢
    interval_cases n
    all_goals
      obtain ⟨range, -⟩ := Bool.and_eq_true_iff.1 passes
      simp [Instr.wf, length_readEntries, range, accounts]

/-- R178: the command codes are 1 to 11. -/
theorem commandArgLength_some {n k : Nat} (h : commandArgLength n = some k) : 1 ≤ n ∧ n ≤ 11 := by
  unfold commandArgLength at h
  split at h
  iterate 11 · omega
  cases h

/-- R172, R178: a COMMAND of the right form is one of the eleven. -/
theorem commandCommand_wf (h : formFault .command p = false) : (commandCommand p).wf = true := by
  have code : commandArgLength (byteAt p 1).toNat = some (p.length - 2) := by
    simp only [formFault, Bool.or_eq_false_iff, bne_eq_false_iff_eq] at h
    exact h.2
  obtain ⟨low, high⟩ := commandArgLength_some code
  unfold commandCommand
  generalize (byteAt p 1).toNat = n at low high ⊢
  interval_cases n
  iterate 4 · rfl
  · cases (byteAt p 2).getLsbD 0 <;> rfl
  iterate 2 · rfl
  · cases (byteAt p 3).getLsbD 0 <;> rfl
  iterate 3 · rfl

/-- R168: a management request of at most 1024 bytes. -/
theorem requestCommand_wf (kind : RequestKind) (hp : p.length ≤ Config.maxPayload) :
    (requestCommand kind p).wf = true := by
  unfold requestCommand
  split
  · next fault => simp [Instr.wf, hp, fault]
  next form =>
  cases kind with
  | tableWrite => exact writeCommand_wf _ (by rw [List.length_drop]; exact Nat.sub_le_sub_right hp 5)
  | tableRead => rfl
  | command => exact commandCommand_wf (Bool.eq_false_iff.2 form)

/-- R166: a valid frame is stray, or a job frame on a job stream, or a management request. -/
theorem frameCommand_wf {f : InFrame} (hp : f.payload.length ≤ Config.maxPayload) : (frameCommand f).wf = true := by
  unfold frameCommand
  split
  · next stray => simp [Instr.wf, hp, stray]
  next taken =>
  have stream (k : Byte) (job : k ∈ [0x01#8, 0x02#8, 0x03#8, 0x04#8, 0x05#8]) (hk : f.kind.toNat = k.toNat) :
      (f.stream != 0#4) = true :=
    bne_iff_ne.2 fun zero => taken ((strayInFrame_iff f).2 (.inl ⟨BitVec.eq_of_toNat_eq hk ▸ job, zero⟩))
  split
  · next kind => exact stream 0x01#8 (by decide) kind
  · next kind => exact stream 0x02#8 (by decide) kind
  · next kind => exact Bool.and_eq_true_iff.2 ⟨stream 0x03#8 (by decide) kind, decide_eq_true hp⟩
  · next kind => exact stream 0x04#8 (by decide) kind
  · next kind => exact stream 0x05#8 (by decide) kind
  · split
    · exact requestCommand_wf _ hp
    · next other => exact absurd (by simp [strayInFrame, jobFrameLengthOk, other]) taken

/-- R165, R166: every received run of bytes. -/
theorem receivedCommand_wf (bytes : List Byte) : (receivedCommand bytes).wf = true := by
  unfold receivedCommand
  split
  · next fault => exact fault
  next valid =>
  refine frameCommand_wf ((List.length_take_le ..).trans ?_)
  rw [frameFault_iff] at valid
  exact Nat.not_lt.1 fun long => valid (.inr (.inl long))

end Received

/-- Settles O13: the fields of a frame read back from its bytes, and the command of a run of bytes by what the run is. -/
theorem framesRoundTripAndMakeCommands : Obligations.FramesRoundTripAndMakeCommands := by
  refine ⟨fun kind stream payload h => ⟨?_, ?_⟩, receivedCommand_wf⟩
  · exact frameFault_frameBytes kind _ payload (by rw [BitVec.toNat_setWidth]; omega) h
  · rw [readFrame_frameBytes kind _ payload h]
    congr 1
    exact BitVec.setWidth_setWidth_of_le stream (by decide)

end Sys2Proof.Machine

/-! ## Entries that are read as they are written (R70, R107, R117, R164, R171, R174, R177) -/

namespace Sys2Proof.Machine

/-! ### Fields of one byte, and absent ones -/

section Fields

/-- R171, R177: a field of one byte reads as its number. -/
theorem byteAt_beBytes (n : Nat) (after : List Byte) : byteAt (beBytes 1 n ++ after) 0 = BitVec.ofNat 8 n := by
  rw [beBytes_one]
  rfl

theorem toNat_ofNat_byte {n : Nat} (h : n ≤ 255) : (BitVec.ofNat 8 n).toNat = n := by
  rw [BitVec.toNat_ofNat]
  omega

theorem toNat_ofNat_word {n : Nat} (h : n ≤ Config.max32) : (BitVec.ofNat 32 n).toNat = n := by
  unfold Config.max32 at h
  rw [BitVec.toNat_ofNat]
  omega

/-- R164, R174: a beacon number, and none, which is all ones. -/
theorem beaconOrNone_two (o : Option (Fin 8)) : beaconOrNone (halfAt (optBytes 2 (optFin o)) 0).toNat = o := by
  revert o
  decide

theorem beaconOrNone_one (o : Option (Fin 8)) : beaconOrNone (byteAt (optBytes 1 (optFin o)) 0).toNat = o := by
  revert o
  decide

theorem storedMode_modeCode (m : SenseMode) : storedMode (halfAt (beBytes 2 (modeCode m)) 0) = m := by
  cases m <;> decide

end Fields

/-! ### PORT (R70) -/

section PortEntry

theorem readPortEntry_portBytes (x : PortConfig) : readPortEntry (portBytes x) =
    { enabled := x.enabled
      rate := BitVec.ofNat 8 x.rate
      window := BitVec.ofNat 8 x.window
      poll := BitVec.ofNat 16 x.poll } := by
  have enabled : (byteAt (portBytes x) 0).getLsbD 0 = x.enabled := getLsbD_flagByte [x.enabled] 0 (by decide)
  have rate : byteAt (portBytes x) 1 = BitVec.ofNat 8 x.rate := byteAt_beBytes x.rate []
  have window : byteAt (portBytes x) 2 = BitVec.ofNat 8 x.window := byteAt_beBytes x.window []
  have poll : halfAt (portBytes x) 3 = BitVec.ofNat 16 x.poll := halfAt_beBytes x.poll []
  rw [readPortEntry, enabled, rate, window, poll]

/-- R70, R171: a PORT record in its ranges reads as the entry whose write stores it. -/
theorem storedPort_portBytes {x : PortConfig} (h : PortConfigOk x) : storedPort (readPortEntry (portBytes x)) = x := by
  obtain ⟨rate, window, most, least, poll⟩ := h
  have poll_eq : (BitVec.ofNat 16 x.poll).toNat = x.poll := by rw [BitVec.toNat_ofNat]; omega
  simp only [readPortEntry_portBytes, storedPort, toNat_ofNat_byte (Nat.le_trans rate (by decide)),
    toNat_ofNat_byte (Nat.le_trans most (by decide)), poll_eq, Nat.min_eq_left rate, Nat.min_eq_left most,
    Nat.max_eq_right window, Nat.min_eq_left poll, Nat.max_eq_right least]

end PortEntry

/-! ### TARIFF (R107) -/

section TariffEntry

/-- R107: the i-th of some two-byte fields. -/
theorem halfAt_flatten : ∀ (l : List Half) (after : List Byte) (i : Nat) (h : i < l.length),
    halfAt ((l.map fun r => beBytes 2 r.toNat).flatten ++ after) (2 * i) = l[i]
  | r :: l, after, 0, _ => by
    rw [List.map_cons, List.flatten_cons, List.append_assoc]
    exact (halfAt_beBytes _ _).trans (by simp)
  | r :: l, after, i + 1, h => by
    rw [List.map_cons, List.flatten_cons, List.append_assoc, halfAt_append (by rw [length_beBytes]; omega), length_beBytes]
    exact halfAt_flatten l after i (Nat.lt_of_succ_lt_succ h)

theorem length_flatten_halves (l : List Half) : (l.map fun r => beBytes 2 r.toNat).flatten.length = 2 * l.length := by
  induction l with
  | nil => rfl
  | cons r l ih => rw [List.map_cons, List.flatten_cons, List.length_append, ih, length_beBytes, List.length_cons]; omega

section Class

variable (c : TariffClass)

theorem length_rates : (c.rates.toList.map fun r => beBytes 2 r.toNat).flatten.length = 16 := by
  rw [length_flatten_halves, Vector.length_toList]

theorem length_surcharges : (c.surcharges.toList.map fun r => beBytes 2 r.toNat).flatten.length = 8 := by
  rw [length_flatten_halves, Vector.length_toList]

theorem length_tariffBytes : (tariffBytes c).length = 26 := by
  simp only [tariffBytes, List.length_append, length_rates, length_surcharges, List.length_singleton]

theorem tariffBytes_rate {i : Nat} (h : i < 8) : halfAt (tariffBytes c) (2 * i) = c.rates[i] := by
  rw [tariffBytes, List.append_assoc, List.append_assoc]
  exact (halfAt_flatten _ _ i (by simpa using h)).trans (Vector.getElem_toList _)

theorem tariffBytes_rebate : byteAt (tariffBytes c) 16 = c.rebate := by
  rw [tariffBytes, List.append_assoc, List.append_assoc, byteAt_append (by rw [length_rates]), length_rates]
  rfl

theorem tariffBytes_surcharge {i : Nat} (h : i < 4) : halfAt (tariffBytes c) (17 + 2 * i) = c.surcharges[i] := by
  have place : ((c.rates.toList.map fun r => beBytes 2 r.toNat).flatten ++ [c.rebate]).length = 17 := by
    rw [List.length_append, length_rates, List.length_singleton]
  rw [tariffBytes, List.append_assoc _ _ [c.tier], halfAt_append (by rw [place]; omega), place, Nat.add_sub_cancel_left]
  exact (halfAt_flatten _ _ i (by simpa using h)).trans (Vector.getElem_toList _)

theorem tariffBytes_tier : byteAt (tariffBytes c) 25 = c.tier := by
  have place : ((c.rates.toList.map fun r => beBytes 2 r.toNat).flatten ++ [c.rebate]
      ++ (c.surcharges.toList.map fun r => beBytes 2 r.toNat).flatten).length = 25 := by
    rw [List.length_append, List.length_append, length_rates, length_surcharges, List.length_singleton]
  rw [tariffBytes, byteAt_append (by rw [place]), place]
  rfl

/-- R107, R171: a tariff class reads as itself. -/
theorem readTariffClass_tariffBytes : readTariffClass (tariffBytes c) = c := by
  have rates : (Vector.ofFn fun i : Fin 8 => halfAt (tariffBytes c) (2 * i.val)) = c.rates :=
    Vector.ext fun i h => (Vector.getElem_ofFn h).trans (tariffBytes_rate c h)
  have surcharges : (Vector.ofFn fun i : Fin 4 => halfAt (tariffBytes c) (17 + 2 * i.val)) = c.surcharges :=
    Vector.ext fun i h => (Vector.getElem_ofFn h).trans (tariffBytes_surcharge c h)
  rw [readTariffClass, rates, surcharges, tariffBytes_rebate, tariffBytes_tier]

end Class

end TariffEntry

/-! ### ACCOUNT (R117) -/

section AccountEntries

variable {a : Account}

/-- R117, R177: a balance in its range is its four bytes, taken with their sign. -/
theorem toInt_signed {z : Int} (low : Config.minBalance ≤ z) (high : z ≤ Config.maxBalance) :
    (BitVec.ofInt 32 z).toInt = z := by
  unfold Config.minBalance at low
  unfold Config.maxBalance at high
  rw [BitVec.toInt_ofInt, Int.bmod_eq_of_le (by omega) (by omega)]

theorem length_accountBytes (a : Account) : (accountBytes a).length = 34 := by
  simp [accountBytes, signedBytes]

/-- R171: four bytes of a field that may be absent. -/
theorem wordAt_optBytes (o : Option Nat) (after : List Byte) :
    wordAt (optBytes 4 o ++ after) 0 = (o.map (BitVec.ofNat 32)).getD 0xFFFFFFFF#32 := by
  cases o with
  | none => rfl
  | some n => exact wordAt_beBytes n after

/-- R117, R171: the tier threshold reads as it is stored. -/
theorem storedThreshold_bytes {o : Option Nat} (h : ∀ t, o = some t → t ≤ 16777215) :
    storedThreshold ((o.map (BitVec.ofNat 32)).getD 0xFFFFFFFF#32) = o := by
  cases o with
  | none => rfl
  | some t =>
    have most := h t rfl
    have value : (BitVec.ofNat 32 t).toNat = t := toNat_ofNat_word (Nat.le_trans most (by decide))
    have enabled : BitVec.ofNat 32 t ≠ 0xFFFFFFFF#32 := by
      intro ones
      have all : t = 4294967295 := value.symm.trans (congrArg BitVec.toNat ones)
      omega
    show storedThreshold (BitVec.ofNat 32 t) = some t
    rw [storedThreshold, if_neg enabled, value, Nat.min_eq_left most]

/-- R117, R171: the fields that an account's entry spells. -/
theorem readAccountEntry_accountBytes (a : Account) : readAccountEntry (accountBytes a) =
    { valid := a.valid
      blocked := a.blocked
      unlimited := a.unlimited
      balance := BitVec.ofInt 32 a.balance
      overdraft := BitVec.ofNat 32 a.overdraft
      reserved := BitVec.ofNat 32 a.reserved
      threshold := (a.threshold.map (BitVec.ofNat 32)).getD 0xFFFFFFFF#32
      periodSheets := BitVec.ofNat 32 a.periodSheets
      periodMono := BitVec.ofNat 32 a.periodMono
      periodColour := BitVec.ofNat 32 a.periodColour
      periodCharge := BitVec.ofNat 32 a.periodCharge
      bound := BitVec.ofNat 8 a.bound } := by
  have flag : ∀ i, i < 8 → (byteAt (accountBytes a) 0).getLsbD i = [a.valid, a.blocked, a.unlimited].getD i false :=
    getLsbD_flagByte _
  unfold readAccountEntry
  rw [flag 0 (by decide), flag 1 (by decide), flag 2 (by decide)]
  simp only [accountBytes, signedBytes, List.append_assoc, wordAt_append, byteAt_append, wordAt_beBytes, wordAt_optBytes,
    beBytes_one, length_beBytes, length_optBytes, List.length_singleton, Nat.reduceLeDiff, Nat.reduceSub,
    BitVec.ofNat_toNat, BitVec.setWidth_eq]
  rfl

/-- R117, R120, R171: an account in its ranges reads as the entry whose write stores it, but for the reserved amount and the bound
count, which a write leaves. -/
theorem storedAccount_accountBytes (h : AccountOk a) (old : Account) :
    storedAccount old (readAccountEntry (accountBytes a)) = { a with reserved := old.reserved, bound := old.bound } := by
  have overdraft : (BitVec.ofNat 32 a.overdraft).toNat = a.overdraft :=
    toNat_ofNat_word (Nat.le_trans h.overdraft (by decide))
  simp only [readAccountEntry_accountBytes, storedAccount, toInt_signed h.low h.high, overdraft, Nat.min_eq_left h.overdraft,
    storedThreshold_bytes h.threshold, toNat_ofNat_word h.sheets, toNat_ofNat_word h.mono, toNat_ofNat_word h.colour,
    toNat_ofNat_word h.charged]

end AccountEntries

/-! ### ALERT-SETUP (R164) and DEVICE-CONFIG (R174) -/

section Setup

variable (a : Arl)

theorem setupBytes_mask : (halfAt (setupBytes a 0) 0).truncate 12 = a.mask := by
  have field : halfAt (setupBytes a 0) 0 = BitVec.ofNat 16 a.mask.toNat := halfAt_beBytes a.mask.toNat []
  rw [field]
  exact BitVec.eq_of_toNat_eq (by simp)

theorem setupBytes_printerBeacon (p : Fin 32) :
    setupBytes a (1 + p.val) = optBytes 2 (optFin (a.printerBeacon.get p)) := by
  have place : 1 + p.val - 1 < 32 := by omega
  obtain hp : (⟨1 + p.val - 1, place⟩ : Fin 32) = p := Fin.ext (Nat.add_sub_cancel_left ..)
  rw [setupBytes, if_neg (by omega), dif_pos place, hp]

theorem setupBytes_portBeacon (q : Fin 8) : setupBytes a (33 + q.val) = optBytes 2 (optFin (a.portBeacon.get q)) := by
  have place : 33 + q.val - 33 < 8 := by omega
  obtain hq : (⟨33 + q.val - 33, place⟩ : Fin 8) = q := Fin.ext (Nat.add_sub_cancel_left ..)
  rw [setupBytes, if_neg (by omega), dif_neg (by omega), dif_pos place, hq]

theorem setupBytes_senseMode (p : Fin 32) : setupBytes a (42 + p.val) = beBytes 2 (modeCode (a.sense.get p).mode) := by
  have place : 42 + p.val - 42 < 32 := by omega
  obtain hp : (⟨42 + p.val - 42, place⟩ : Fin 32) = p := Fin.ext (Nat.add_sub_cancel_left ..)
  rw [setupBytes, if_neg (by omega), dif_neg (by omega), dif_neg (by omega), if_neg (by omega), dif_pos place, hp]

/-- R174: the fields that the DEVICE-CONFIG entry spells. -/
theorem readDeviceConfigEntry_bytes (s : State) : readDeviceConfigEntry s.deviceConfigBytes =
    { timeout := BitVec.ofNat 8 s.mgu.timeout
      action := BitVec.ofNat 8 (if s.mgu.holdAction then 1 else 0)
      beacon := byteAt (optBytes 1 (optFin s.arl.officeBeacon)) 0 } := by
  rw [readDeviceConfigEntry, State.deviceConfigBytes, beBytes_one, beBytes_one]
  rfl

end Setup

/-- Settles O26: table by table, the fields read from an entry's bytes and the value that their write stores. -/
theorem entriesReadAsTheyAreWritten : Obligations.EntriesReadAsTheyAreWritten := by
  refine ⟨fun x h => ⟨rfl, storedRoute_routeBytes h⟩, fun x h => ⟨rfl, storedPort_portBytes h⟩,
    fun c => ⟨length_tariffBytes c, readTariffClass_tariffBytes c⟩,
    fun a h => ⟨length_accountBytes a, storedAccount_accountBytes h⟩, setupBytes_mask, fun a p => ⟨?_, ?_⟩, fun a q => ?_,
    fun a => beaconOrNone_two a.officeBeacon, fun s h => ⟨?_, ?_, ?_, ?_⟩⟩
  · rw [setupBytes_printerBeacon, beaconOrNone_two]
  · rw [setupBytes_senseMode, storedMode_modeCode]
  · rw [setupBytes_portBeacon, beaconOrNone_two]
  · simp [State.deviceConfigBytes]
  · rw [readDeviceConfigEntry_bytes, toNat_ofNat_byte h]
  · rw [readDeviceConfigEntry_bytes]
    cases s.mgu.holdAction <;> rfl
  · rw [readDeviceConfigEntry_bytes, beaconOrNone_one]

end Sys2Proof.Machine

/-! ## Table reads: their tests, the entries that fit, and their bytes (R24, R42, R72, R90, R133, R152, R169 to R171, R175) -/

namespace Sys2Proof.Machine

/-! ### The entries that fit (R170) -/

section Fits

variable {s : State} {table : Byte}

/-- R170: entries from index `i` on, at most `n` and with at most `room` bytes, as the table reads them; and no further one of
the `n` would fit. -/
structure FitsFrom (s : State) (table : Byte) (i n room : Nat) (l : List (List Byte)) : Prop where
  few : l.length ≤ n
  bytes : l.flatten.length ≤ room
  entries : ∀ k, k < l.length → s.readEntry table (i + k) = l[k]?
  full : l.length < n → ∀ b, s.readEntry table (i + l.length) = some b → room < l.flatten.length + b.length

theorem FitsFrom.nil {i n room : Nat} (h : 0 < n → ∀ b, s.readEntry table i = some b → room < b.length) :
    FitsFrom s table i n room [] where
  few := Nat.zero_le n
  bytes := Nat.zero_le room
  entries _ hk := absurd hk (Nat.not_lt_zero _)
  full hn b hb := (Nat.zero_add b.length).symm ▸ h hn b hb

theorem FitsFrom.cons {i n room : Nat} {b : List Byte} {l : List (List Byte)} (hb : s.readEntry table i = some b)
    (fits : b.length ≤ room) (h : FitsFrom s table (i + 1) n (room - b.length) l) :
    FitsFrom s table i (n + 1) room (b :: l) where
  few := Nat.succ_le_succ h.few
  bytes := by
    have rest := h.bytes
    rw [List.flatten_cons, List.length_append]
    omega
  entries k hk := by
    cases k with
    | zero => exact hb
    | succ k =>
      rw [← Nat.add_assoc, Nat.add_right_comm]
      exact h.entries k (Nat.lt_of_succ_lt_succ hk)
  full hn c hc := by
    rw [List.length_cons, ← Nat.add_assoc, Nat.add_right_comm] at hc
    have beyond := h.full (Nat.lt_of_succ_lt_succ hn) c hc
    rw [List.flatten_cons, List.length_append]
    omega

/-- R170: what a read takes fits, and no more would. -/
theorem fitEntries_fits (s : State) (table : Byte) : ∀ (n i room : Nat),
    FitsFrom s table i n room (s.fitEntries table i n room)
  | 0, _, _ => .nil fun h => absurd h (Nat.lt_irrefl 0)
  | n + 1, i, room => by
    unfold State.fitEntries
    cases hb : s.readEntry table i with
    | none => exact .nil fun _ b h => by rw [hb] at h; cases h
    | some b =>
      dsimp only
      split
      · next fits => exact .cons hb fits (fitEntries_fits s table n (i + 1) (room - b.length))
      · next fits =>
        refine .nil fun _ c h => ?_
        obtain rfl : b = c := Option.some.inj (hb.symm.trans h)
        exact Nat.lt_of_not_le fits

end Fits

/-! ### The lengths of the entries (R171) -/

section Lengths

theorem length_routeBytes (x : Route) : (routeBytes x).length = 7 := rfl

theorem length_portBytes (x : PortConfig) : (portBytes x).length = 5 := rfl

theorem length_deviceConfigBytes (s : State) : s.deviceConfigBytes.length = 3 := by simp [State.deviceConfigBytes]

theorem length_poolBytes (s : State) (x : Pool) : (s.poolBytes x).length = 5 + 2 * x.queue.length := by
  simp [State.poolBytes, List.length_flatten, Function.comp_def]
  omega

theorem length_printerBytes (x : Printer) (stall : Option Time) : (printerBytes x stall).length = 24 := by
  simp [printerBytes]

theorem length_setupBytes (a : Arl) (i : Nat) : (setupBytes a i).length ≤ 2 := by
  unfold setupBytes
  split_ifs <;> simp

theorem length_jobBytes (x : Job) : (jobBytes x).length = 44 := by
  unfold jobBytes
  simp only [List.length_append, length_beBytes, length_optBytes, List.length_singleton]

theorem length_slotBytes (s : State) (j : Fin 128) : (s.slotBytes j).length = 44 := by
  unfold State.slotBytes
  cases s.job j with
  | some x => exact length_jobBytes x
  | none => rfl

theorem length_alertBytes (e : AlertEntry) : (alertBytes e).length = 15 := by simp [alertBytes]

theorem length_queueBytes (l : List AlertEntry) (i : Nat) : (queueBytes l i).length = 15 := by
  unfold queueBytes
  cases l[i]? with
  | some e => exact length_alertBytes e
  | none => rfl

theorem length_metersBytes (m : Meters) : (metersBytes m).length = 15 := by simp [metersBytes, meterBytes]

theorem length_portStatusBytes (x : Port) : (portStatusBytes x).length = 13 := by simp [portStatusBytes]

theorem length_deviceStatusBytes (s : State) : s.deviceStatusBytes.length = 20 := by simp [State.deviceStatusBytes]

/-- R171: an index of a table has an entry, which a frame can carry while no pool's queue holds more jobs than there are slots. -/
theorem readEntry_fits {s : State} (queues : ∀ k, (s.pool k).queue.length ≤ 128) {table : Byte} {size i : Nat}
    {entry : Option Nat} (shape : tableShape table = some (size, entry)) (h : i < size) :
    ∃ b, s.readEntry table i = some b ∧ b.length ≤ 1018 := by
  unfold tableShape at shape
  unfold State.readEntry
  generalize table.toNat = id at shape ⊢
  split at shape <;> cases shape
  · exact ⟨_, dif_pos h, (length_routeBytes _).le.trans (by decide)⟩
  · exact ⟨_, dif_pos h, by rw [length_poolBytes]; have few := queues ⟨i, h⟩; omega⟩
  · exact ⟨_, dif_pos h, (length_portBytes _).le.trans (by decide)⟩
  · exact ⟨_, dif_pos h, (length_printerBytes _ _).le.trans (by decide)⟩
  · exact ⟨_, dif_pos h, (length_tariffBytes _).le.trans (by decide)⟩
  · exact ⟨_, dif_pos h, (length_tariffBytes _).le.trans (by decide)⟩
  · exact ⟨_, dif_pos h, (length_accountBytes _).le.trans (by decide)⟩
  · exact ⟨_, if_pos h, (length_setupBytes _ _).trans (by decide)⟩
  · exact ⟨_, if_pos h, (length_deviceConfigBytes _).le.trans (by decide)⟩
  · exact ⟨_, dif_pos h, (length_slotBytes _ _).le.trans (by decide)⟩
  · exact ⟨_, if_pos h, (length_queueBytes _ _).le.trans (by decide)⟩
  · exact ⟨_, dif_pos h, (length_metersBytes _).le.trans (by decide)⟩
  · exact ⟨_, dif_pos h, (length_portStatusBytes _).le.trans (by decide)⟩
  · exact ⟨_, if_pos h, (length_deviceStatusBytes _).le.trans (by decide)⟩

end Lengths

/-! ### The tests of a read, and its reply (R169, R170) -/

section Reads

variable {s u : State} {table : Byte} {first : Half} {count : Byte} {size : Nat} {entry : Option Nat}

theorem readRefusal_count (h : count.toNat = 0 ∨ 32 < count.toNat) : readRefusal table first count = some .malformed :=
  if_pos h

section Counted

variable (low : 1 ≤ count.toNat) (high : count.toNat ≤ 32)
include low high

theorem readRefusal_table (h : tableShape table = none) : readRefusal table first count = some .badTable := by
  unfold readRefusal
  rw [if_neg (by unfold Config.maxTableCount; omega), h]

variable (shape : tableShape table = some (size, entry))
include shape

theorem readRefusal_range (h : size < first.toNat + count.toNat) : readRefusal table first count = some .badIndex := by
  unfold readRefusal
  rw [if_neg (by unfold Config.maxTableCount; omega), shape]
  exact if_pos h

theorem readRefusal_passes (h : first.toNat + count.toNat ≤ size) : readRefusal table first count = none := by
  unfold readRefusal
  rw [if_neg (by unfold Config.maxTableCount; omega), shape]
  exact if_neg (Nat.not_lt.2 h)

end Counted

/-- R170: a refused read answers with count 0 and no entries. -/
theorem exec_tableRead_refused (hs : s.jli.restart = none) (token : Byte) {r : Result}
    (h : readRefusal table first count = some r) : ∃ t, exec (.tableRead token table first count) s = .next t ∧
      LinesOnly (s.silenceRule.hand (.readReply token r table first 0 [])) t :=
  exec_onFrame hs rfl (by rw [State.readTable, h]; exact .refl _)

/-- R170: a read that passes the tests answers the entries that fit. -/
theorem exec_tableRead_passes (hs : s.jli.restart = none) (token : Byte) (h : readRefusal table first count = none)
    {l : List (List Byte)} (hl : l = s.silenceRule.fitEntries table first.toNat count.toNat 1018) :
    ∃ t, exec (.tableRead token table first count) s = .next t ∧
      LinesOnly (s.silenceRule.hand (.readReply token .ok table first l.length l.flatten)) t :=
  exec_onFrame hs rfl (by rw [State.readTable, h, hl]; exact .refl _)

/-- R170: where a frame can carry each entry, a read of a table's entries answers one at least. -/
theorem FitsFrom.nonempty {i n : Nat} {l : List (List Byte)} (h : FitsFrom u table i n 1018 l)
    (queues : ∀ k, (u.pool k).queue.length ≤ 128) (shape : tableShape table = some (size, entry)) (hi : i < size)
    (hn : 1 ≤ n) : 1 ≤ l.length := by
  cases l with
  | cons b l => exact Nat.le_add_left 1 l.length
  | nil =>
    obtain ⟨b, hb, fits⟩ := readEntry_fits queues shape hi
    have beyond : 1018 < 0 + b.length := h.full hn b hb
    omega

end Reads

/-! ### Codes and absent fields (R171) -/

section Codes

/-- R171: a field of one byte, by what an absent one and a number read as. -/
theorem optBytes_absent {absent : Option Nat → Byte} (absence : absent none = 0xFF#8)
    (number : ∀ n, absent (some n) = BitVec.ofNat 8 n) (o : Option Nat) : optBytes 1 o = [absent o] := by
  cases o with
  | none => rw [absence]; rfl
  | some n => rw [number]; exact beBytes_one n

theorem phaseCode_eq (x : Phase) :
    phaseCode x = [Phase.spooling, .queued, .held, .printing, .cancelling].idxOf x + 1 := by cases x <;> rfl

theorem drainCode_eq : drainCode = fun r => [DrainReason.hold, .budget, .service].idxOf r :=
  funext fun r => by cases r <;> rfl

theorem outcomeCode_eq (x : JobOutcome) :
    outcomeCode x = [JobOutcome.completed, .cancelled, .damaged, .error, .refused].idxOf x := by cases x <;> rfl

theorem causeCode_eq (x : Cause) : causeCode x = [Cause.none, .operator, .aborted, .streamReopened, .noBlock, .sheetTooLarge,
    .noDescriptor, .sheetExceeds, .badSheet, .duplicateTag, .noRoute, .accountMissing, .accountInvalid, .notPermitted,
    .noCapablePrinter, .noJobSlot].idxOf x := by cases x <;> rfl

theorem linkCode_eq (x : LinkState) : linkCode x = [LinkState.unknown, .answering, .lost].idxOf x := by cases x <;> rfl

theorem conditionCode_eq : conditionCode =
    fun c => [Condition.ready, .warming, .jam, .doorOpen, .trayEmpty, .tonerOut].idxOf c :=
  funext fun c => by cases c <;> rfl

theorem lineCode_eq (x : LineState) : lineCode x =
    [LineState.disabled, .idle, .transmitting, .awaiting, .receiving, .recovering, .faulted].idxOf x := by cases x <;> rfl

theorem resetCode_eq (x : ResetCause) : resetCode x = [ResetCause.powerOn, .resetLine, .restart].idxOf x := by
  cases x <;> rfl

theorem sourceOfCode_sourceCode (k : SourceKind) : sourceOfCode (sourceCode k) = some k := by cases k <;> rfl

theorem classOfCode_classCode (c : AlertClass) : classOfCode (classCode c) = some c := by cases c <;> rfl

/-- A PRINTER's flags; in service reads as 0. -/
theorem flagByte_printer (a b c d e : Bool) : flagByte [a, b, c, !d, e] =
    (if a then 1#8 else 0#8) ||| (if b then 2#8 else 0#8) ||| (if c then 4#8 else 0#8) ||| (if d then 0#8 else 8#8) |||
      (if e then 16#8 else 0#8) := by
  revert a b c d e
  decide

/-- A PRINTER's two masks in one byte. -/
theorem ofNat_masks (size media : BitVec 4) : BitVec.ofNat 8 (size.toNat + 16 * media.toNat) = media ++ size := by
  revert size media
  decide

end Codes

/-! ### The bytes of the entries (R24, R42, R72, R90, R133, R152, R175) -/

section Bytes

variable (s : State)

theorem readEntry_slot (j : Fin 128) : s.readEntry 16#8 j.val = some (s.slotBytes j) := dif_pos j.isLt

/-- R24: a FREE slot. -/
theorem freeJobBytes_getElem : ∀ i < 44,
    freeJobBytes[i]? = some (if i ∈ [3, 31, 33, 34, 42, 43] then 0xFF#8 else 0#8) := by decide

/-- The tags of a pool's queue, where every slot it names is of a live job. -/
theorem map_tagOf {l : List (Fin 128)} {tags : List Half}
    (h : (l.map fun j => (s.job j).map Job.tag) = tags.map some) :
    (l.map fun j => beBytes 2 (s.tagOf j)) = tags.map fun g => beBytes 2 g.toNat := by
  have tag (j : Fin 128) : beBytes 2 (s.tagOf j) = (((s.job j).map Job.tag).elim [0#8, 0#8] fun g => beBytes 2 g.toNat) := by
    unfold State.tagOf
    cases s.job j <;> rfl
  have mapped := congrArg (List.map fun o : Option Half => o.elim [0#8, 0#8] fun g => beBytes 2 g.toNat) h
  rw [List.map_map, List.map_map] at mapped
  exact (List.map_congr_left fun j _ => tag j).trans mapped

theorem readEntry_pool (k : Fin 16) : s.readEntry 2#8 k.val = some (s.poolBytes (s.pool k)) := dif_pos k.isLt

theorem readEntry_printer (p : Fin 32) :
    s.readEntry 4#8 p.val = some (printerBytes (s.printer p) (s.disp p).stall) := dif_pos p.isLt

theorem optBytes_stall (o : Option Time) : optBytes 4 (o.map BitVec.toNat) = (match o with
    | some expiry => beBytes 4 expiry.toNat
    | none => List.replicate 4 0xFF#8) := by cases o <;> rfl

/-- A send stage in three bytes: START is 0, and DATA counts from 1. -/
theorem optBytes_stage (o : Option SendStage) : optBytes 3 (o.map stageCode) = (match o with
    | some .start => [0#8, 0#8, 0#8]
    | some (.data n) => beBytes 3 (n + 1)
    | none => List.replicate 3 0xFF#8) := by
  cases o with
  | none => rfl
  | some stage => cases stage <;> rfl

theorem readEntry_alert {i : Nat} (h : i < 64) : s.readEntry 17#8 i = some (queueBytes s.arl.queue i) := if_pos h

theorem readEntry_meters (p : Fin 32) : s.readEntry 18#8 p.val = some (metersBytes (s.acm.meters.get p)) := dif_pos p.isLt

theorem readEntry_portStatus (q : Fin 8) : s.readEntry 19#8 q.val = some (portStatusBytes (s.port q)) := dif_pos q.isLt

theorem readEntry_deviceStatus : s.readEntry 20#8 0 = some s.deviceStatusBytes := rfl

/-- R175: the live jobs, slot by slot. -/
theorem liveJobs_eq : s.liveJobs = ((List.finRange 128).filter fun j => (s.job j).isSome).length := by
  rw [State.liveJobs, toList_eq_map_get, List.filter_map, List.length_map]
  rfl

end Bytes

/-- Settles O25: the tests of a read, the entries that fit where it passes them, and the bytes table by table. -/
theorem tableReadsReturnTheEntries : Obligations.TableReadsReturnTheEntries := by
  refine ⟨fun s u token table first count hs hu => ?_, fun s => ⟨fun j x hx => ?_, fun j hj => ?_,
    fun k x tags hx htags => ?_, fun p r hr => ?_, fun i e hi he => ?_, fun i hi past => ?_, fun p m hm => ?_,
    fun q x hx => ?_, ?_⟩⟩
  · subst hu
    refine ⟨fun h => exec_tableRead_refused hs token (readRefusal_count h), fun low high =>
      ⟨fun h => exec_tableRead_refused hs token (readRefusal_table low high h), fun size entry shape =>
        ⟨fun h => exec_tableRead_refused hs token (readRefusal_range low high shape h), fun h => ?_⟩⟩⟩
    obtain ⟨t, run, lines⟩ := exec_tableRead_passes hs token (readRefusal_passes low high shape h) rfl
    have fits := fitEntries_fits s.silenceRule table count.toNat first.toNat 1018
    exact ⟨_, t, run, lines, fits.few, fits.bytes, fits.entries, fits.full,
      fun queues => fits.nonempty queues shape (by omega) low⟩
  · have live : s.slotBytes j = jobBytes x := by rw [State.slotBytes, hx]
    refine ⟨_, readEntry_slot s j, length_slotBytes s j, fun absent absence number => ?_⟩
    rw [live]
    unfold jobBytes
    simp only [beBytes_one, optBytes_absent absence number, flagByte_one, flagByte_two, flagByte_three, phaseCode_eq,
      drainCode_eq, outcomeCode_eq, causeCode_eq, optFin, BitVec.ofNat_toNat, List.append_assoc, List.cons_append,
      List.nil_append]
  · have free : s.slotBytes j = freeJobBytes := by rw [State.slotBytes, hj]
    refine ⟨_, readEntry_slot s j, length_slotBytes s j, fun i b hb => ?_⟩
    rw [free] at hb
    have inside : i < 44 := (List.getElem?_eq_some_iff.1 hb).1
    exact Option.some.inj (hb.symm.trans (freeJobBytes_getElem i inside))
  · subst hx
    rw [readEntry_pool, State.poolBytes, map_tagOf s htags]
    simp only [beBytes_one, flagByte_one, List.append_assoc, List.cons_append, List.nil_append]
  · subst hr
    refine ⟨_, readEntry_printer s p, length_printerBytes _ _, fun absent absence number => ?_⟩
    unfold printerBytes
    simp only [beBytes_one, optBytes_absent absence number, flagByte_printer, optFin, ofNat_masks, linkCode_eq, conditionCode_eq,
      optBytes_stall, optBytes_stage, BitVec.ofNat_toNat, BitVec.setWidth_eq, List.append_assoc, List.cons_append,
      List.nil_append] <;> rfl
  · have entry : queueBytes s.arl.queue i = alertBytes e := by rw [queueBytes, he]
    refine ⟨_, sourceCode e.key.kind, classCode e.key.cls, readEntry_alert s hi, length_queueBytes _ _,
      sourceOfCode_sourceCode _, classOfCode_classCode _, ?_⟩
    rw [entry, alertBytes]
    simp only [beBytes_one, flagByte_three, List.append_assoc, List.cons_append, List.nil_append]
  · rw [readEntry_alert s hi, queueBytes, List.getElem?_eq_none past]
  · subst hm
    rw [readEntry_meters, metersBytes]
    simp only [meterBytes, beBytes_one, List.append_assoc]
  · subst hx
    rw [readEntry_portStatus, portStatusBytes]
    simp only [beBytes_one, flagByte_one, lineCode_eq, BitVec.ofNat_toNat, List.append_assoc, List.cons_append,
      List.nil_append]
  · rw [readEntry_deviceStatus, State.deviceStatusBytes, State.freeBlocks_eq, liveJobs_eq]
    simp only [beBytes_one, resetCode_eq, apply_ite (BitVec.ofNat 8), State.freeDescriptors, Config.sheetDescriptors,
      List.append_assoc, List.cons_append, List.nil_append]

end Sys2Proof.Machine

/-! ## What printing leaves of a printer's link, and of its alerts (R92, R98 to R103) -/

namespace Sys2Proof.Machine

/-! ### The hand-over of can feed (R134, R136, R137) -/

/-- R134: what an arbiter's run keeps, the hand-over of can feed keeps. -/
theorem KeepsArbiter.refreshFeed {P : State → Prop} (K : KeepsArbiter P) {s : State} (p : Fin 32) (h : P s) :
    P (s.refreshFeed p) := by
  cases hc : s.canFeed p <;> cases hf : (s.disp p).feeds
  case false.false | true.true => rwa [refreshFeed_unchanged (hc.trans hf.symm)]
  case false.true =>
    have stalls {t : State} (k : Fin 16) (ht : P t) : P (t.startStall p k) := by
      rw [startStall_eq]
      exact K.disp ht
    have stopped : P (s.feedsNow p false) := K.disp h
    rw [refreshFeed_stops hc hf]
    unfold State.takeCannotFeed
    split
    · exact stopped
    split
    · exact stopped
    next hx =>
    split
    · exact stalls _ (K.job hx ⟨rfl, fun o => ⟨o.1, o.2, o.3, o.4⟩⟩ (.inl rfl) stopped)
    · exact stalls _ stopped
    · exact stopped
  case true.false =>
    have started : P (s.setDisp p { s.disp p with feeds := true, stall := none }) := K.disp h
    rw [refreshFeed_starts hc hf]
    unfold State.feedAgain
    split
    · exact K.offerPrinter p started
    split
    · exact started
    next hx =>
    exact kept_ite (K.tryReleases _ (K.job hx ⟨rfl, fun o => ⟨o.1, o.2, o.3, o.4⟩⟩ (.inl rfl) started)) started

theorem canFeed_of_condition {s : State} {p : Fin 32} (h : (s.printer p).condition ≠ some .ready) : s.canFeed p = false :=
  Bool.eq_false_iff.2 fun hc => h (canFeed_iff.1 hc).2.1

/-! ### The printer records (R90, R98 to R103) -/

/-- Of a printer's record, what the outcome of an exchange alone sets: the configuration, the link, the missed polls, the
condition, the room and the poll due time are as they were. -/
def StatusKept (old x : Printer) : Prop :=
  x = { old with
    inService := x.inService
    nextFeed := x.nextFeed
    needsDrop := x.needsDrop
    dropFrom := x.dropFrom
    unmatched := x.unmatched
    stage := x.stage
    naks := x.naks }

theorem StatusKept.refl (r : Printer) : StatusKept r r := rfl

theorem StatusKept.trans {r x y : Printer} (h : StatusKept r x) (k : StatusKept x y) : StatusKept r y := by
  unfold StatusKept at *
  rw [k, h]

theorem PrinterDispatched.statusKept {r x : Printer} (h : PrinterDispatched r x) : StatusKept r x := by
  unfold PrinterDispatched at h
  rw [h]
  rfl

theorem PrinterDispatched.of_eq {r x : Printer} (h : x = r) : PrinterDispatched r x := h ▸ .refl r

section PrinterRecords

variable {s : State} {p q : Fin 32}

theorem printerDispatched_refreshFeed_any (s : State) (p q : Fin 32) :
    PrinterDispatched (s.printer q) ((s.refreshFeed p).printer q) :=
  (keepsArbiter_printer q _).refreshFeed p (.refl _)

theorem printerDispatched_setWindow (s : State) (p q : Fin 32) (w : List WindowEntry) :
    PrinterDispatched (s.printer q) ((s.setWindow p w).printer q) := by
  rw [printer_setWindow]
  rfl

theorem printerDispatched_loseFrom (s : State) (p q : Fin 32) (k : Nat) :
    PrinterDispatched (s.printer q) ((s.loseFrom p k).printer q) := by
  unfold State.loseFrom
  dsimp only
  split
  · exact .refl _
  split
  · exact printerDispatched_setWindow ..
  · rw [each_unreserve_only]
    show PrinterDispatched _ (State.printer (State.modJob ..) q)
    rw [State.printer_modJob]
    exact printerDispatched_setWindow ..

theorem printerDispatched_lose (s : State) (p q : Fin 32) (k : Nat) :
    PrinterDispatched (s.printer q) ((s.lose p k).printer q) := by
  unfold State.lose
  split
  · exact printerDispatched_afterWindowChange (printerDispatched_loseFrom ..) _ _
  · exact .refl _

theorem alertOnly_clearConditionAlert (s : State) (p : Fin 32) (c : Option Condition) :
    AlertOnly s (s.clearConditionAlert p c) := by
  unfold State.clearConditionAlert
  split
  · exact alertOnly_clear ..
  · exact .refl s

theorem alertOnly_raiseConditionAlert (s : State) (p : Fin 32) (c : Option Condition) :
    AlertOnly s (s.raiseConditionAlert p c) := by
  unfold State.raiseConditionAlert
  split
  · exact alertOnly_raiseAt ..
  · exact .refl s

theorem AlertOnly.printer {t : State} (h : AlertOnly s t) (q : Fin 32) : t.printer q = s.printer q := by
  rw [h]
  rfl

/-- R102: the two alerts of a changed condition, the old one cleared and the new one raised. -/
def State.conditionAlerts (s : State) (p : Fin 32) (old : Option Condition) (c : Condition) : State :=
  (s.clearConditionAlert p old).raiseConditionAlert p (some c)

theorem alertOnly_conditionAlerts (s : State) (p : Fin 32) (old : Option Condition) (c : Condition) :
    AlertOnly s (s.conditionAlerts p old c) :=
  (alertOnly_clearConditionAlert ..).trans (alertOnly_raiseConditionAlert ..)

/-- R102: the new condition stored, and the loss of a JAM. -/
def State.conditionStored (s : State) (p : Fin 32) (c : Condition) : State :=
  if c = .jam then (s.setPrinter p { s.printer p with condition := some c }).lose p 0
  else s.setPrinter p { s.printer p with condition := some c }

theorem takeCondition_same {c : Condition} (h : (s.printer p).condition = some c) : s.takeCondition p c = s := if_pos h

/-- R102: a new condition, in its order. -/
theorem takeCondition_new {c : Condition} (h : (s.printer p).condition ≠ some c) :
    s.takeCondition p c = ((s.conditionStored p c).conditionAlerts p (s.printer p).condition c).refreshFeed p := if_neg h

theorem printerDispatched_conditionStored (s : State) (p : Fin 32) (c : Condition) :
    PrinterDispatched { s.printer p with condition := some c } ((s.conditionStored p c).printer p) := by
  have stored : (s.setPrinter p { s.printer p with condition := some c }).printer p =
      { s.printer p with condition := some c } := (State.printer_setPrinter ..).trans (if_pos rfl)
  refine kept_ite (P := fun t => PrinterDispatched _ (t.printer p)) ?_ (.of_eq stored)
  exact (PrinterDispatched.of_eq stored).trans (printerDispatched_lose _ p p 0)

/-- R102: of its printer's record a STATUS's condition sets the condition alone, and dispatch does the rest. -/
theorem printerDispatched_takeCondition (s : State) (p : Fin 32) (c : Condition) :
    PrinterDispatched { s.printer p with condition := some c } ((s.takeCondition p c).printer p) := by
  by_cases h : (s.printer p).condition = some c
  · rw [takeCondition_same h, ← h]
    exact .refl _
  · rw [takeCondition_new h]
    refine .trans ?_ (printerDispatched_refreshFeed_any _ p p)
    rw [(alertOnly_conditionAlerts ..).printer]
    exact printerDispatched_conditionStored s p c

theorem statusKept_setNeedsDrop (s : State) (p : Fin 32) (f : Byte) :
    StatusKept (s.printer p) ((s.setNeedsDrop p f).printer p) := by
  rw [printer_setNeedsDrop]
  rfl

theorem statusKept_loseAllAndDrop (s : State) (p : Fin 32) :
    StatusKept (s.printer p) ((s.loseAllAndDrop p).printer p) := by
  unfold State.loseAllAndDrop
  split
  · exact .refl _
  · exact ((printerDispatched_loseFrom ..).statusKept.trans (statusKept_setNeedsDrop ..)).trans
      (printerDispatched_afterWindowChange (.refl _) _ _).statusKept

theorem printer_of_agreeing {t : State} (h : agreeingParts t = agreeingParts s) (q : Fin 32) :
    t.printer q = s.printer q := by
  simp only [agreeingParts, Prod.mk.injEq] at h
  obtain ⟨-, -, -, records, -⟩ := h
  exact congrArg (fun table => Vector.get table q) records

theorem printerDispatched_sheetTaken {x : Job} {e : WindowEntry} (hx : s.job e.job = some x) (p : Fin 32)
    (rest : List WindowEntry) (d : SheetDesc) (printed : List Ink) :
    PrinterDispatched (s.printer q) ((s.sheetTaken p x e rest d printed).printer q) := by
  unfold State.sheetTaken
  rw [printer_of_agreeing (agreeingParts_freeDelivered ..), delivered_some hx]
  exact printerDispatched_setWindow ..

/-- R62: a delivery. -/
theorem printerDispatched_deliver (s : State) (p : Fin 32) (printed : List Ink) :
    PrinterDispatched (s.printer p) ((s.deliver p printed).printer p) := by
  cases hw : (s.disp p).window with
  | nil => rw [State.deliver, hw]; exact .refl _
  | cons e rest =>
    cases hx : s.job e.job with
    | none => simpa only [State.deliver, hw, hx] using .refl _
    | some x =>
      cases hd : s.sheetDesc x e.sheet with
      | none => simpa only [State.deliver, hw, hx, hd] using .refl _
      | some d =>
        have taken := printerDispatched_sheetTaken (q := p) hx p rest d printed
        rw [deliver_some hw hx hd]
        exact kept_ite (P := fun t => PrinterDispatched _ (t.printer p)) (printerDispatched_endJob taken _ _ _)
          (printerDispatched_afterWindowChange taken _ _)

/-- R98 to R101: a delivery record. -/
theorem statusKept_takeRecord (s : State) (p : Fin 32) (r : DeliveryRecord) :
    StatusKept (s.printer p) ((State.takeRecord p s r).printer p) := by
  unfold State.takeRecord
  refine kept_ite (P := fun t => StatusKept _ (State.printer t p)) (printerDispatched_deliver s p r.printed).statusKept
    (kept_ite (P := fun t => StatusKept _ (State.printer t p)) ?_ (statusKept_loseAllAndDrop (s.countProtocolError p) p))
  rw [State.printer_setPrinter, if_pos rfl]
  rfl

/-- R92: a reply leaves the link ANSWERING, and dispatch does the rest. -/
theorem printerDispatched_answered (s : State) (p : Fin 32) (n : Nat) :
    PrinterDispatched { s.printer p with link := .answering, missed := n } ((s.answered p n).printer p) := by
  refine .trans (.of_eq ?_) (printerDispatched_refreshFeed_any _ p p)
  rw [(alertOnly_clear ..).printer]
  exact (State.printer_setPrinter ..).trans (if_pos rfl)

/-- R98: what a poll's STATUS sets of its printer's record. -/
theorem statusKept_takeStatus (s : State) (p : Fin 32) (st : Status) :
    StatusKept { s.printer p with
        link := .answering
        missed := 0
        room := st.room
        condition := some st.condition
        pollDue := s.now + BitVec.ofNat 32 (s.port (portOf p)).config.poll }
      ((s.takeStatus p st false).printer p) := by
  generalize ha : s.answered p 0 = a
  generalize hb : st.records.foldl (State.takeRecord p) (a.setPrinter p { a.printer p with room := st.room }) = b
  generalize hd : b.takeCondition p st.condition = d
  obtain ⟨steps, time⟩ := takeStatus_eq s p st false ha.symm hb.symm rfl hd.symm
  have answered : StatusKept { s.printer p with link := .answering, missed := 0 } (a.printer p) :=
    ha ▸ (printerDispatched_answered s p 0).statusKept
  have records : StatusKept { a.printer p with room := st.room } (b.printer p) := by
    rw [← hb]
    refine State.each_kept (P := fun t => StatusKept _ (t.printer p)) (f := State.takeRecord p)
      (fun t r ht => ht.trans (statusKept_takeRecord t p r)) st.records ?_
    exact (PrinterDispatched.of_eq ((State.printer_setPrinter ..).trans (if_pos rfl))).statusKept
  have condition : StatusKept { b.printer p with condition := some st.condition } (d.printer p) :=
    hd ▸ (printerDispatched_takeCondition b p st.condition).statusKept
  have due : (d.setPollDue p).printer p =
      { d.printer p with pollDue := s.now + BitVec.ofNat 32 (s.port (portOf p)).config.poll } := by
    rw [setPollDue_eq time]
    exact put_get_same ..
  rw [steps, due]
  unfold StatusKept at *
  rw [condition, records, answered]

end PrinterRecords

end Sys2Proof.Machine

/-! ## A link that becomes LOST (R92, R148, R150) -/

namespace Sys2Proof.Machine

section LostLinks

variable {s : State} {p : Fin 32} {k : AlertKey}

/-! ### Alerts that a job's end leaves alone (R16, R22, R59, R60) -/

/-- The key is none of those whose alerts come and go with a job's end: BUDGET_HOLD and SPOOL_LOW. -/
structure ApartFromJobs (k : AlertKey) : Prop where
  budget : ∀ a, budgetKey a ≠ k
  spool : deviceKey .spoolLow ≠ k

theorem apartFromJobs_printerKey (p : Fin 32) (c : AlertClass) : ApartFromJobs (printerKey p c) :=
  ⟨printerKey_ne_budgetKey p c, fun e => nomatch congrArg AlertKey.kind e⟩

theorem entriesOf_budgetTest (hk : ApartFromJobs k) (a : Fin 512) : (s.budgetTest a).entriesOf k = s.entriesOf k :=
  kept_ite (P := fun t => t.entriesOf k = s.entriesOf k) rfl (entriesOf_clear (hk.budget a))

theorem entriesOf_applyWatermarks (hk : ApartFromJobs k) : s.applyWatermarks.entriesOf k = s.entriesOf k :=
  kept_ite (P := fun t => t.entriesOf k = s.entriesOf k)
    ((entriesOf_raiseAt rfl hk.spool _ _).trans (entriesOf_hand s _ _))
    (kept_ite (P := fun t => t.entriesOf k = s.entriesOf k) ((entriesOf_clear hk.spool).trans (entriesOf_hand s _ _)) rfl)

theorem entriesOf_endJob (hk : ApartFromJobs k) (j : Fin 128) (o : JobOutcome) (c : Cause) :
    (s.endJob j o c).entriesOf k = s.entriesOf k := by
  cases hx : s.job j with
  | none => rw [endJob_none hx]
  | some x =>
    have released : (s.released x o c).entriesOf k = s.entriesOf k := by
      unfold State.entriesOf
      rw [released_arl]
    rw [endJob_steps hx, State.slotFreed, entriesOf_applyWatermarks hk, entriesOf_budgetTest hk]
    exact (keepsArbiter_entriesOf hk.budget _).unqueued j x released

/-! ### The loss of the link, step by step (R92) -/

/-- R92: the link LOST, at 3 missed polls. -/
def State.linkLost (s : State) (p : Fin 32) : State := s.setPrinter p { s.printer p with link := .lost, missed := 3 }

/-- R92: PRINTER_LOST raised and can feed taken clear, with a CANCELLING job yet to be settled. -/
def State.lossAlerted (s : State) (p : Fin 32) : State :=
  ((s.linkLost p).raise (printerKey p .printerLost)).refreshFeed p

theorem becomeLost_eq (s : State) (p : Fin 32) : s.becomeLost p = (s.lossAlerted p).settleLost p := rfl

theorem printer_linkLost (s : State) (p : Fin 32) :
    ((s.linkLost p).raise (printerKey p .printerLost)).printer p = { s.printer p with link := .lost, missed := 3 } :=
  ((alertOnly_raiseAt ..).printer p).trans ((State.printer_setPrinter ..).trans (if_pos rfl))

theorem stopOnly_lossAlerted (s : State) (p : Fin 32) :
    StopOnly ((s.linkLost p).raise (printerKey p .printerLost)) (s.lossAlerted p) :=
  stopOnly_refreshFeed (canFeed_of_link (by rw [printer_linkLost]; nofun))

theorem printer_lossAlerted (s : State) (p : Fin 32) :
    (s.lossAlerted p).printer p = { s.printer p with link := .lost, missed := 3 } :=
  ((stopOnly_lossAlerted s p).printer p).trans (printer_linkLost s p)

theorem disp_linkLost (s : State) (p q : Fin 32) :
    ((s.linkLost p).raise (printerKey p .printerLost)).disp q = s.disp q := (alertOnly_raiseAt ..).disp q

theorem window_lossAlerted (s : State) (p q : Fin 32) : ((s.lossAlerted p).disp q).window = (s.disp q).window := by
  rw [(stopOnly_lossAlerted s p).window, disp_linkLost]

theorem assigned_lossAlerted (s : State) (p q : Fin 32) :
    ((s.lossAlerted p).disp q).assigned = (s.disp q).assigned := by
  rw [(stopOnly_lossAlerted s p).assigned, disp_linkLost]

theorem port_lossAlerted (s : State) (p : Fin 32) (q : Fin 8) : (s.lossAlerted p).port q = s.port q := by
  rw [(stopOnly_lossAlerted s p).port, (show AlertOnly _ ((s.linkLost p).raise _) from alertOnly_raiseAt ..)]
  rfl

/-- R136: of a job the alert's part takes no more than its stalled flag. -/
theorem job_lossAlerted {j : Fin 128} {x : Job} (hx : s.job j = some x) :
    ∃ y, (s.lossAlerted p).job j = some y ∧ (y = x ∨ y = withStalled x true) := by
  have before : ((s.linkLost p).raise (printerKey p .printerLost)).job j = some x := ((alertOnly_raiseAt ..).job j).trans hx
  rcases (stopOnly_lossAlerted s p).jobs j with same | ⟨z, hz, stalled⟩
  · exact ⟨x, same.trans before, .inl rfl⟩
  · cases hz.symm.trans before
    exact ⟨_, stalled, .inr rfl⟩

theorem sameAlerts_lossAlerted (s : State) (p : Fin 32) :
    SameAlerts (s.raiseAt (printerKey p .printerLost) true s.now) (s.lossAlerted p) := by
  have raised : SameAlerts (s.raiseAt (printerKey p .printerLost) true s.now)
      ((s.linkLost p).raise (printerKey p .printerLost)) :=
    (SameAlerts.mk rfl rfl : SameAlerts s (s.linkLost p)).raiseAt _ _ _
  have stopped := stopOnly_lossAlerted s p
  exact ⟨stopped.arl.trans raised.arl, by rw [stopped.rest]; exact raised.jli⟩

/-- R148: the window lost and the printer told, before its CANCELLING job ends. -/
def State.cancelledLoss (s : State) (p : Fin 32) (f : Byte) : State := (s.loseFrom p 0).setNeedsDrop p f

/-- R148: all that settling a LOST printer can do. -/
theorem settleLost_cases (s : State) (p : Fin 32) : s.settleLost p = s ∨
    ∃ j o c f, s.settleLost p = (s.cancelledLoss p f).endJob j o c := by
  unfold State.settleLost
  split
  · exact .inl rfl
  split
  · exact .inl rfl
  split
  · unfold State.cancelOnLost
    split
    · exact .inl rfl
    · exact .inr ⟨_, _, _, _, rfl⟩
  · exact .inl rfl

theorem settleLost_cancelling {j : Fin 128} {x : Job} {o : JobOutcome} {c : Cause} {e : WindowEntry}
    {rest : List WindowEntry} (ha : (s.disp p).assigned = some j) (hx : s.job j = some x) (hp : x.phase = .cancelling)
    (he : x.ending = some (o, c)) (hw : (s.disp p).window = e :: rest) :
    s.settleLost p = (s.cancelledLoss p e.feed).endJob j o c := by
  simp only [State.settleLost, State.cancelOnLost, ha, hx, hp, he, hw]
  rfl

theorem statusKept_cancelledLoss (s : State) (p : Fin 32) (f : Byte) :
    StatusKept (s.printer p) ((s.cancelledLoss p f).printer p) :=
  (printerDispatched_loseFrom s p p 0).statusKept.trans (statusKept_setNeedsDrop ..)

theorem entriesOf_cancelledLoss (s : State) (p : Fin 32) (f : Byte) (k : AlertKey) :
    (s.cancelledLoss p f).entriesOf k = s.entriesOf k := by
  unfold State.entriesOf State.cancelledLoss
  rw [arl_setNeedsDrop, arl_loseFrom]

theorem statusKept_settleLost (s : State) (p : Fin 32) : StatusKept (s.printer p) ((s.settleLost p).printer p) := by
  rcases settleLost_cases s p with h | ⟨j, o, c, f, h⟩ <;> rw [h]
  · exact .refl _
  · exact (statusKept_cancelledLoss s p f).trans (printerDispatched_endJob (.refl _) j o c).statusKept

theorem entriesOf_settleLost (hk : ApartFromJobs k) (s : State) (p : Fin 32) :
    (s.settleLost p).entriesOf k = s.entriesOf k := by
  rcases settleLost_cases s p with h | ⟨j, o, c, f, h⟩ <;> rw [h]
  exact (entriesOf_endJob hk j o c).trans (entriesOf_cancelledLoss s p f k)

/-- R92: of the printer's record the loss of its link sets the link and the missed polls. -/
theorem statusKept_becomeLost (s : State) (p : Fin 32) :
    StatusKept { s.printer p with link := .lost, missed := 3 } ((s.becomeLost p).printer p) := by
  rw [becomeLost_eq, ← printer_lossAlerted]
  exact statusKept_settleLost ..

/-- R92: PRINTER_LOST is active where the queue holds it, also after the end of a CANCELLING job. -/
theorem entriesActive_becomeLost (h : AlertsOk s.arl) :
    (s.becomeLost p).entriesActive (printerKey p .printerLost) true := by
  refine entriesActive_of_entriesOf (entriesOf_settleLost (apartFromJobs_printerKey p _) (s.lossAlerted p) p) ?_
  refine entriesActive_of_arl (stopOnly_lossAlerted s p).arl ?_
  exact entriesActive_raise (s := s.linkLost p) h

/-! ### Failed exchanges (R92) -/

theorem exchangeFailed_counted (h : (s.printer p).missed + 1 < 3) :
    s.exchangeFailed p = s.setPrinter p { s.printer p with missed := (s.printer p).missed + 1 } := if_pos h

theorem exchangeFailed_again (h : 3 ≤ (s.printer p).missed + 1) (hl : (s.printer p).link = .lost) :
    s.exchangeFailed p = s.setPrinter p { s.printer p with missed := 3 } :=
  (if_neg (Nat.not_lt.2 h)).trans (if_pos hl)

theorem exchangeFailed_loses (h : 3 ≤ (s.printer p).missed + 1) (hl : (s.printer p).link ≠ .lost) :
    s.exchangeFailed p = s.becomeLost p := (if_neg (Nat.not_lt.2 h)).trans (if_neg hl)

theorem printingOnly_exchangeFailed (s : State) (p : Fin 32) : PrintingOnly s (s.exchangeFailed p) :=
  (keepsPrinting_only s).exchangeFailed p (.refl s)

/-! ### A CANCELLING job on a printer that is LOST (R148) -/

section Cancelling

variable {j : Fin 128} {x : Job} {o : JobOutcome} {c : Cause} {e : WindowEntry} {rest : List WindowEntry}

/-- What the loss of the window leaves of the oldest entry's job, the printer and the job link. -/
structure CancelledLoss (s u : State) (p : Fin 32) (e : WindowEntry) (x : Job) (n : Nat) : Prop where
  job : u.job e.job = some (rewound x e n)
  window : (u.disp p).window = []
  told : ToldToDrop s u p e.feed
  jli : u.jli = s.jli

theorem cancelledLoss_some (hw : (s.disp p).window = e :: rest) (hx : s.job e.job = some x) :
    CancelledLoss s (s.cancelledLoss p e.feed) p e x (rest.length + 1) := by
  have lost := entriesLost_loseFrom (s := s) (p := p) (k := 0) (by rw [hw]; rfl) hx
  refine ⟨?_, ?_, ?_, ?_⟩
  · have hj := lost.job e.job
    rw [if_pos rfl, hw] at hj
    exact (job_setNeedsDrop ..).trans hj
  · unfold State.cancelledLoss
    rw [disp_setNeedsDrop, window_loseFrom_zero]
  · refine (toldToDrop_setNeedsDrop (s.loseFrom p 0) p e.feed).of_start ?_ ?_ ?_
    · rw [lost.printer]
    · rw [lost.printer]
    · rw [lost.port]
  · unfold State.cancelledLoss
    rw [setNeedsDrop_only]
    exact lost.jli

/-- R148: the window is lost, the printer told and the job ended, its report after the alert. -/
theorem becomeLost_cancelling (ha : (s.disp p).assigned = some e.job) (hx : s.job e.job = some x)
    (hp : x.phase = .cancelling) (he : x.ending = some (o, c)) (hw : (s.disp p).window = e :: rest) :
    (s.becomeLost p).job e.job = none ∧ ((s.becomeLost p).disp p).window = [] ∧ ToldToDrop s (s.becomeLost p) p e.feed ∧
      HandedFirst (s.raiseAt (printerKey p .printerLost) true s.now)
        (.jobReport (reportOf (rewound x e (rest.length + 1)) o c)) (s.becomeLost p) := by
  obtain ⟨y, hy, stalled⟩ := job_lossAlerted (p := p) hx
  have hw' := (window_lossAlerted s p p).trans hw
  have report : reportOf (rewound y e (rest.length + 1)) o c = reportOf (rewound x e (rest.length + 1)) o c := by
    rcases stalled with rfl | rfl <;> rfl
  have settled : s.becomeLost p = ((s.lossAlerted p).cancelledLoss p e.feed).endJob e.job o c := by
    refine settleLost_cancelling ((assigned_lossAlerted s p p).trans ha) hy ?_ ?_ hw' <;>
      rcases stalled with rfl | rfl <;> assumption
  obtain ⟨hj, empty, told, jli⟩ := cancelledLoss_some hw' hy
  have dispatched := printerDispatched_endJob (.refl _) e.job o c (s := (s.lossAlerted p).cancelledLoss p e.feed) (p := p)
  have ports := (booksKept_endJob (.refl _) e.job o c (t := (s.lossAlerted p).cancelledLoss p e.feed)).port (portOf p)
  rw [settled]
  refine ⟨endJob_job hj o c, (window_endJob hj told.1 o c).trans empty, ?_, ?_⟩
  · refine ToldToDrop.of_start (told.dispatched dispatched ports) ?_ ?_ ?_
    · rw [printer_lossAlerted]
    · rw [printer_lossAlerted]
    · rw [port_lossAlerted]
  · rw [← report]
    exact (endJob_handedFirst hj o c).of_jli (jli.trans (sameAlerts_lossAlerted s p).jli)

end Cancelling

end LostLinks

end Sys2Proof.Machine

/-! ## The end of an exchange (R71, R74 to R77, R80, R81) -/

namespace Sys2Proof.Machine

/-! ### The port after an exchange (R75, R77, R81) -/

/-- R71, R75: the port with its exchange over and the stored rates in use, before its line moves on. -/
def Port.exchangeOver (x : Port) : Port := x.dropExchange.takeRates

/-- R71, R75, R81: the port after an exchange, by whether the reply's check agreed. -/
def Port.afterExchange (x : Port) (ok : Bool) (now : Time) : Port := x.exchangeOver.moveOn ok now

section AfterExchange

variable {x : Port} {now : Time} (hl : x.line ≠ .disabled)
include hl

/-- R81: a pending restart starts a line reset. -/
theorem afterExchange_restart (hr : x.restartPending = true) (ok : Bool) :
    x.afterExchange ok now = x.exchangeOver.startLineReset now := (if_neg hl).trans (if_pos hr)

variable (hr : x.restartPending = false)
include hr

theorem afterExchange_ok : x.afterExchange true now = { x.exchangeOver with line := .idle } :=
  ((if_neg hl).trans (if_neg (by rw [show x.exchangeOver.restartPending = false from hr]; decide))).trans (if_pos rfl)

/-- R77: without a reply whose check agrees, the line recovers, at once where the line idle flag is set. -/
theorem afterExchange_failed : x.afterExchange false now = { x.exchangeOver with
    line := if x.rx.idleFlag then .idle else .recovering
    recoverExpiry := if x.rx.idleFlag then none else some (now + 50#32) } := by
  have recovers : x.afterExchange false now = x.exchangeOver.enterRecovering now :=
    ((if_neg hl).trans (if_neg (by rw [show x.exchangeOver.restartPending = false from hr]; decide))).trans
      (if_neg Bool.false_ne_true)
  rw [recovers]
  cases hi : x.rx.idleFlag with
  | true => exact enterRecovering_idle (x := x.exchangeOver) hi
  | false => exact enterRecovering_busy (x := x.exchangeOver) hi

theorem line_afterExchange (ok : Bool) :
    (x.afterExchange ok now).line = if ok || x.rx.idleFlag then .idle else .recovering := by
  cases ok with
  | true => rw [afterExchange_ok hl hr]; rfl
  | false => rw [afterExchange_failed hl hr, Bool.false_or]

theorem exchange_afterExchange (ok : Bool) : (x.afterExchange ok now).exchange = none := by
  cases ok with
  | true => rw [afterExchange_ok hl hr]; rfl
  | false => rw [afterExchange_failed hl hr]; rfl

end AfterExchange

/-! ### The outcome handed over, and the line moved on (R71, R75) -/

section FinishExchange

variable {s : State} {q : Fin 8} {e : Exchange} {o : ExchangeOutcome}

theorem printingOnly_takeOutcome (s : State) (p : Fin 32) (k : BlockKind) (o : ExchangeOutcome) :
    PrintingOnly s (s.takeOutcome p k o) := (keepsPrinting_only s).takeOutcome p k o (.refl s)

/-- R75: what the Printer Agent has made of the outcome of an exchange. -/
def State.outcomeTaken (s : State) (q : Fin 8) (e : Exchange) (o : ExchangeOutcome) : State :=
  s.takeOutcome (printerAt q e.drop) e.kind o

theorem printingOnly_outcomeTaken (s : State) (q : Fin 8) (e : Exchange) (o : ExchangeOutcome) :
    PrintingOnly s (s.outcomeTaken q e o) := printingOnly_takeOutcome ..

theorem handOutcome_some (hx : (s.port q).exchange = some e) : s.handOutcome q o = s.outcomeTaken q e o := by
  unfold State.handOutcome
  rw [hx]
  rfl

/-- R71, R75: on a port that stays enabled, after the outcome has been taken the port alone moves on. -/
theorem finishExchange_enabled (hx : (s.port q).exchange = some e) (he : (s.port q).config.enabled = true)
    (hl : (s.port q).line ≠ .disabled) : s.finishExchange q o =
      (s.outcomeTaken q e o).setPort q (((s.outcomeTaken q e o).port q).afterExchange (isReplyOk o) s.now) := by
  have only := printingOnly_outcomeTaken s q e o
  have port := only.ports q
  have same := applyConfig_same (s := (s.outcomeTaken q e o).setPort q ((s.outcomeTaken q e o).port q).dropExchange)
    (q := q) (.inl (by rw [port_setPort_self, port]; exact ⟨he, hl⟩))
  have now : (((s.outcomeTaken q e o).setPort q ((s.outcomeTaken q e o).port q).dropExchange).applyConfig q).now =
      s.now := by
    rw [same, only.rest]
    rfl
  unfold State.finishExchange
  rw [handOutcome_some hx]
  show State.modPort (State.applyConfig (State.setPort ..) q) q
    (fun x => x.moveOn _ (State.applyConfig (State.setPort ..) q).now) = _
  rw [now, same, port_setPort_self, State.setPort_setPort, modPort_setPort]
  rfl

/-- Of a port, what printing alone sets: the control blocks that wait and the protocol errors. -/
def Port.withControl (x : Port) (control : List ControlBlock) (errors : Nat) : Port :=
  { x with control := control, protocolErrors := errors }

/-- What the end of an exchange leaves of the printers and the alerts is what the outcome has made of them; the port has
moved on. -/
structure ExchangeOver (s v : State) (q : Fin 8) (e : Exchange) (o : ExchangeOutcome) : Prop where
  port : ∃ control errors,
    v.port q = ((s.port q).withControl control errors).afterExchange (isReplyOk o) s.now
  printer : ∀ p, v.printer p = (s.outcomeTaken q e o).printer p
  arl : v.arl = (s.outcomeTaken q e o).arl

theorem exchangeOver_finishExchange (hx : (s.port q).exchange = some e) (he : (s.port q).config.enabled = true)
    (hl : (s.port q).line ≠ .disabled) : ExchangeOver s (s.finishExchange q o) q e o := by
  rw [finishExchange_enabled hx he hl]
  refine ⟨⟨((s.outcomeTaken q e o).port q).control, ((s.outcomeTaken q e o).port q).protocolErrors, ?_⟩,
    fun _ => rfl, rfl⟩
  rw [port_setPort_self, (printingOnly_outcomeTaken s q e o).ports q]
  rfl

section Over

variable {v : State} (h : ExchangeOver s v q e o) (hl : (s.port q).line ≠ .disabled)
  (hr : (s.port q).restartPending = false)
include h hl hr

theorem ExchangeOver.exchange : (v.port q).exchange = none := by
  obtain ⟨control, errors, port⟩ := h.port
  rw [port]
  exact exchange_afterExchange (x := (s.port q).withControl control errors) hl hr _

theorem ExchangeOver.line : (v.port q).line = if isReplyOk o || (s.port q).rx.idleFlag then .idle else .recovering := by
  obtain ⟨control, errors, port⟩ := h.port
  rw [port]
  exact line_afterExchange (x := (s.port q).withControl control errors) hl hr _

end Over

/-- R80, R81: a pending restart starts a line reset in the place of the exchange. -/
theorem ExchangeOver.restarts {v : State} (h : ExchangeOver s v q e o) (hl : (s.port q).line ≠ .disabled)
    (hr : (s.port q).restartPending = true) (hb : (s.port q).line ≠ .recovering) :
    (v.port q).exchange = some lineResetExchange ∧ (v.port q).restartPending = false ∧
      (v.port q).line = if (s.port q).rx.idleFlag then .transmitting else .recovering := by
  obtain ⟨control, errors, port⟩ := h.port
  rw [port, afterExchange_restart (x := (s.port q).withControl control errors) hl hr]
  cases hi : (s.port q).rx.idleFlag with
  | true =>
    rw [startLineReset_idle (x := ((s.port q).withControl control errors).exchangeOver) hi]
    exact ⟨rfl, rfl, rfl⟩
  | false =>
    rw [startLineReset_busy (x := ((s.port q).withControl control errors).exchangeOver) hi hb]
    exact ⟨rfl, rfl, rfl⟩

theorem eventOnly_finishExchange {t : State} (h : EventOnly s t) (q : Fin 8) (o : ExchangeOutcome) :
    EventOnly s (t.finishExchange q o) := (keepsSense_only s).finishExchange q o h

/-! ### RESPONSE_WINDOW_EXPIRY (R75) -/

theorem exec_responseWindowExpiry {expiry : Time} (hl : (s.port q).line = .awaiting)
    (hw : (s.port q).windowExpiry = some expiry) (h : reached s.now expiry = true) :
    exec (.responseWindowExpiry q) s = .next (s.finishExchange q .noReply).serviceLines :=
  congrArg Host.Outcome.next (if_pos ⟨hl, expired_eq_true.2 ⟨expiry, hw, h⟩⟩)

/-- R91, R92: a poll that has brought no STATUS sets, besides what a failed exchange does, the poll due time. -/
theorem outcomeTaken_poll_failed {s : State} (hk : e.kind = .poll)
    (hc : (s.printer (printerAt q e.drop)).config.configured = true) (ho : statusOf o = none) :
    s.outcomeTaken q e o = { s.exchangeFailed (printerAt q e.drop) with
      pra := put (s.exchangeFailed (printerAt q e.drop)).pra (printerAt q e.drop)
        { (s.exchangeFailed (printerAt q e.drop)).printer (printerAt q e.drop) with
          pollDue := s.now + BitVec.ofNat 32 (s.port q).config.poll } } := by
  unfold State.outcomeTaken
  rw [hk, takeOutcome_poll_failed hc ho, setPollDue_eq (printingOnly_exchangeFailed s _).pollTime, portOf_printerAt]

/-- R92: the third miss of a poll loses the link. -/
theorem outcomeTaken_poll_loses {s : State} (hk : e.kind = .poll)
    (hc : (s.printer (printerAt q e.drop)).config.configured = true)
    (hmiss : 3 ≤ (s.printer (printerAt q e.drop)).missed + 1) (hlink : (s.printer (printerAt q e.drop)).link ≠ .lost) :
    StatusKept { s.printer (printerAt q e.drop) with
        link := .lost, missed := 3, pollDue := s.now + BitVec.ofNat 32 (s.port q).config.poll }
      ((s.outcomeTaken q e .noReply).printer (printerAt q e.drop)) ∧
    (AlertsOk s.arl → (s.outcomeTaken q e .noReply).entriesActive (printerKey (printerAt q e.drop) .printerLost) true) := by
  rw [outcomeTaken_poll_failed hk hc rfl, exchangeFailed_loses hmiss hlink]
  refine ⟨?_, fun ha => entriesActive_becomeLost ha⟩
  have kept := statusKept_becomeLost s (printerAt q e.drop)
  show StatusKept _ (Vector.get (put ..) _)
  rw [put_get_same]
  unfold StatusKept at *
  rw [kept]

/-- R91, R98: a poll hands its STATUS over. -/
theorem outcomeTaken_poll_status {s : State} (hk : e.kind = .poll)
    (hc : (s.printer (printerAt q e.drop)).config.configured = true) {payload : List Byte} {st : Status}
    (h : readStatus payload = some st) : StatusKept { s.printer (printerAt q e.drop) with
        link := .answering
        missed := 0
        room := st.room
        condition := some st.condition
        pollDue := s.now + BitVec.ofNat 32 (s.port q).config.poll }
      ((s.outcomeTaken q e (.replyOk 0x81#8 payload)).printer (printerAt q e.drop)) := by
  have kept := statusKept_takeStatus s (printerAt q e.drop) st
  rw [portOf_printerAt, ← takeOutcome_poll_status hc h, ← hk] at kept
  exact kept

end FinishExchange

/-! ### Characters of an exchange (R74, R75, R82) -/

section Characters

variable {s : State} {q : Fin 8} {e : Exchange} {c : CharSamples} {d : Byte} {mark : Bool}

/-- R67: the receiver of a port has ended its character. -/
def State.characterEnded (s : State) (q : Fin 8) (c : CharSamples) : State := s.setPort q ((s.port q).endCharacter c)

theorem port_characterEnded (s : State) (q : Fin 8) (c : CharSamples) :
    (s.characterEnded q c).port q = (s.port q).endCharacter c := port_setPort_self ..

theorem eventOnly_characterEnded (s : State) (q : Fin 8) (c : CharSamples) : EventOnly s (s.characterEnded q c) :=
  eventOnly_port rfl

theorem receiveAndServe_ended (hl : (s.port q).line ≠ .disabled) (hm : (s.port q).rx.mode = .inCharacter) :
    s.receiveAndServe q c = ((s.characterEnded q c).takeReport q (charReport c)).serviceLines :=
  receiveAndServe_inCharacter hl hm

/-- A command that is a character's end, where its condition holds. -/
theorem exec_ended {i : Instr} {P : Prop} [Decidable P] (hi : exec i s = .next (if P then s.receiveAndServe q c else s))
    (hP : P) (hl : (s.port q).line ≠ .disabled) (hm : (s.port q).rx.mode = .inCharacter) {v : State}
    (hv : (s.characterEnded q c).takeReport q (charReport c) = v) :
    ∃ t, exec i s = .next t ∧ LinesOnly v t :=
  ⟨_, hi.trans (congrArg Host.Outcome.next (if_pos hP)), by
    rw [receiveAndServe_ended hl hm, hv]
    exact linesOnly_serviceLines v⟩

/-! #### The block's last echo (R74, R76) -/

section LastEcho

variable {ch : LineChar} (hl : (s.port q).line = .transmitting) (hx : (s.port q).exchange = some e)
  (hch : e.chars[e.echoed]? = some ch) (hlast : e.echoed + 1 = e.chars.length)
include hl hx hch

theorem wouldFinishBlock_last (hlast : e.echoed + 1 = e.chars.length) (hc : charReport c = .character ch.data ch.mark) :
    (s.port q).wouldFinishBlock c = true := by
  simp [Port.wouldFinishBlock, hl, hx, hch, hc, echoMatches, hlast]

include hlast in
theorem takeReport_lastEcho : s.takeReport q (.character ch.data ch.mark) =
    (s.setPort q { s.port q with exchange := some { e with echoed := e.echoed + 1 } }).transmitted q e.kind := by
  have takes : s.takeReport q (.character ch.data ch.mark) = s.takeEcho q (.character ch.data ch.mark) := by
    unfold State.takeReport
    rw [hl]
  have agrees : echoMatches ch (.character ch.data ch.mark) = true := by simp [echoMatches]
  rw [takes, State.takeEcho, hx]
  dsimp only
  rw [hch]
  exact (if_pos agrees).trans (if_pos hlast)

end LastEcho

/-! #### The end of a reply (R75, R82) -/

section Reply

variable {reply : List Byte} {len : Byte}

theorem byteAt_last (l : List Byte) (d : Byte) : byteAt (l ++ [d]) l.length = d := by
  simp [byteAt]

theorem replyTooLong_iff (h : reply[1]? = some len) : replyTooLong reply = true ↔ 250 < len.toNat := by
  match reply, h with
  | _ :: _ :: _, h =>
    cases h
    exact decide_eq_true_iff

theorem replyComplete_iff (h : reply[1]? = some len) : replyComplete reply = true ↔ reply.length = len.toNat + 3 := by
  match reply, h with
  | _ :: _ :: _, h =>
    cases h
    exact beq_iff_eq

/-- R75: the outcome of a reply, by its check. -/
def checkedReply (reply : List Byte) (len d : Byte) : ExchangeOutcome :=
  if crc8 (reply.take (len.toNat + 2)) = d then .replyOk (byteAt reply 0) ((reply.drop 2).take len.toNat) else .badReply

theorem isReplyOk_checkedReply : isReplyOk (checkedReply reply len d) = true ↔ crc8 (reply.take (len.toNat + 2)) = d := by
  unfold checkedReply
  split <;> simp_all [isReplyOk]

theorem replyOutcome_eq {taken : List Byte} (hreply : reply = taken ++ [d]) (hfull : reply.length = len.toNat + 3) :
    replyOutcome reply = checkedReply reply len d := by
  have before : taken.length = len.toNat + 2 := by
    rw [hreply, List.length_append] at hfull
    simpa using hfull
  have check : byteAt reply (reply.length - 1) = d := by
    rw [hfull, show len.toNat + 3 - 1 = taken.length by omega, hreply]
    exact byteAt_last ..
  have payload : (reply.drop 2).dropLast = (reply.drop 2).take len.toNat := by
    rw [List.dropLast_eq_take, List.length_drop, hfull]
    congr 1
  unfold replyOutcome checkedReply
  rw [check, payload, List.dropLast_eq_take, hfull]
  rfl

variable (hreply : reply = (s.port q).reply ++ [d])
include hreply

/-- R75: the reply's last character. -/
theorem takeReport_lastOfReply (hl : (s.port q).line = .receiving) (hlen : reply[1]? = some len)
    (hshort : len.toNat ≤ 250) (hfull : reply.length = len.toNat + 3) :
    s.takeReport q (.character d false) = s.finishExchange q (checkedReply reply len d) := by
  have short : replyTooLong reply = false := Bool.eq_false_iff.2 fun h => absurd ((replyTooLong_iff hlen).1 h) (by omega)
  have complete := (replyComplete_iff hlen).2 hfull
  simp only [State.takeReport, hl, State.takeReplyCharacter, ← hreply, short, complete, replyOutcome_eq hreply hfull]
  rfl

/-- R75: a mark of 1 or a length above 250 ends the reply early. -/
theorem takeReport_badCharacter (hl : (s.port q).line = .receiving)
    (h : mark = true ∨ ∃ len, reply[1]? = some len ∧ 250 < len.toNat) :
    s.takeReport q (.character d mark) = s.finishExchange q .badReply := by
  have ends : (mark || replyTooLong reply) = true := by
    rw [Bool.or_eq_true]
    exact h.imp_right fun ⟨_, hlen, hlong⟩ => (replyTooLong_iff hlen).2 hlong
  simp only [State.takeReport, hl, State.takeReplyCharacter, ← hreply, ends]
  rfl

end Reply

theorem wouldFinishReply_last {x : Port} {reply : List Byte} {len : Byte} (hl : x.line = .receiving)
    (hc : charReport c = .character d false) (hreply : reply = x.reply ++ [d]) (hlen : reply[1]? = some len)
    (hshort : len.toNat ≤ 250) (hfull : reply.length = len.toNat + 3) : x.wouldFinishReply c = true := by
  have short : replyTooLong reply = false := Bool.eq_false_iff.2 fun h => absurd ((replyTooLong_iff hlen).1 h) (by omega)
  have complete := (replyComplete_iff hlen).2 hfull
  simp only [Port.wouldFinishReply, hl, hc, ← hreply, short, complete]
  rfl

theorem takeReport_framingInReply (hl : (s.port q).line = .receiving) :
    s.takeReport q .framing = s.finishExchange q .badReply := by
  simp only [State.takeReport, hl]
  rfl

theorem takeReport_breakInReply (hl : (s.port q).line = .receiving ∨ (s.port q).line = .awaiting) :
    s.takeReport q .brk = (s.finishExchange q .badReply).requestAttention q := by
  rcases hl with h | h <;> simp only [State.takeReport, h] <;> rfl

/-- R82: an attention request on a line that is up. -/
theorem requestAttention_up (h : lineFeeds (s.port q).line = true) :
    s.requestAttention q = s.modPort q fun x => { x with attention := x.attention ||| s.configuredDrops q } := if_pos h

end Characters

end Sys2Proof.Machine

/-! ## A line reset that is done (R80, R93) -/

namespace Sys2Proof.Machine

section LineReset

variable {s t : State} {p r : Fin 32} {q : Fin 8}

/-- R93: a printer's record after a line reset of its port. -/
def Printer.lineReset (r : Printer) (now : Time) : Printer := { r with link := .unknown, missed := 0, pollDue := now }

/-- R93: a line reset stores the record, takes can feed clear, and queues a DROP-SHEETS at most. -/
theorem printerLineReset_eq (s : State) (p : Fin 32) : ∃ u, StopOnly (s.setPrinter p ((s.printer p).lineReset s.now)) u ∧
    s.printerLineReset p = { u with dlc := (s.printerLineReset p).dlc } := by
  have stored : (s.setPrinter p ((s.printer p).lineReset s.now)).printer p = (s.printer p).lineReset s.now :=
    (State.printer_setPrinter ..).trans (if_pos rfl)
  refine ⟨_, stopOnly_refreshFeed (p := p) (canFeed_of_link (by rw [stored]; nofun)), ?_⟩
  exact kept_ite (P := fun t => t = { (State.refreshFeed _ p : State) with dlc := t.dlc }) (queueDropSheets_only ..) rfl

theorem printer_printerLineReset (s : State) (p r : Fin 32) :
    (s.printerLineReset p).printer r = if r = p then (s.printer p).lineReset s.now else s.printer r := by
  obtain ⟨u, stopped, same⟩ := printerLineReset_eq s p
  rw [same]
  exact (stopped.printer r).trans (State.printer_setPrinter ..)

theorem arl_printerLineReset (s : State) (p : Fin 32) : (s.printerLineReset p).arl = s.arl := by
  obtain ⟨u, stopped, same⟩ := printerLineReset_eq s p
  rw [same]
  exact stopped.arl

theorem now_printerLineReset (s : State) (p : Fin 32) : (s.printerLineReset p).now = s.now := by
  obtain ⟨u, stopped, same⟩ := printerLineReset_eq s p
  rw [same]
  exact stopped.now

theorem arl_resetPass (s : State) (q : Fin 8) : (s.eachConfigured q State.printerLineReset).arl = s.arl :=
  eachConfigured_kept (P := fun t => t.arl = s.arl) (fun t _ ht => (arl_printerLineReset t _).trans ht) rfl

theorem printingOnly_resetPass (s : State) (q : Fin 8) : PrintingOnly s (s.eachConfigured q State.printerLineReset) :=
  eachConfigured_kept (P := PrintingOnly s) (fun _ _ ht => (keepsPrinting_only s).printerLineReset _ ht) (.refl s)

/-- R93: the pass over the port's printers reaches each of its configured ones. -/
theorem printer_resetPass {d : Fin 4} (hc : (s.printer (printerAt q d)).config.configured = true) :
    (s.eachConfigured q State.printerLineReset).printer (printerAt q d) = (s.printer (printerAt q d)).lineReset s.now := by
  have other (t : State) {e : Fin 4} (he : e ≠ d) :
      (t.printerLineReset (printerAt q e)).printer (printerAt q d) = t.printer (printerAt q d) := by
    rw [printer_printerLineReset, if_neg fun eq => he (printerAt_inj.1 eq).symm]
  refine eachConfigured_at (d := d) (P := fun t => t.printer (printerAt q d) = s.printer (printerAt q d) ∧ t.now = s.now)
    (Q := fun t => t.printer (printerAt q d) = (s.printer (printerAt q d)).lineReset s.now)
    (fun t ht => ht.1 ▸ hc)
    (fun t e he ht => ⟨(other t he).trans ht.1, (now_printerLineReset t _).trans ht.2⟩)
    (fun t ht => ?_) (fun t e he ht => (other t he).trans ht) ⟨rfl, rfl⟩
  rw [printer_printerLineReset, if_pos rfl, ht.1, ht.2]

/-- R80: the line IDLE, the port's fault over and no attention pending, before the pass over the port's printers. -/
def State.lineRestored (s : State) (q : Fin 8) : State :=
  ((s.setPort q { (s.port q).exchangeOver with line := .idle }).clear (portFaultKey q)).modPort q fun x =>
    { x with attention := 0#4 }

theorem lineResetDone_enabled (he : (s.port q).config.enabled = true) (hl : (s.port q).line ≠ .disabled) :
    s.lineResetDone q = (s.lineRestored q).eachConfigured q State.printerLineReset := by
  have same : (s.modPort q Port.dropExchange).applyConfig q = s.setPort q (s.port q).exchangeOver := by
    rw [applyConfig_same (.inl (by rw [port_modPort_self]; exact ⟨he, hl⟩)), port_modPort_self]
    exact State.setPort_setPort ..
  have runs : ((s.setPort q (s.port q).exchangeOver).port q).line ≠ .disabled := by
    rw [port_setPort_self]
    exact hl
  unfold State.lineResetDone
  rw [same]
  dsimp only
  rw [if_neg runs, modPort_setPort]
  rfl

theorem printer_lineRestored (s : State) (q : Fin 8) (p : Fin 32) : (s.lineRestored q).printer p = s.printer p :=
  (alertOnly_clear (s.setPort q _) (portFaultKey q)).printer p

theorem now_lineRestored (s : State) (q : Fin 8) : (s.lineRestored q).now = s.now := by
  have cleared := alertOnly_clear (s.setPort q { (s.port q).exchangeOver with line := .idle }) (portFaultKey q)
  show State.now (State.clear ..) = _
  rw [cleared]
  rfl

theorem port_lineRestored (s : State) (q : Fin 8) :
    (s.lineRestored q).port q = { (s.port q).exchangeOver with line := .idle, attention := 0#4 } := by
  have cleared := alertOnly_clear (s.setPort q { (s.port q).exchangeOver with line := .idle }) (portFaultKey q)
  unfold State.lineRestored
  rw [port_modPort_self, cleared]
  show ({ State.port (s.setPort q _) q with attention := 0#4 } : Port) = _
  rw [port_setPort_self]

theorem entriesActive_lineRestored (h : AlertsOk s.arl) : (s.lineRestored q).entriesActive (portFaultKey q) false :=
  entriesActive_clear (s := s.setPort q _) h

/-- R80, R93: what a line reset that is done leaves of the port, of its configured printers and of PORT_FAULT. -/
structure LineReset (s v : State) (q : Fin 8) : Prop where
  line : (v.port q).line = .idle
  exchange : (v.port q).exchange = none
  attention : (v.port q).attention = 0#4
  printer : ∀ d, (s.printer (printerAt q d)).config.configured = true →
    v.printer (printerAt q d) = (s.printer (printerAt q d)).lineReset s.now
  alert : AlertsOk s.arl → v.entriesActive (portFaultKey q) false

theorem lineReset_lineResetDone (he : (s.port q).config.enabled = true) (hl : (s.port q).line ≠ .disabled) :
    LineReset s (s.lineResetDone q) q := by
  rw [lineResetDone_enabled he hl]
  have kept := (printingOnly_resetPass (s.lineRestored q) q).ports q
  rw [port_lineRestored] at kept
  refine ⟨by rw [kept], by rw [kept]; rfl, by rw [kept], fun d hc => ?_, fun ha => ?_⟩
  · rw [printer_resetPass (by rw [printer_lineRestored]; exact hc), printer_lineRestored, now_lineRestored]
  · exact entriesActive_of_arl (arl_resetPass ..) (entriesActive_lineRestored ha)

end LineReset

end Sys2Proof.Machine

/-! ## The ends of an exchange, command by command (R74 to R77, R80 to R82) -/

namespace Sys2Proof.Machine

section Ends

variable {s : State} {q : Fin 8} {e : Exchange} (hx : (s.port q).exchange = some e)
  (he : (s.port q).config.enabled = true)
include hx he

/-! ### BLOCK_TRANSMITTED (R74, R76, R80) -/

section LastCharacter

variable {c : CharSamples} {ch : LineChar} (hl : (s.port q).line = .transmitting)
  (hm : (s.port q).rx.mode = .inCharacter) (hch : e.chars[e.echoed]? = some ch)
  (hlast : e.echoed + 1 = e.chars.length) (hc : charReport c = .character ch.data ch.mark)
include hl hm hch hlast hc

omit he in
/-- R74: the command is the end of the block. -/
theorem exec_blockTransmitted : ∃ t, exec (.blockTransmitted q c) s = .next t ∧
    LinesOnly (((s.setPort q { (s.port q).endCharacter c with
      exchange := some { e with echoed := e.echoed + 1 } }) : State).transmitted q e.kind) t := by
  have port := port_characterEnded s q c
  refine exec_ended rfl (wouldFinishBlock_last hl hx hch hlast hc) (by rw [hl]; decide) hm ?_
  rw [hc, takeReport_lastEcho (by rw [port]; exact hl) (by rw [port]; exact hx) hch hlast, port]
  unfold State.characterEnded
  rw [State.setPort_setPort]

omit he in
theorem blockTransmitted_awaits (hk : e.kind ≠ .lineReset) : ∃ t, exec (.blockTransmitted q c) s = .next t ∧
    LinesOnly (s.setPort q { (s.port q).endCharacter c with
      exchange := some { e with echoed := e.echoed + 1 }
      line := .awaiting
      windowExpiry := some (s.now + BitVec.ofNat 32 (s.port q).windowInUse) }) t := by
  have sent := exec_blockTransmitted hx hl hm hch hlast hc
  rw [State.transmitted, if_neg hk, modPort_setPort] at sent
  exact sent

theorem blockTransmitted_lineReset (hk : e.kind = .lineReset) : ∃ v t, exec (.blockTransmitted q c) s = .next t ∧
    LinesOnly v t ∧ EventOnly s v ∧ LineReset s v q := by
  obtain ⟨t, ran, lines⟩ := exec_blockTransmitted hx hl hm hch hlast hc
  rw [State.transmitted, if_pos hk] at lines
  refine ⟨_, t, ran, lines, (keepsSense_only s).lineResetDone q (eventOnly_port rfl), ?_⟩
  have done := lineReset_lineResetDone (q := q) (s := s.setPort q { (s.port q).endCharacter c with
    exchange := some { e with echoed := e.echoed + 1 } }) (by rw [port_setPort_self]; exact he)
    (by rw [port_setPort_self]; exact fun h => nomatch hl.symm.trans h)
  exact ⟨done.line, done.exchange, done.attention, done.printer, done.alert⟩

end LastCharacter

/-! ### RESPONSE_WINDOW_EXPIRY (R75, R77, R81, R92) -/

section WindowExpired

variable {expiry : Time} (hl : (s.port q).line = .awaiting) (hw : (s.port q).windowExpiry = some expiry)
  (hn : reached s.now expiry = true)
include hl hw hn

theorem expiry_ends : ∃ v t, exec (.responseWindowExpiry q) s = .next t ∧ LinesOnly v t ∧ EventOnly s v ∧
    ExchangeOver s v q e .noReply :=
  ⟨_, _, exec_responseWindowExpiry hl hw hn, linesOnly_serviceLines _, eventOnly_finishExchange (.refl s) _ _,
    exchangeOver_finishExchange hx he (by rw [hl]; decide)⟩

/-- R92: a counted miss leaves, besides the misses and the poll due time, the port alone changed. -/
theorem expiry_counted (hk : e.kind = .poll)
    (hc : (s.printer (printerAt q e.drop)).config.configured = true)
    (hmiss : (s.printer (printerAt q e.drop)).missed + 1 < 3) (hr : (s.port q).restartPending = false) :
    ∃ t, exec (.responseWindowExpiry q) s = .next t ∧
      LinesOnly { s with
        dlc := put s.dlc q { (s.port q).exchangeOver with
          line := if (s.port q).rx.idleFlag then .idle else .recovering
          recoverExpiry := if (s.port q).rx.idleFlag then none else some (s.now + 50#32) }
        pra := put s.pra (printerAt q e.drop) { s.printer (printerAt q e.drop) with
          missed := (s.printer (printerAt q e.drop)).missed + 1
          pollDue := s.now + BitVec.ofNat 32 (s.port q).config.poll } } t := by
  have runs : (s.port q).line ≠ .disabled := by rw [hl]; decide
  have taken : s.outcomeTaken q e .noReply = s.setPrinter (printerAt q e.drop) { s.printer (printerAt q e.drop) with
      missed := (s.printer (printerAt q e.drop)).missed + 1
      pollDue := s.now + BitVec.ofNat 32 (s.port q).config.poll } := by
    rw [outcomeTaken_poll_failed hk hc rfl, exchangeFailed_counted hmiss, State.printer_setPrinter, if_pos rfl]
    exact State.setPrinter_setPrinter ..
  have finished := finishExchange_enabled (o := .noReply) hx he runs
  rw [taken] at finished
  refine ⟨_, exec_responseWindowExpiry hl hw hn, ?_⟩
  rw [finished]
  show LinesOnly _ (State.serviceLines (State.setPort _ q (Port.afterExchange (s.port q) false s.now)))
  rw [afterExchange_failed runs hr]
  exact linesOnly_serviceLines _

end WindowExpired

/-! ### REPLY_RECEIVED (R75, R98) -/

section ReplyTaken

variable {c : CharSamples} {d len : Byte} {reply : List Byte} (hl : (s.port q).line = .receiving)
  (hm : (s.port q).rx.mode = .inCharacter) (hc : charReport c = .character d false)
  (hreply : reply = (s.port q).reply ++ [d]) (hlen : reply[1]? = some len) (hshort : len.toNat ≤ 250)
  (hfull : reply.length = len.toNat + 3)
include hl hm hc hreply hlen hshort hfull

omit hx he in
/-- R75: the command is the end of the reply. -/
theorem exec_replyReceived : ∃ t, exec (.replyReceived q c) s = .next t ∧
    LinesOnly ((s.characterEnded q c).finishExchange q (checkedReply reply len d)) t := by
  have port := port_characterEnded s q c
  refine exec_ended rfl (wouldFinishReply_last hl hc hreply hlen hshort hfull) (by rw [hl]; decide) hm ?_
  rw [hc]
  exact takeReport_lastOfReply (by rw [port]; exact hreply) (by rw [port]; exact hl) hlen hshort hfull

theorem reply_ends : ∃ v t, exec (.replyReceived q c) s = .next t ∧ LinesOnly v t ∧ EventOnly s v ∧
    ExchangeOver (s.characterEnded q c) v q e (checkedReply reply len d) := by
  have port := port_characterEnded s q c
  obtain ⟨t, ran, lines⟩ := exec_replyReceived hl hm hc hreply hlen hshort hfull
  refine ⟨_, t, ran, lines, eventOnly_finishExchange (eventOnly_characterEnded s q c) _ _,
    exchangeOver_finishExchange ?_ ?_ ?_⟩ <;> rw [port]
  · exact hx
  · exact he
  · exact fun h => nomatch hl.symm.trans h

end ReplyTaken

/-! ### What ends a reply early (R69, R75, R82) -/

/-- R75, R77: the exchange is over without a reply whose check agrees. -/
structure EndsBadly (s v : State) (q : Fin 8) : Prop where
  event : EventOnly s v
  exchange : (v.port q).exchange = none
  line : (v.port q).line = if (s.port q).rx.idleFlag then .idle else .recovering

theorem endsBadly_finishExchange (hl : (s.port q).line ≠ .disabled) (hr : (s.port q).restartPending = false) :
    EndsBadly s (s.finishExchange q .badReply) q := by
  have ended := exchangeOver_finishExchange (o := .badReply) hx he hl
  refine ⟨eventOnly_finishExchange (.refl s) _ _, ended.exchange hl hr, ?_⟩
  rw [ended.line hl hr]
  rfl

omit hx he in
theorem EndsBadly.of_characterEnded {c : CharSamples} {v : State} (h : EndsBadly (s.characterEnded q c) v q) :
    EndsBadly s v q := by
  refine ⟨(eventOnly_characterEnded s q c).trans h.event, h.exchange, h.line.trans ?_⟩
  rw [port_characterEnded]
  rfl

omit hx he in
/-- R82: an attention request for the printers that are configured, after the exchange. -/
theorem EndsBadly.requestAttention {v : State} (h : EndsBadly s v q) : EndsBadly s (v.requestAttention q) q ∧
    ∀ d : Fin 4, (s.printer (printerAt q d)).config.configured = true →
      ((v.requestAttention q).port q).attention.getLsbD d.val = true := by
  have up : lineFeeds (v.port q).line = true := by
    rw [h.line]
    split <;> rfl
  rw [requestAttention_up up]
  refine ⟨⟨h.event.trans (eventOnly_port rfl), ?_, ?_⟩, fun d hd => ?_⟩ <;> rw [port_modPort_self]
  · exact h.exchange
  · exact h.line
  · rw [BitVec.getLsbD_or, getLsbD_configuredDrops, h.event.printers, hd, Bool.or_true]

section EarlyEnd

variable {c : CharSamples} (hr : (s.port q).restartPending = false)
include hr

theorem endsBadly_characterEnded (hl : (s.port q).line ≠ .disabled) :
    EndsBadly s ((s.characterEnded q c).finishExchange q .badReply) q := by
  have port := port_characterEnded s q c
  exact (endsBadly_finishExchange (by rw [port]; exact hx) (by rw [port]; exact he) (by rw [port]; exact hl)
    (by rw [port]; exact hr)).of_characterEnded

variable (hm : (s.port q).rx.mode = .inCharacter)
include hm

theorem framingFault_ends (hl : (s.port q).line = .receiving) (hc : charReport c = .framing) :
    ∃ v t, exec (.framingFault q c) s = .next t ∧ LinesOnly v t ∧ EndsBadly s v q := by
  have runs : (s.port q).line ≠ .disabled := by rw [hl]; decide
  obtain ⟨t, ran, lines⟩ := exec_ended (i := .framingFault q c) rfl hc runs hm
    ((congrArg (State.takeReport _ q) hc).trans (takeReport_framingInReply (by rw [port_characterEnded]; exact hl)))
  exact ⟨_, t, ran, lines, endsBadly_characterEnded hx he hr runs⟩

theorem characterReceived_ends {d : Byte} {mark : Bool} (hl : (s.port q).line = .receiving)
    (hc : charReport c = .character d mark)
    (hbad : mark = true ∨ ∃ len, ((s.port q).reply ++ [d])[1]? = some len ∧ 250 < len.toNat) :
    ∃ v t, exec (.characterReceived q c) s = .next t ∧ LinesOnly v t ∧ EndsBadly s v q := by
  have runs : (s.port q).line ≠ .disabled := by rw [hl]; decide
  have complete : isCharacter (charReport c) = true := by rw [hc]; rfl
  obtain ⟨t, ran, lines⟩ := exec_ended (i := .characterReceived q c) rfl complete runs hm
    ((congrArg (State.takeReport _ q) hc).trans (takeReport_badCharacter rfl
      (by rw [port_characterEnded]; exact hl) (by rw [port_characterEnded]; exact hbad)))
  exact ⟨_, t, ran, lines, endsBadly_characterEnded hx he hr runs⟩

theorem breakReceived_ends (hl : (s.port q).line = .receiving ∨ (s.port q).line = .awaiting)
    (hc : charReport c = .brk) : ∃ v t, exec (.breakReceived q c) s = .next t ∧ LinesOnly v t ∧ EndsBadly s v q ∧
      ∀ d : Fin 4, (s.printer (printerAt q d)).config.configured = true →
        (v.port q).attention.getLsbD d.val = true := by
  have runs : (s.port q).line ≠ .disabled := by rcases hl with h | h <;> rw [h] <;> decide
  obtain ⟨t, ran, lines⟩ := exec_ended (i := .breakReceived q c) rfl hc runs hm
    ((congrArg (State.takeReport _ q) hc).trans (takeReport_breakInReply (by rw [port_characterEnded]; exact hl)))
  exact ⟨_, t, ran, lines, (endsBadly_characterEnded hx he hr runs).requestAttention⟩

end EarlyEnd

/-- R69, R75: the line idle report in the place of a reply's next character. -/
theorem lineIdle_ends (hl : (s.port q).line = .receiving) (hm : (s.port q).rx.mode ≠ .inCharacter)
    (hi : (s.port q).rx.idleFlag = false) (hr : (s.port q).restartPending = false) :
    ∃ v t, exec (.lineIdle q) s = .next t ∧ LinesOnly v t ∧ EventOnly s v ∧ (v.port q).exchange = none ∧
      (v.port q).line = .idle := by
  have port : (s.modPort q Port.reportIdle).port q = (s.port q).reportIdle := port_modPort_self ..
  have ends := endsBadly_finishExchange (s := s.modPort q Port.reportIdle) (q := q) (e := e) (by rw [port]; exact hx)
    (by rw [port]; exact he) (by rw [port]; exact fun h => nomatch hl.symm.trans h) (by rw [port]; exact hr)
  refine ⟨_, _, rfl, linesOnly_serviceLines _, ?_⟩
  rw [lineIdle_receiving hm hi hl]
  exact ⟨(eventOnly_port (q := q) (x := (s.port q).reportIdle) rfl).trans ends.event, ends.exchange,
    ends.line.trans (by rw [port]; rfl)⟩

end Ends

end Sys2Proof.Machine

/-! ## The ends of an exchange settled -/

namespace Sys2Proof.Machine

/-- Settles O45: each command hands the outcome of its exchange over once, after which the port alone moves on. -/
theorem exchangesEnd : Obligations.ExchangesEnd := by
  unfold Obligations.ExchangesEnd
  rintro s q _ e rfl hx he
  refine ⟨fun c ch hl hm hch hlast hc => ⟨blockTransmitted_awaits hx hl hm hch hlast hc, fun hk => ?_⟩,
    fun expiry hl hw hn => ⟨?_, fun hr => ?_⟩, ?_, ?_, ?_, ?_⟩
  · obtain ⟨v, t, ran, lines, event, done⟩ := blockTransmitted_lineReset hx he hl hm hch hlast hc hk
    refine ⟨v, t, ran, lines, event, done.line, done.exchange, done.attention, fun d hd => ?_, done.alert⟩
    rw [done.printer d hd]
    exact ⟨rfl, rfl, rfl⟩
  · rintro _ _ _ rfl rfl hk hc hmiss hr rfl
    exact expiry_counted hx he hl hw hn hk hc hmiss hr
  · obtain ⟨v, t, ran, lines, event, ended⟩ := expiry_ends hx he hl hw hn
    exact ⟨v, t, ran, lines, event, ended.restarts (by rw [hl]; decide) hr (by rw [hl]; decide)⟩
  · intro c d len reply hl hm hr hc hreply hlen hshort hfull
    obtain ⟨v, t, ran, lines, event, ended⟩ := reply_ends hx he hl hm hc hreply hlen hshort hfull
    have port := port_characterEnded s q c
    have runs : ((s.characterEnded q c).port q).line ≠ .disabled := by
      rw [port]
      exact fun h => nomatch hl.symm.trans h
    have rests : ((s.characterEnded q c).port q).restartPending = false := by
      rw [port]
      exact hr
    have line := ended.line runs rests
    refine ⟨v, t, ran, lines, event, ended.exchange runs rests, fun hbad => ?_, fun hok => ⟨?_, ?_⟩⟩
    · rw [line, Bool.eq_false_iff.2 (mt isReplyOk_checkedReply.1 hbad), Bool.false_or, port]
      rfl
    · rw [line, isReplyOk_checkedReply.2 hok]
      rfl
    · rintro _ st rfl hconf hk hkind hst
      have answer : checkedReply reply len d = .replyOk 0x81#8 ((reply.drop 2).take len.toNat) := by
        have kind : byteAt reply 0 = 0x81#8 := by simp [byteAt, hkind]
        rw [checkedReply, if_pos hok, kind]
      have kept := outcomeTaken_poll_status (q := q) (s := s.characterEnded q c) hk hconf hst
      rw [← answer, ← ended.printer, port] at kept
      rw [kept]
      exact ⟨rfl, rfl, rfl, rfl, rfl⟩
  · rintro c i hm hr (⟨hl, rfl, hc⟩ | ⟨hl, rfl, d, mark, hc, hbad⟩ | ⟨hl, rfl, hc⟩)
    · obtain ⟨v, t, ran, lines, ended⟩ := framingFault_ends hx he hr hm hl hc
      exact ⟨v, t, ran, lines, ended.event, ended.exchange, ended.line, fun h => nomatch hc.symm.trans h⟩
    · obtain ⟨v, t, ran, lines, ended⟩ := characterReceived_ends hx he hr hm hl hc hbad
      exact ⟨v, t, ran, lines, ended.event, ended.exchange, ended.line, fun h => nomatch hc.symm.trans h⟩
    · obtain ⟨v, t, ran, lines, ended, attention⟩ := breakReceived_ends hx he hr hm hl hc
      exact ⟨v, t, ran, lines, ended.event, ended.exchange, ended.line, fun _ => attention⟩
  · exact lineIdle_ends hx he
  · rintro expiry _ hl hw hn rfl hk hc hmiss hlink hr
    obtain ⟨v, t, ran, lines, event, ended⟩ := expiry_ends hx he hl hw hn
    obtain ⟨kept, alert⟩ := outcomeTaken_poll_loses (q := q) hk hc hmiss hlink
    have runs : (s.port q).line ≠ .disabled := by rw [hl]; decide
    rw [← ended.printer] at kept
    refine ⟨v, t, ran, lines, event, ended.exchange runs hr, ended.line runs hr, ?_, ?_, ?_, fun ha => ?_⟩
    · rw [kept]
    · rw [kept]
    · rw [kept]
    · exact entriesActive_of_arl ended.arl (alert ha)

end Sys2Proof.Machine

/-! ## The outcome of a START or DATA (R92, R95 to R97) -/

namespace Sys2Proof.Machine

/-! ### The outcome, command by command (R75) -/

section HandedOver

variable {s : State} {q : Fin 8} {e : Exchange} (hx : (s.port q).exchange = some e)
  (he : (s.port q).config.enabled = true)
include hx he

theorem replyReceived_handsOver {c : CharSamples} {d len : Byte} {reply : List Byte} (hl : (s.port q).line = .receiving)
    (hm : (s.port q).rx.mode = .inCharacter) (hc : charReport c = .character d false)
    (hreply : reply = (s.port q).reply ++ [d]) (hlen : reply[1]? = some len) (hshort : len.toNat ≤ 250)
    (hfull : reply.length = len.toNat + 3) :
    ∃ y t, exec (.replyReceived q c) s = .next t ∧
      LinesOnly (((s.characterEnded q c).outcomeTaken q e (checkedReply reply len d)).setPort q y) t := by
  have port := port_characterEnded s q c
  obtain ⟨t, ran, lines⟩ := exec_replyReceived hl hm hc hreply hlen hshort hfull
  rw [finishExchange_enabled (by rw [port]; exact hx) (by rw [port]; exact he)
    (by rw [port]; exact fun h => nomatch hl.symm.trans h)] at lines
  exact ⟨_, t, ran, lines⟩

theorem expiry_handsOver {expiry : Time} (hl : (s.port q).line = .awaiting)
    (hw : (s.port q).windowExpiry = some expiry) (hn : reached s.now expiry = true) :
    ∃ y t, exec (.responseWindowExpiry q) s = .next t ∧
      LinesOnly ((s.outcomeTaken q e .noReply).setPort q y) t := by
  have ran := exec_responseWindowExpiry hl hw hn
  rw [finishExchange_enabled hx he (by rw [hl]; decide)] at ran
  exact ⟨_, _, ran, linesOnly_serviceLines _⟩

end HandedOver

section DataOutcome

variable {s : State} {p : Fin 32} {feed : Byte} {next : Option Nat}

/-- R94: the block is a START or DATA of the entry `feed`, after which the segment `next` is due. -/
def SendsEntry (kind : BlockKind) (feed : Byte) (next : Option Nat) : Prop :=
  (∃ noData, kind = .start feed noData ∧ next = if noData then none else some 0) ∨
    ∃ n last, kind = .data feed n last ∧ next = if last then none else some (n + 1)

theorem takeOutcome_data {kind : BlockKind} (hk : SendsEntry kind feed next)
    (hc : (s.printer p).config.configured = true) (o : ExchangeOutcome) :
    s.takeOutcome p kind o = s.takeDataOutcome p feed next o := by
  rcases hk with ⟨noData, rfl, rfl⟩ | ⟨n, last, rfl, rfl⟩ <;> exact if_pos hc

theorem takeDataOutcome_ack (room : Byte) :
    s.takeDataOutcome p feed next (.replyOk 0x82#8 [room]) = s.takeAck p feed next room.toNat := rfl

theorem takeDataOutcome_nak : s.takeDataOutcome p feed next (.replyOk 0x83#8 []) = s.takeNak p feed := rfl

/-- R87: every other reply is a failed exchange. -/
theorem acceptanceOf_failed {o : ExchangeOutcome} (hack : ∀ room, o ≠ .replyOk 0x82#8 [room])
    (hnak : o ≠ .replyOk 0x83#8 []) : acceptanceOf o = .failed := by
  cases o with
  | noReply | badReply => rfl
  | replyOk kind payload =>
    have noAck : ¬(kind = 0x82#8 ∧ payload.length = 1) := by
      rintro ⟨rfl, hlen⟩
      obtain ⟨room, rfl⟩ := List.length_eq_one_iff.1 hlen
      exact hack room rfl
    have noNak : ¬(kind = 0x83#8 ∧ payload.length = 0) := by
      rintro ⟨rfl, hlen⟩
      cases List.eq_nil_of_length_eq_zero hlen
      exact hnak rfl
    exact (if_neg noAck).trans (if_neg noNak)

theorem takeDataOutcome_failed {o : ExchangeOutcome} (hack : ∀ room, o ≠ .replyOk 0x82#8 [room])
    (hnak : o ≠ .replyOk 0x83#8 []) : s.takeDataOutcome p feed next o = s.exchangeFailed p := by
  rw [State.takeDataOutcome, acceptanceOf_failed hack hnak]

theorem stillSending_iff :
    s.stillSending p feed = true ↔ (oldestSending (s.disp p).window).map WindowEntry.feed = some feed := beq_iff_eq

/-! ### ACK (R95) -/

/-- R95: what an ACK sets whichever entry it is for: the link, the misses and the room. -/
def State.acknowledged (s : State) (p : Fin 32) (room : Nat) : State :=
  (s.answered p 0).setPrinter p { (s.answered p 0).printer p with room := room }

theorem takeAck_stale {room : Nat}
    (h : (oldestSending ((s.acknowledged p room).disp p).window).map WindowEntry.feed ≠ some feed) :
    s.takeAck p feed next room = s.acknowledged p room := if_neg (mt stillSending_iff.1 h)

theorem takeAck_current {room : Nat}
    (h : (oldestSending ((s.acknowledged p room).disp p).window).map WindowEntry.feed = some feed) :
    s.takeAck p feed next room =
      ((s.acknowledged p room).setPrinter p { (s.acknowledged p room).printer p with naks := 0 }).advance p next :=
  if_pos (stillSending_iff.2 h)

/-- R95: the next segment is due. -/
theorem advance_segment (t : State) (n : Nat) :
    (t.setPrinter p { t.printer p with naks := 0 }).advance p (some n) =
      t.setPrinter p { t.printer p with naks := 0, stage := some (.data n) } := by
  show State.setPrinter _ p { State.printer _ p with stage := _ } = _
  rw [State.printer_setPrinter, if_pos rfl, State.setPrinter_setPrinter]

/-- R94: another entry is the oldest SENDING one, or none is. -/
theorem setWindow_moved {t : State} {w : List WindowEntry}
    (h : (oldestSending (t.disp p).window).map WindowEntry.feed ≠ (oldestSending w).map WindowEntry.feed) :
    t.setWindow p w = (t.setDisp p { t.disp p with window := w }).setPrinter p { t.printer p with
      stage := if (oldestSending w).isSome then some .start else none
      naks := 0 } := congrArg (State.setPrinter _ p) (if_neg h)

/-- R94, R95: after the last block the entry is SENT, and the next SENDING one is due from START. -/
theorem advance_last {t : State} {sent : List WindowEntry}
    (h : (oldestSending (t.disp p).window).map WindowEntry.feed = some feed)
    (hs : sent = replaceFirst (fun e => !e.sent) (fun e => { e with sent := true }) (t.disp p).window)
    (hn : (oldestSending sent).map WindowEntry.feed ≠ some feed) :
    (t.setPrinter p { t.printer p with naks := 0 }).advance p none =
      (t.setDisp p { t.disp p with window := sent }).setPrinter p { t.printer p with
        naks := 0
        stage := if (oldestSending sent).isSome then some .start else none } := by
  have moved : (oldestSending (t.disp p).window).map WindowEntry.feed ≠ (oldestSending sent).map WindowEntry.feed :=
    fun e => hn (e.symm.trans h)
  show State.setWindow _ p (replaceFirst _ _ (t.disp p).window) = _
  rw [← hs, setWindow_moved (t := t.setPrinter p _) moved, State.printer_setPrinter, if_pos rfl]
  exact State.setPrinter_setPrinter (t.setDisp p { t.disp p with window := sent }) p _ _

/-! ### NAK (R96) -/

section Nak

variable {a : State} (ha : a = s.answered p (s.printer p).missed)
include ha

theorem takeNak_stale (h : (oldestSending (a.disp p).window).map WindowEntry.feed ≠ some feed) :
    s.takeNak p feed = a := by
  subst ha
  exact if_neg (mt stillSending_iff.1 h)

variable (h : (oldestSending (a.disp p).window).map WindowEntry.feed = some feed)
include h

theorem takeNak_counted (hn : (a.printer p).naks + 1 < 4) :
    s.takeNak p feed = a.setPrinter p { a.printer p with naks := (a.printer p).naks + 1 } := by
  subst ha
  exact (if_pos (stillSending_iff.2 h)).trans (if_pos hn)

/-- R96: the fourth NAK in a row. -/
theorem takeNak_fourth (hn : 4 ≤ (a.printer p).naks + 1) :
    s.takeNak p feed = (a.setPrinter p { a.printer p with naks := 0 }).exchangeFailed p := by
  subst ha
  exact (if_pos (stillSending_iff.2 h)).trans (if_neg (Nat.not_lt.2 hn))

end Nak

end DataOutcome

end Sys2Proof.Machine

/-! ## A printer that is not READY, and the loss of a CANCELLING job's window (R47, R63, R102, R149) -/

namespace Sys2Proof.Machine

section Unserved

variable {s t : State} {i j : Fin 128} {x : Job} {p q : Fin 32} {d : Dispatch} {r : Printer}

theorem available_of_condition (h : (s.printer p).condition ≠ some .ready) : s.available p = false := by
  refine Bool.eq_false_iff.2 fun ha => ?_
  obtain ⟨-, -, -, -, ready, -⟩ := available_iff.1 ha
  exact h ready

section NotReady

variable (hr : r.condition ≠ some .ready)
include hr

/-- R47: no run of an arbiter reaches a printer that is not READY. -/
theorem Stands.arbiterLoop_notReady (k : Fin 16) : ∀ (n : Nat) {t : State}, Stands p d r t →
    Stands p d r (State.arbiterLoop n k t)
  | 0, _, h => h
  | n + 1, t, h => by
    unfold State.arbiterLoop
    split
    · exact h
    next q i hpick =>
    have available := (pick_eq_some_iff.1 hpick).1.available
    have hne : p ≠ q := by
      rintro rfl
      exact Bool.false_ne_true ((available_of_condition (h.printer ▸ hr)).symm.trans available)
    exact Stands.arbiterLoop_notReady k n ((h.of_eq rfl rfl : Stands p d r (t.setPool k _)).assign hne k i)

theorem Stands.offerPrinter_notReady (h : Stands p d r s) (q : Fin 32) : Stands p d r (s.offerPrinter q) := by
  unfold State.offerPrinter State.runArbiter
  split
  · split
    · exact kept_ite (h.arbiterLoop_notReady hr _ _) h
    · exact h
  · exact h

end NotReady

/-- R22: the end of a job leaves the window of a printer that is not READY as it is. -/
theorem window_endJob_notReady (hx : s.job j = some x) (hn : (s.printer p).condition ≠ some .ready) (o : JobOutcome)
    (c : Cause) : ((s.endJob j o c).disp p).window = (s.disp p).window := by
  have released : ((s.released x o c).leaveQueue x.pool j).disp p = s.disp p := released_disp s x o c p
  have off : (((s.released x o c).unqueued j x).disp p).window = (s.disp p).window := by
    unfold State.unqueued State.unassignEnded
    split
    · next q _ =>
      have notReady :
          (State.printer (State.detach ((s.released x o c).leaveQueue x.pool j) j q) p).condition ≠ some .ready := by
        rw [printer_detach,
          show ((s.released x o c).leaveQueue x.pool j).printer p = s.printer p from released_printer s x o c p]
        exact hn
      rw [((Stands.mk rfl rfl).offerPrinter_notReady notReady q).disp, disp_detach]
      split
      · next e => rw [← released, e]
      · rw [released]
    · rw [released]
  rw [endJob_steps hx, slotFreed_only]
  exact off

end Unserved

/-! ### A frame handed over first (R22) -/

theorem HandedFirst.grow {s t u : State} {f : OutFrame} (h : HandedFirst s f t) (k : LinkGrows t u) : HandedFirst s f u := by
  unfold HandedFirst at *
  split at h
  · next room =>
    rw [if_pos room]
    exact h.trans k.tx
  · next full =>
    rw [if_neg full]
    have := k.linkErrors
    omega

/-! ### The loss of the window -/

section LoseCancelling

variable {s : State} {p : Fin 32} {e : WindowEntry} {rest : List WindowEntry} {x : Job}
  (hw : (s.disp p).window = e :: rest) (hx : s.job e.job = some x)
include hw hx

omit hx in
/-- R63: what follows a loss of the whole window. -/
theorem lose_whole : s.lose p 0 = (s.loseFrom p 0).afterWindowChange e.job p := by
  unfold State.lose
  rw [hw]
  rfl

theorem job_loseWhole : (s.loseFrom p 0).job e.job = some (rewound x e (rest.length + 1)) := by
  have lost := (entriesLost_loseFrom (s := s) (p := p) (k := 0) (by rw [hw]; rfl) hx).job e.job
  rw [if_pos rfl, hw] at lost
  exact lost

/-- R63: a PRINTING job lives on, with its lost sheets counted. -/
theorem lose_printing (hp : x.phase = .printing) :
    LiveWith e.job (fun y => y.sheetsLost = satAdd Config.max16 x.sheetsLost (rest.length + 1)) (s.lose p 0) := by
  have lost : KeptByDrains fun y => y.sheetsLost = satAdd Config.max16 x.sheetsLost (rest.length + 1) :=
    { released := id, draining := id, heldForBudget := id, printing := fun _ => id, offPrinter := id, queued := id, held := id }
  rw [lose_whole hw]
  exact lost.afterWindowChange (job_loseWhole hw hx) hp rfl rfl p

variable {o : JobOutcome} {c : Cause} (hp : x.phase = .cancelling) (he : x.ending = some (o, c))
include hp he

/-- R23, R63: a CANCELLING job ends with its window. -/
theorem lose_cancelling : s.lose p 0 = (s.loseFrom p 0).endJob e.job o c := by
  have lost := job_loseWhole hw hx
  rw [lose_whole hw, afterWindowChange_cancelling lost hp, if_pos (window_loseFrom_zero ..), endCancelled_some lost he]

theorem lose_cancelling_ends : (s.lose p 0).job e.job = none ∧
    HandedFirst s (.jobReport (reportOf (rewound x e (rest.length + 1)) o c)) (s.lose p 0) := by
  have lost := job_loseWhole hw hx
  have jli := (entriesLost_loseFrom (s := s) (p := p) (k := 0) (by rw [hw]; rfl) hx).jli
  rw [lose_cancelling hw hx hp he]
  exact ⟨endJob_job lost o c, (endJob_handedFirst lost o c).of_jli jli⟩

end LoseCancelling

/-! ### A new condition, and a JAM (R102) -/

section NewCondition

variable {s : State} {p : Fin 32}

theorem canFeed_conditionAlerts {c : Condition} (hc : c ≠ .ready) (old : Option Condition) :
    ((s.conditionStored p c).conditionAlerts p old c).canFeed p = false := by
  refine canFeed_of_condition ?_
  rw [(alertOnly_conditionAlerts ..).printer, printerDispatched_conditionStored s p c]
  exact fun h => hc (Option.some.inj h)

/-- R102, R134: what the alerts and can feed make of a stored condition that keeps the printer from feeding. -/
theorem takeCondition_stops {c : Condition} (hc : c ≠ .ready) (h : (s.printer p).condition ≠ some c) :
    ∃ u, AlertOnly (s.conditionStored p c) u ∧ StopOnly u (s.takeCondition p c) := by
  rw [takeCondition_new h]
  exact ⟨_, alertOnly_conditionAlerts .., stopOnly_refreshFeed (canFeed_conditionAlerts hc _)⟩

theorem StopOnly.job_none {t : State} {j : Fin 128} (h : StopOnly s t) (hj : s.job j = none) : t.job j = none := by
  rcases h.jobs j with same | ⟨x, hx, -⟩
  · exact same.trans hj
  · cases hj.symm.trans hx

theorem linkGrows_takeCondition {c : Condition} (h : (s.printer p).condition ≠ some c) :
    LinkGrows (s.conditionStored p c) (s.takeCondition p c) := by
  have K := keepsPrinting_linkGrows (s.conditionStored p c)
  rw [takeCondition_new h]
  exact K.refreshFeed p (K.raiseConditionAlert p _ (K.clearConditionAlert p _ (.refl _)))

section Jam

variable {e : WindowEntry} {rest : List WindowEntry} {x : Job} (hn : (s.printer p).condition ≠ some .jam)
  (hw : (s.disp p).window = e :: rest) (hx : s.job e.job = some x)
include hn hw hx

theorem takeJam_printing (hp : x.phase = .printing) :
    ∃ y, (s.takeCondition p .jam).job e.job = some y ∧
      y.sheetsLost = satAdd Config.max16 x.sheetsLost (rest.length + 1) := by
  obtain ⟨u, alerts, stopped⟩ := takeCondition_stops (by decide) hn
  obtain ⟨y, hy, lost⟩ := lose_printing (s := s.setPrinter p { s.printer p with condition := some .jam }) hw hx hp
  have live : u.job e.job = some y := (alerts.job e.job).trans hy
  rcases stopped.jobs e.job with same | ⟨z, hz, stalled⟩
  · exact ⟨y, same.trans live, lost⟩
  · cases hz.symm.trans live
    exact ⟨_, stalled, lost⟩

/-- R102: a JAM ends a CANCELLING job, and the printer, which is not READY, is given no other. -/
theorem takeJam_cancelling {o : JobOutcome} {c : Cause} (hp : x.phase = .cancelling) (he : x.ending = some (o, c)) :
    (s.takeCondition p .jam).job e.job = none ∧ ((s.takeCondition p .jam).disp p).window = [] ∧
      ((s.takeCondition p .jam).printer p).needsDrop = (s.printer p).needsDrop ∧
      HandedFirst s (.jobReport (reportOf (rewound x e (rest.length + 1)) o c)) (s.takeCondition p .jam) := by
  have hw' : ((s.setPrinter p { s.printer p with condition := some .jam }).disp p).window = e :: rest := hw
  have hx' : (s.setPrinter p { s.printer p with condition := some .jam }).job e.job = some x := hx
  obtain ⟨u, alerts, stopped⟩ := takeCondition_stops (by decide) hn
  obtain ⟨ended, handed⟩ := lose_cancelling_ends hw' hx' hp he
  have window : ((s.conditionStored p .jam).disp p).window = [] := by
    show ((State.lose (s.setPrinter p { s.printer p with condition := some .jam }) p 0).disp p).window = []
    rw [lose_cancelling hw' hx' hp he, window_endJob_notReady (job_loseWhole hw' hx') ?_, window_loseFrom_zero]
    rw [printerDispatched_loseFrom _ p p 0, State.printer_setPrinter, if_pos rfl]
    nofun
  refine ⟨stopped.job_none ((alerts.job e.job).trans ended), ?_, ?_, ?_⟩
  · rw [stopped.window, alerts.disp]
    exact window
  · rw [printerDispatched_takeCondition]
  · exact (handed.of_jli rfl).grow (linkGrows_takeCondition hn)

end Jam

end NewCondition

end Sys2Proof.Machine

/-! ## The answer to a DROP-SHEETS (R103, R104, R149) -/

namespace Sys2Proof.Machine

/-! ### The committed field (R104, R149) -/

section Committed

variable {s : State} {p : Fin 32}

theorem cancellingOn_iff : s.cancellingOn p = true ↔
    ∃ j x, (s.disp p).assigned = some j ∧ s.job j = some x ∧ x.phase = .cancelling := by
  unfold State.cancellingOn
  cases ha : (s.disp p).assigned with
  | none => simp
  | some j =>
    cases hx : s.job j with
    | none => simp [hx]
    | some x => simp [hx]

theorem takeCommitted_idle (h : ∀ j x, (s.disp p).assigned = some j → s.job j = some x → x.phase ≠ .cancelling)
    (committed : Option Byte) : s.takeCommitted p committed = s :=
  if_neg fun hc => by
    obtain ⟨j, x, ha, hx, hp⟩ := cancellingOn_iff.1 hc
    exact h j x ha hx hp

variable {e : WindowEntry} {rest : List WindowEntry} (hc : s.cancellingOn p = true)
  (hw : (s.disp p).window = e :: rest)
include hc hw

theorem takeCommitted_absent : s.takeCommitted p none = s.lose p 0 := by
  unfold State.takeCommitted
  rw [if_pos hc, hw]

theorem takeCommitted_present (f : Byte) : s.takeCommitted p (some f) =
    if (f - e.feed).toNat < rest.length + 1 then s.lose p ((f - e.feed).toNat + 1)
    else if 128 ≤ (f - e.feed).toNat then s.lose p 0 else s.countProtocolError p := by
  unfold State.takeCommitted
  rw [if_pos hc, hw]

/-- R104: a committed field that names the window's newest entry loses none. -/
theorem takeCommitted_newest {f : Byte} (hb : (f - e.feed).toNat = rest.length) : s.takeCommitted p (some f) = s := by
  have beyond : (s.disp p).window[rest.length + 1]? = none := by rw [hw]; simp
  rw [takeCommitted_present hc hw, if_pos (by omega), hb, State.lose, beyond]

/-- R104: with no field, or one that names a feed from before the window, the whole window is lost. -/
theorem takeCommitted_whole {committed : Option Byte}
    (h : committed = none ∨ ∃ f, committed = some f ∧ rest.length < (f - e.feed).toNat ∧ 128 ≤ (f - e.feed).toNat) :
    s.takeCommitted p committed = s.lose p 0 := by
  rcases h with rfl | ⟨f, rfl, hlong, hfar⟩
  · exact takeCommitted_absent hc hw
  · rw [takeCommitted_present hc hw, if_neg (by omega), if_pos hfar]

/-- R101, R104: a field that names a feed beyond the window is a protocol error. -/
theorem takeCommitted_beyond {f : Byte} (hlong : rest.length < (f - e.feed).toNat) (hnear : (f - e.feed).toNat < 128) :
    s.takeCommitted p (some f) = s.countProtocolError p := by
  rw [takeCommitted_present hc hw, if_neg (by omega), if_neg (by omega)]

variable {f : Byte} {l : WindowEntry} {x : Job} (hl : rest[(f - e.feed).toNat]? = some l) (hx : s.job l.job = some x)
  (hp : x.phase = .cancelling)
include hl hx hp

/-- R149: the entries after the committed one are lost, and the CANCELLING job waits for the others. -/
theorem takeCommitted_partial : s.takeCommitted p (some f) = s.loseFrom p ((f - e.feed).toNat + 1) := by
  obtain ⟨short, -⟩ := List.getElem?_eq_some_iff.1 hl
  have first : (s.disp p).window[(f - e.feed).toNat + 1]? = some l := by rw [hw]; exact hl
  have lost := (entriesLost_loseFrom first hx).job l.job
  rw [if_pos rfl] at lost
  rw [takeCommitted_present hc hw, if_pos (by omega), State.lose, first]
  dsimp only
  rw [afterWindowChange_cancelling lost hp, if_neg]
  rw [disp_loseFrom, if_pos rfl, hw]
  exact List.cons_ne_nil _ _

theorem window_takeCommitted_partial : ((s.takeCommitted p (some f)).disp p).window =
    (e :: rest).take ((f - e.feed).toNat + 1) := by
  rw [takeCommitted_partial hc hw hl hx hp, disp_loseFrom, if_pos rfl, hw]

theorem job_takeCommitted_partial : (s.takeCommitted p (some f)).job l.job =
    some (rewound x l (rest.length - (f - e.feed).toNat)) := by
  have first : (s.disp p).window[(f - e.feed).toNat + 1]? = some l := by rw [hw]; exact hl
  have lost := (entriesLost_loseFrom first hx).job l.job
  rw [if_pos rfl, hw] at lost
  rw [takeCommitted_partial hc hw hl hx hp, lost]
  simp

theorem reserved_takeCommitted_partial : ((s.takeCommitted p (some f)).account x.account).reserved =
    (s.account x.account).reserved - estimates (rest.drop (f - e.feed).toNat) := by
  have first : (s.disp p).window[(f - e.feed).toNat + 1]? = some l := by rw [hw]; exact hl
  rw [takeCommitted_partial hc hw hl hx hp, loseFrom_some first hx, account_each_unreserve, hw]
  rfl

end Committed

/-! ### The outcome of a DROP-SHEETS (R103) -/

section DropSheets

variable {s : State} {p : Fin 32} {o : ExchangeOutcome}

/-- R103: the loss of a link keeps needs-drop set. -/
theorem needsDrop_settleLost (h : (s.printer p).needsDrop = true) : ((s.settleLost p).printer p).needsDrop = true := by
  rcases settleLost_cases s p with same | ⟨j, o, c, f, ended⟩
  · rwa [same]
  · rw [ended, printerDispatched_endJob (.refl _) j o c]
    exact (toldToDrop_setNeedsDrop (s.loseFrom p 0) p f).1

theorem needsDrop_exchangeFailed (h : (s.printer p).needsDrop = true) :
    ((s.exchangeFailed p).printer p).needsDrop = true := by
  by_cases hn : (s.printer p).missed + 1 < 3
  · rw [exchangeFailed_counted hn, State.printer_setPrinter, if_pos rfl]
    exact h
  by_cases hl : (s.printer p).link = .lost
  · rw [exchangeFailed_again (Nat.not_lt.1 hn) hl, State.printer_setPrinter, if_pos rfl]
    exact h
  · rw [exchangeFailed_loses (Nat.not_lt.1 hn) hl, becomeLost_eq]
    refine needsDrop_settleLost ?_
    rw [printer_lossAlerted]
    exact h

variable (hc : (s.printer p).config.configured = true)
include hc

theorem takeOutcome_dropSheets_status {payload : List Byte} {st : Status} (h : readStatus payload = some st) :
    s.takeOutcome p .dropSheets (.replyOk 0x81#8 payload) =
      ((s.setPrinter p { s.printer p with needsDrop := false, dropFrom := none }).takeStatus p st true).offerPrinter p := by
  have found : statusOf (.replyOk 0x81#8 payload) = some st := h
  show (if _ then s.takeDropOutcome p _ else s) = _
  rw [if_pos hc, State.takeDropOutcome, found]

variable (h : statusOf o = none)
include h

theorem takeOutcome_dropSheets_failed :
    s.takeOutcome p .dropSheets o = ((s.exchangeFailed p).retryDrop p).setPollDue p := by
  show (if _ then s.takeDropOutcome p _ else s) = _
  rw [if_pos hc, State.takeDropOutcome, h]

theorem pollDue_dropSheets_failed : ((s.takeOutcome p .dropSheets o).printer p).pollDue =
    s.now + BitVec.ofNat 32 (s.port (portOf p)).config.poll := by
  have only : PrintingOnly s ((s.exchangeFailed p).retryDrop p) :=
    (keepsPrinting_only s).retryDrop p (printingOnly_exchangeFailed s p)
  rw [takeOutcome_dropSheets_failed hc h, setPollDue_eq only.pollTime]
  exact congrArg Printer.pollDue (put_get_same ..)

/-- R103: a DROP-SHEETS that has failed is queued again. -/
theorem control_dropSheets_failed (hd : (s.printer p).needsDrop = true) (hl : (s.port (portOf p)).line ≠ .disabled) :
    { drop := dropOf p, waitDue := true } ∈ ((s.takeOutcome p .dropSheets o).port (portOf p)).control := by
  rw [takeOutcome_dropSheets_failed hc h, State.retryDrop, if_pos (needsDrop_exchangeFailed hd)]
  refine mem_control_queueDropSheets (s := s.exchangeFailed p) ?_
  rw [(printingOnly_exchangeFailed s p).ports]
  exact hl

end DropSheets

end Sys2Proof.Machine

/-! ## The outcomes of exchanges settled -/

namespace Sys2Proof.Machine

/-- R95, R97: the outcome ACK, by whether its entry is still the oldest SENDING one. -/
theorem ack_outcome (s : State) (p : Fin 32) (kind : BlockKind) (feed : Byte) (next : Option Nat)
    (hk : SendsEntry kind feed next) (hc : (s.printer p).config.configured = true) (room : Byte) (a b v : State)
    (ha : a = s.answered p 0) (hb : b = a.setPrinter p { a.printer p with room := room.toNat })
    (hv : v = s.takeOutcome p kind (.replyOk 0x82#8 [room])) :
    ((oldestSending (b.disp p).window).map WindowEntry.feed ≠ some feed → v = b) ∧
    ((oldestSending (b.disp p).window).map WindowEntry.feed = some feed →
      (∀ n, next = some n → v = b.setPrinter p { b.printer p with naks := 0, stage := some (.data n) }) ∧
      ∀ sent, next = none →
        sent = replaceFirst (fun e => !e.sent) (fun e => { e with sent := true }) (b.disp p).window →
        (oldestSending sent).map WindowEntry.feed ≠ some feed →
        v = (b.setDisp p { b.disp p with window := sent }).setPrinter p { b.printer p with
          naks := 0
          stage := if (oldestSending sent).isSome then some .start else none }) := by
  subst ha
  have acknowledged : b = s.acknowledged p room.toNat := hb
  rw [takeOutcome_data hk hc, takeDataOutcome_ack] at hv
  rw [hv, acknowledged]
  refine ⟨takeAck_stale, fun current => ⟨?_, fun sent hn hs moved => ?_⟩⟩
  · rintro n rfl
    rw [takeAck_current current, advance_segment]
  · rw [takeAck_current current, hn, advance_last current hs moved]

/-- R96, R97: the outcome NAK, by the same case and the NAKs before it. -/
theorem nak_outcome (s : State) (p : Fin 32) (kind : BlockKind) (feed : Byte) (next : Option Nat)
    (hk : SendsEntry kind feed next) (hc : (s.printer p).config.configured = true) (a v : State)
    (ha : a = s.answered p (s.printer p).missed) (hv : v = s.takeOutcome p kind (.replyOk 0x83#8 [])) :
    ((oldestSending (a.disp p).window).map WindowEntry.feed ≠ some feed → v = a) ∧
    ((oldestSending (a.disp p).window).map WindowEntry.feed = some feed →
      ((a.printer p).naks + 1 < 4 → v = a.setPrinter p { a.printer p with naks := (a.printer p).naks + 1 }) ∧
      (4 ≤ (a.printer p).naks + 1 → v = (a.setPrinter p { a.printer p with naks := 0 }).exchangeFailed p)) := by
  rw [takeOutcome_data hk hc, takeDataOutcome_nak] at hv
  rw [hv]
  exact ⟨takeNak_stale ha, fun current => ⟨takeNak_counted ha current, takeNak_fourth ha current⟩⟩

/-- Settles O40: the outcome goes to the Printer Agent, whose operations are taken one by one. -/
theorem outcomesReachThePrinter : Obligations.OutcomesReachThePrinter := by
  unfold Obligations.OutcomesReachThePrinter
  refine ⟨?_, fun s p kind feed next hc hk => ⟨ack_outcome s p kind feed next hk hc, nak_outcome s p kind feed next hk hc,
    fun o hack hnak => ?_⟩, ?_⟩
  · rintro s w q _ e o rfl hx he
    refine ⟨fun c d len reply hl hm hc hreply hlen hshort hfull hw ho => ?_, fun expiry => expiry_handsOver hx he⟩
    subst hw ho
    exact replyReceived_handsOver hx he hl hm hc hreply hlen hshort hfull
  · rw [takeOutcome_data hk hc, takeDataOutcome_failed hack hnak]
  · rintro s p _ rfl
    refine ⟨exchangeFailed_counted, exchangeFailed_again, fun hn hl => ?_, ?_, fun hc => ⟨?_, ?_⟩,
      fun committed h => takeCommitted_idle h committed, ?_, ?_⟩
    · have kept := statusKept_becomeLost s p
      refine ⟨printingOnly_exchangeFailed s p, ?_, ?_, ?_⟩ <;> rw [exchangeFailed_loses hn hl]
      · rw [kept]
      · rw [kept]
      · exact entriesActive_becomeLost
    · rintro _ x o c e rest ha hx hp he hw rfl
      refine ⟨?_, ?_⟩
      · rintro _ hn hl rfl
        rw [exchangeFailed_loses hn hl]
        exact becomeLost_cancelling ha hx hp he hw
      · rintro _ hn rfl
        exact takeJam_cancelling hn hw hx hp he
    · exact fun payload st => takeOutcome_dropSheets_status hc
    · rintro o _ h rfl
      exact ⟨printingOnly_takeOutcome .., pollDue_dropSheets_failed hc h, control_dropSheets_failed hc h⟩
    · rintro j x o c e rest committed _ ha hx hp he hw hown rfl
      have hon : s.cancellingOn p = true := cancellingOn_iff.2 ⟨j, x, ha, hx, hp⟩
      obtain rfl : e.job = j := hown e List.mem_cons_self
      refine ⟨(keepsPrinting_only s).takeCommitted p committed (.refl s), fun h => ?_, ?_⟩
      · rw [takeCommitted_whole hon hw h]
        exact lose_cancelling_ends hw hx hp he
      · rintro f _ rfl rfl
        refine ⟨takeCommitted_newest hon hw, fun l hl => ?_, takeCommitted_beyond hon hw⟩
        have owner : l.job = e.job := hown l (List.mem_cons_of_mem _ (List.mem_of_getElem? hl))
        have hx' : s.job l.job = some x := owner ▸ hx
        refine ⟨window_takeCommitted_partial hon hw hl hx' hp, ?_, reserved_takeCommitted_partial hon hw hl hx' hp⟩
        rw [← owner]
        exact job_takeCommitted_partial hon hw hl hx' hp
    · rintro c _ _ rfl rfl
      refine ⟨takeCondition_same, fun hn => ⟨takeCondition_new hn, ?_⟩⟩
      rintro e rest x rfl hw hx hp
      exact takeJam_printing hn hw hx hp

end Sys2Proof.Machine
